-- ==== Sys2Proof/Word.lean ====
section
/-! DEFINITION. The word types of the HV-3 model and the way a wide value is cut into lanes. -/

namespace Sys2Proof

/-- A byte of memory, of the register space or of the core store. -/
abbrev Byte := BitVec 8

/-- A control register, a doubleword, the width of a scalar port. -/
abbrev Word := BitVec 64

/-- The widest value a move carries, 1 KiB (R65, R66). Narrower values stand in the low bytes,
with zero above. Lane 0 is at the lowest bits (R10). -/
abbrev Wide := BitVec 8192

/-- Bits [14:2] of a PC: the index of a parcel in the instruction store (R9, R173). -/
abbrev Pc := BitVec 13

/-- A virtual or intermediate address (R100). -/
abbrev Addr := BitVec 48

end Sys2Proof
end

