-- ==== Sys2Proof/Config.lean ====
section
/-! DEFINITION. What one part or one release fixes and the manual does not say: free values, each
an opaque constant that no proof can look into. Fixed numbers of the manual stand beside them. -/

namespace Sys2Proof.Config

/-- What an enc codes a picture from beside its samples: PROF, WIDTH, HEIGHT and BASEQ of the session record, FNUM,
whether it is a key frame, the q of each block where a QP map is given, and the reference store (R255, R257). -/
structure EncTask where
  prof : Nat
  width : Nat
  height : Nat
  fnum : Nat
  key : Bool
  baseq : Nat
  blocks : Option (List Nat)
  ref : List (BitVec 8)
deriving DecidableEq, Repr

/-- The bytes of a sample (R255). -/
def sampleBytes (prof : Nat) : Nat := if prof % 2 = 1 then 2 else 1

/-- The bytes of a picture's samples, luma and chroma, without what fills its rows up to their pitch (R255). -/
def pictureBytes (prof width height : Nat) : Nat := width * sampleBytes prof * (height + height / 2)

/-- Whether bytes are the samples of a picture: all of them, and of 10-bit samples bits [15:10] zero (R255). -/
def isPicture (prof width height : Nat) (px : List (BitVec 8)) : Bool :=
  px.length == pictureBytes prof width height &&
    (prof % 2 == 0 || px.zipIdx.all fun x => x.2 % 2 == 0 || decide (x.1.toNat < 4))

/-- A codec engine: the payload and the reference store that an enc makes of a picture, and what a dec makes of the
reference store and a payload for a PROF, WIDTH and HEIGHT: the picture, none where the input does not conform, and
the next reference store (R257, R258). What an enc has coded conforms, and leaves the reference store of the dec as that
of the enc, a key frame from any reference store and another from the one that the enc coded it with (log 13); what is
coded with q 0 throughout is lossless besides (R336). A payload keeps to the 32 bits of LEN. -/
structure Codec where
  enc : EncTask → List (BitVec 8) → List (BitVec 8)
  encRef : EncTask → List (BitVec 8) → List (BitVec 8)
  dec : Nat → Nat → Nat → List (BitVec 8) → List (BitVec 8) → Option (List (BitVec 8))
  decRef : Nat → Nat → Nat → List (BitVec 8) → List (BitVec 8) → List (BitVec 8)
  conforms : ∀ p w h ref x px, dec p w h ref x = some px → isPicture p w h px = true
  follows : ∀ (t : EncTask) ref px, t.key = true ∨ ref = t.ref → isPicture t.prof t.width t.height px = true →
    (dec t.prof t.width t.height ref (enc t px)).isSome = true ∧ decRef t.prof t.width t.height ref (enc t px) = encRef t px
  lossless : ∀ (t : EncTask) ref px, t.prof < 2 → t.baseq = 0 → t.blocks = none → t.key = true ∨ ref = t.ref →
    isPicture t.prof t.width t.height px = true → dec t.prof t.width t.height ref (enc t px) = some px
  short : ∀ t px, px.length < 2 ^ 32 → (enc t px).length < 2 ^ 32

/-- There is such a codec: one that copies. -/
@[reducible] def copyCodec : Inhabited Codec :=
  ⟨{ enc := fun _ px => px
     encRef := fun _ px => px
     dec := fun p w h _ x => if isPicture p w h x then some x else none
     decRef := fun _ _ _ _ x => x
     conforms := by
       intro p w h ref x px hx
       by_cases hp : isPicture p w h x = true
       · simp only [hp, if_true, Option.some.injEq] at hx
         exact hx ▸ hp
       · simp [hp] at hx
     follows := by
       intro t ref px _ hp
       simp [hp]
     lossless := by
       intro t ref px _ _ _ _ hp
       simp [hp]
     short := fun _ _ h => h }⟩

/-- The codec that a part has, some codec: R257 and R258 name its formats and give no coding. Free value, log 13. -/
opaque someCodec (_ : Inhabited Codec) : Codec

/-- The codec of the part. -/
def codec : Codec := someCodec copyCodec

/-- The SHA-384 digest of a measured object (R315, R316). Free value, log 14. -/
opaque sha384 : List (BitVec 8) → BitVec 384

/-- The contents of the boot ROM, measured as index 1 (R316). Free value, log 14. -/
opaque bootRom : List (BitVec 8)

/-- Whether an object's ECDSA P-384 signature verifies (R315). Free value, log 14. -/
opaque ecdsaVerifies : List (BitVec 8) → Bool

/-- Whether an object's LMS signature verifies (R315). Free value, log 14. -/
opaque lmsVerifies : List (BitVec 8) → Bool

/-- The signature of an SPDM response over a digest (R316). Free value, log 14. -/
opaque spdmSignature : BitVec 384 → List (BitVec 8)

/-- What a module record holds of the supply (R28, R319): the least VDD in mV at which a cluster runs at FSTEP f and
BIAS b, BIAS of each cluster, and VDD. VDD and BIAS keep to the limits of R16, the clusters run at that VDD as they come
out of reset, and the least ACLK needs no more than another (log 15). -/
structure Trims where
  vmin : List (BitVec 8) → Nat → Nat → Int → Nat
  bias : List (BitVec 8) → Nat → BitVec 8
  vdd : List (BitVec 8) → Nat
  vddRange : ∀ r, 680 ≤ vdd r ∧ vdd r ≤ 900
  biasRange : ∀ r c, -30 ≤ (bias r c).toInt ∧ (bias r c).toInt ≤ 30
  boots : ∀ r c, vmin r c 24 (bias r c).toInt ≤ vdd r
  least : ∀ r c f b, vmin r c 0 b ≤ vmin r c f b

/-- There are such trims: the floor for everything. -/
@[reducible] def floorTrims : Inhabited Trims :=
  ⟨{ vmin := fun _ _ _ _ => 680, bias := fun _ _ => 0, vdd := fun _ => 680, vddRange := fun _ => by decide, biasRange := fun _ _ => by decide,
     boots := by simp, least := by simp }⟩

/-- What module records hold, some trims. Free value, log 15. -/
opaque someTrims (_ : Inhabited Trims) : Trims

/-- What module records hold. -/
def trims : Trims := someTrims floorTrims

/-- Vmin of a record, a cluster, an FSTEP and a BIAS (R319). -/
def vmin : List (BitVec 8) → Nat → Nat → Int → Nat := trims.vmin

/-- BIAS of each cluster as a module record holds it (R28, R319). -/
def biasTrim : List (BitVec 8) → Nat → BitVec 8 := trims.bias

/-- VDD in mV as a module record holds it (R28, R319). -/
def vddTrim : List (BitVec 8) → Nat := trims.vdd

/-- Whether a module record makes a peer port a root port (R308). Free value, log 15. -/
opaque rootPort : List (BitVec 8) → Nat → Bool

/-- The streams of the twelve partitions of the firmware core that a firmware image holds, an empty one where the
partition is not started (R315). Free value, log 107. -/
opaque firmwareStream : List (BitVec 8) → Nat → List (BitVec 32)

/-- The FTB entries with which a firmware image is entered: VABASE, VALIMIT, IABASE and ATTR (R315). Free value,
log 107. -/
opaque firmwareFtb : List (BitVec 8) → Nat → Nat → BitVec 64

/-- The bus address of port 0 at which the host bridge's loop-back window begins (R317). Free value, log 108. -/
opaque loopBack : Nat

/-- A byte of the configuration space of a function of a port, where the manual gives none: port, function, offset
(R1). Free value, log 109. -/
opaque configSpace : Nat → Nat → Nat → BitVec 8

/-- The IDE stream of a port that carries a bus address or an IA: 0 Link IDE, 1 to 4 Selective IDE (R308, R413). Free
value, log 56. -/
opaque ideStream : Nat → Nat → Nat

/-- What the firmware core reads from a control register of 0x400-0xFFF that no rule names
(R79, R317). Free value, log 16. -/
opaque firmwareRegister : Nat → BitVec 64

/-- Byte i of the n-th value that the manual leaves open. Free value, log 8. -/
opaque freeByte : Nat → Nat → BitVec 8

/-- The n-th choice among the steps that may come next (R54, R280). Free value, log 8. -/
opaque freeChoice : Nat → Nat

/-- Which of n lines or entries leaves a full set for a new one, from the addresses that stand there and the new
one (R108, R116, R117). Free value, log 11. -/
opaque victim : List Nat → Nat → Nat

/-- The page at which the firmware's pool gives the n-th job its 8 MiB window (R285). Free value, log 54. -/
opaque poolPage : Nat → Nat

/-- The n-th frame of the pool from which retired pages are replaced (R417). Free value, log 121. -/
opaque spareFrame : Nat → Nat

/-- Cores of the die (R19). -/
def cores : Nat := 128

/-- Clusters of the die (R16). -/
def clusters : Nat := 16

/-- Bytes of a core's register space (R68). -/
def regSpaceBytes : Nat := 196608

/-- Bytes of a core store (R20). -/
def coreStoreBytes : Nat := 1048576

/-- Parcels of an instruction store (R20, R29). -/
def storeParcels : Nat := 6144

end Sys2Proof.Config
end

