-- ==== Sys2Proof/Syntax.lean ====
section
/-! DEFINITION. The syntax of the HV-3: operands, triggers, command words, issue groups, and the
steps of the part, one constructor for every row of the opcode table. -/

namespace Sys2Proof

/-- The kinds of partition of a core (R19). -/
inductive PrtKind where
  | ctl | vec | mat | mem
deriving DecidableEq, Repr

/-- What an encoding is judged against: the partition kind, the core kind, and whether the core is
the firmware core (R154, R367). -/
structure Ctx where
  prt : PrtKind
  fcore : Bool
  fw : Bool
deriving DecidableEq, Repr

/-- The function units (R154). -/
inductive UnitName where
  | br | lp | sy | ix0 | ix1 | cmp | imd | ks0 | ks1
  | va0 | va1 | vf0 | vf1 | vx | vp | vc | fs | fd
  | mx | kv | px | gm0 | gm1 | rw | tg
deriving DecidableEq, Repr

/-- A result latch of a unit (R56). -/
inductive LatchSel where
  | res | res1 | flag
deriving DecidableEq, Repr

/-- An operand port of a unit (R56). -/
inductive PortSel where
  | o1 | o2 | o3
deriving DecidableEq, Repr

/-- Modifier class W (R155). -/
inductive IntW where
  | d | w | h | b
deriving DecidableEq, Repr

/-- Modifier class F (R155). -/
inductive FpF where
  | f32 | f16 | bf16
deriving DecidableEq, Repr

/-- The formats of a conversion (R159). -/
inductive CvtF where
  | f32 | f16 | bf16 | e4m3 | e5m2 | e2m1 | int32 | uint32
deriving DecidableEq, Repr

/-- The RC field of an arithmetic opcode (R159). -/
inductive Rc where
  | csr | rne | rtz | rdn | rup
deriving DecidableEq, Repr

/-- The rounding modifier of a conversion (R159). -/
inductive CvtRnd where
  | csr | rne | rtz | rdn
deriving DecidableEq, Repr

/-- The integer conditions (R191). -/
inductive Cond where
  | eq | ne | lt | le | gt | ge | ltu | leu | gtu | geu
deriving DecidableEq, Repr

/-- The conditions of vc.fcmp (R209). -/
inductive FCond where
  | eq | ne | lt | le | gt | ge | un
deriving DecidableEq, Repr

/-- The conditions of fs.fcmp (R199). -/
inductive FsCond where
  | eq | lt | le | un
deriving DecidableEq, Repr

/-- Operations of ix (R190). -/
inductive IxOp where
  | add | sub | and | or | xor | andn | shl | shr | sar | rol | min | max | minu | maxu
  | clz | ctz | popc | bswap | bext | bins | sel | mov
deriving DecidableEq, Repr

/-- Predicate operations of cmp (R191). -/
inductive PredOp where
  | pand | por | pxor | pandn
deriving DecidableEq, Repr

/-- Operations of imd (R192). -/
inductive ImdOp where
  | mul | mulh | mulhu | div | divu | rem | remu
deriving DecidableEq, Repr

/-- Operations of va (R198). -/
inductive VaOp where
  | add | sub | mul | mulh | and | or | xor | andn | shl | shr | sar | min | max | minu | maxu | abs
  | sel | popc | clz | adds | subs
deriving DecidableEq, Repr

/-- Permutes, integer reductions and scans of vp (R205, R206). -/
inductive VpOp where
  | perm | bcast | rot | pack | unpk | cmprs | redadd | redmax | redmin | scan | xscan
deriving DecidableEq, Repr

/-- Floating reductions of vp (R207). -/
inductive VpFOp where
  | redadd | redmax | redmin
deriving DecidableEq, Repr

/-- Votes and counts of vc (R210). -/
inductive VoteOp where
  | any | all | cnt
deriving DecidableEq, Repr

/-- Arithmetic operations of vf (R199). -/
inductive VfOp where
  | add | sub | mul | fma | nma | min | max | abs | neg | rnd
deriving DecidableEq, Repr

/-- Operations of vx (R204). -/
inductive VxOp where
  | exp2 | log2 | rcp | rsqrt | div | sqrt | sincos
deriving DecidableEq, Repr

/-- Arithmetic operations of fs (R199). -/
inductive FsOp where
  | add | sub | mul | fma | min | max
deriving DecidableEq, Repr

/-- Operations of fd (R212). -/
inductive FdOp where
  | div | sqrt | rsqrt
deriving DecidableEq, Repr

/-- Compute triggers of mx (R230). -/
inductive MxOp where
  | mma | mmt | mad
deriving DecidableEq, Repr

/-- Destination format of kvk and kvv (R239). -/
inductive KvD where
  | e4m3 | bf16 | f32
deriving DecidableEq, Repr

/-- Size of gm ld, ld.s and st (R214). -/
inductive GmZ where
  | w | d | q | l
deriving DecidableEq, Repr

/-- Size of the small gm forms (R214). -/
inductive GmS where
  | n | b | h
deriving DecidableEq, Repr

/-- Atomics from add to cas (R219). -/
inductive AmoOp where
  | add | and | or | xor | min | max | minu | maxu | swap | cas
deriving DecidableEq, Repr

/-- Tag-table operations (R221). -/
inductive TgOp where
  | look | pin | unpin | inval | setag
deriving DecidableEq, Repr

/-- Scopes of sy.mark (R267). -/
inductive Scope where
  | prt | core | clu | dev | sys
deriving DecidableEq, Repr

/-- What lp.lrd selects (R182). -/
inductive LrdSel where
  | iter | rem | stg
deriving DecidableEq, Repr

/-- Every trigger of the opcode map (R156-R162). A Bool `u` names the second of two twin units; a
Bool `w32` the .w modifier where only .d and .w exist. -/
inductive Trigger where
  | brTgt (n : BitVec 2) | brJmp (n : BitVec 2) | brCall (n : BitVec 2) | brRet | brBkt | brTrap
  | lpLoop | lpLbrk | lpLrd (sel : LrdSel)
  | sySemw | sySema | sySemr | syJoin | syLock | syUnlock | syRgn | syMark (s : Scope)
  | syRah | syChk | syEvt
  | ix (u : Bool) (op : IxOp) (w : IntW)
  | cmp (c : Cond) (w : IntW) | cmpPred (op : PredOp)
  | imd (op : ImdOp) (w32 : Bool)
  | ksLd (u : Bool) | ksSt (u : Bool) | ksLdx (u : Bool) (w : IntW) | ksStx (u : Bool) (w : IntW)
  | ksLdb (u : Bool) (w : IntW)
  | va (u : Bool) (op : VaOp) (w : IntW)
  | vp (op : VpOp) (w : IntW) | vpF (op : VpFOp) (f : FpF) | vpClmul (w32 : Bool)
  | vcCmp (c : Cond) (w : IntW) | vcFcmp (c : FCond) (f : FpF) | vcVote (op : VoteOp)
  | vcClass (f : FpF)
  | vf (u : Bool) (op : VfOp) (rc : Rc) (f : FpF) | vfToE8m0 (u : Bool) (rc : Rc) (f : FpF)
  | vfFromE8m0 (u : Bool) (rc : Rc) | vfCvt (u : Bool) (d s : CvtF) (sat : Bool) (r : CvtRnd)
  | vx (op : VxOp) (rc : Rc) (f : FpF)
  | fs (op : FsOp) (rc : Rc) (f : FpF) | fsCmp (c : FsCond) (rc : Rc) (f : FpF)
  | fsCvt (d s : CvtF) (sat : Bool) (r : CvtRnd)
  | fd (op : FdOp) (rc : Rc)
  | mxBld (m : BitVec 3) | mxBsw (m : BitVec 3) | mxComp (op : MxOp) (m : BitVec 3) (z : Bool)
  | mxMcfg (m : BitVec 3)
  | kvLoad (key : Bool) (d : KvD) | kvAp | kvFrq (n : BitVec 2)
  | pxCsc (n : BitVec 2) | pxPack (p10 : Bool)
  | gmLd (u spec : Bool) (z : GmZ) | gmSt (u : Bool) (z : GmZ) | gmPref (u : Bool)
  | gmStSm (u : Bool) (z : GmS) | gmLdSm (u spec : Bool) (z : GmS)
  | gmAmo (u : Bool) (op : AmoOp) (w32 : Bool) | gmAmoFadd (u : Bool) | gmAmoNib (u : Bool)
  | rwWalk (pref : Bool)
  | tg (op : TgOp)
deriving DecidableEq, Repr

/-- A guard: the move executes when p xor neg is 1 (R76, R141). -/
structure Guard where
  pred : BitVec 4
  neg : Bool
deriving DecidableEq, Repr

/-- A source (R144, R145). `m` is the index of a CIM unit, used by mx alone. -/
inductive Src where
  | main (v : BitVec 3) (i : BitVec 13)
  | latch (u : UnitName) (sel : LatchSel) (m : BitVec 3)
  | ofile (j : BitVec 3)
  | pred (k : BitVec 4)
  | xi (j : BitVec 3)
  | hq (n : BitVec 4)
  | creg (i : BitVec 12)
  | scnt
  | coord
  | imm (x : BitVec 21)
deriving DecidableEq, Repr

/-- A destination (R142, R143). -/
inductive Dst where
  | main (v : BitVec 3) (i : BitVec 13)
  | ofile (j : BitVec 3)
  | pred (k : BitVec 4)
  | xo (q : BitVec 4) (j : BitVec 3)
  | hq (n : BitVec 4)
  | creg (i : BitVec 12)
  | sink
  | port (u : UnitName) (o : PortSel)
  | trig (t : Trigger)
deriving DecidableEq, Repr

/-- A move of an MM word (R141). -/
structure Move where
  g : Guard
  src : Src
  dst : Dst
deriving DecidableEq, Repr

/-- The empty move, as alas encodes it (R164). -/
def Move.empty : Move := ⟨⟨0, true⟩, .imm 0, .sink⟩

/-- Engine commands (R149). The number of copy and copyf is the dimension count minus 1. -/
inductive CmdOp where
  | copy (dims : Fin 3) | copyf (dims : Fin 3) | gath | scat | cred | cbc | mq | awalk | enc | dec
  | patch | fill | evict | wback | post
deriving DecidableEq, Repr

/-- The fields of a command word beside its engine and opcode (R147). -/
structure CmdFields where
  g : Guard
  wsem : BitVec 8
  wthr : BitVec 16
  ssem : BitVec 8
  sinc : BitVec 4
  cboff : BitVec 11
  imm : BitVec 32
deriving DecidableEq, Repr

/-- A word of a stream, less its PAIR bit (R138). -/
inductive WordF where
  | mm (a b : Move)
  | ml (g : Guard) (dst : Dst) (imm : BitVec 64)
  | mc (op : CmdOp) (c : CmdFields)
  | idle (n : BitVec 16)
deriving DecidableEq, Repr

/-- An issue group: one word, or two words joined by PAIR (R139). -/
structure Group where
  w0 : WordF
  w1 : Option WordF
deriving DecidableEq, Repr

/-- Where an error of R385 strikes: the structure code, the core, the partition, the unit id, and
the byte offset, slot, address or entry number within the structure. -/
structure EccSite where
  code : Nat
  core : Nat
  prt : Nat
  unit : Nat
  addr : Nat
deriving DecidableEq, Repr

/-- The kinds of access (R102). -/
inductive AccKind where
  | rd | wr | at
deriving DecidableEq, Repr

/-- A request that reaches a home agent by itself: a fill, a writeback or an uncached request of
at most one line (R107, R114). -/
structure HomeReq where
  kind : AccKind
  ia : BitVec 48
  data : List (BitVec 8)
  job : BitVec 32
deriving DecidableEq, Repr

/-- Where a PCIe request goes: to memory by its IA; to an offset of the BAR0 of a function of port 0, PF0 or
VF fn, from firmware through the loop-back window or from outside (R278, R312, R317); to an offset of the configuration
space of a function (R1). What firmware writes by a path that the manual does not name stands beside them: the entry of
a stream (R314), its own configuration (R316), and PACEn of a core (R318). -/
inductive PcieAddr where
  | ia (a : BitVec 48)
  | bar (fn off : Nat) (fw : Bool)
  | cfg (fn off : Nat)
  | stream (i : Nat)
  | fwconfig
  | pace (k n : Nat)
deriving DecidableEq, Repr

/-- A party that can wait on a handoff queue (R408). -/
inductive Party where
  | partition (k p : Nat)
  | codec (clu : Nat)
deriving DecidableEq, Repr

/-- By which path measurements are asked for (R316). -/
inductive MeasPath where
  | spdm (port : Nat)
  | smbus
deriving DecidableEq, Repr

/-- Requests to the DOE mailbox (R308, R415). -/
inductive DoeReq where
  | discovery | getVersion | getCapabilities | spdm | securedSpdm
deriving DecidableEq, Repr

/-- A firmware write of a home register (R107, R108, R111), or its order to write back and invalidate the lines of an
IA page in the LLC (R115). -/
inductive HomeRegWrite where
  | range (entry : Nat) (dw : Fin 4) (x : BitVec 64)
  | hptbase (x : BitVec 64)
  | cairnbase (x : BitVec 64)
  | llcFlush (iapg : BitVec 36)
deriving DecidableEq, Repr


/-- One step of the part: a constructor for every row of the table of operations and events. A word
of a stream is the step of its own row; a word of one move into a trigger port or a control
register, with its second move empty, is the step of that trigger's or register's row (log 18). A
step that no word names carries the core, partition, port or structure it concerns. The steps that come
from outside the part stand last. -/
inductive Instr where
  /-- R78: An issue group of MM words issues: guards are read, sources are read, then destinations are written in slot order, including pops, pushes, exchanges, predicate writes and triggers. -/
  | mmWord (g : Group)
  /-- R146: A long-immediate word issues one move of a 64-bit immediate, replicated into every 8-byte lane of a wide destination. -/
  | mlWord (g : Guard) (dst : Dst) (imm : BitVec 64)
  /-- R151: An IDLE word occupies n issue cycles or SCNT steps and issues nothing, while results keep falling due. -/
  | idle (n : BitVec 16)
  /-- R38: A section header is evaluated, and the partition stalls until every masked wait on another partition's RSC is satisfied. -/
  | sectionHeader (len : BitVec 9) (mask : BitVec 11) (wait : BitVec 44)
  /-- R37: A section retires once its last word has issued and its triggers and stores have finished; RSC advances and RGNADDR is updated. -/
  | sectionRetire (k p : Nat)
  /-- R344: A trap record that waited in its core for room is posted to the firmware core's event queue. -/
  | trapRecordPosted (k : Nat)
  /-- R61: A fixed-latency result lands in its latch at the start of cycle t + L, raising its flags and possibly colliding under R63. -/
  | resultLands (k p : Nat)
  /-- R215: A scoreboarded gm or rw access returns its data or poison into the latch, releasing any stalled read. -/
  | gmDataReturns (k p id : Nat)
  /-- R73: An exchange value lands in the receiver's inbound slot 2 ACLK or 2 SCNT steps after issue, with collisions setting PSTAT.XCOL. -/
  | exchangeLands (k : Nat)
  /-- R75: A pushed handoff-queue entry becomes visible to the reader 8 to 64 FCLK after the push, in push order. -/
  | queueEntryVisible (clu port : Nat)
  /-- R175: After the three delay cycles of a transfer the partition leaves its section and reads the target as a section header. -/
  | transferDelayEnds (k p : Nat)
  /-- R228: The acceptance interval of a macro elapses and it can accept a further compute trigger. -/
  | mxAcceptIntervalEnds (k m : Nat)
  /-- R43: The locked group forms in the ACLK after the last member's sy.lock has issued, and all members then issue one group per SCNT step. -/
  | lockGroupForms (k : Nat)
  /-- R103: On an FTB miss the core searches the job's range table and fills the entry at FILLPTR, or faults with FMISS or ECC. -/
  | ftbRefill (k : Nat)
  /-- R46: A run-ahead helper is spawned at RAHBASE when the decoupled mem partition stalls on a global-load destination. -/
  | rahHelperSpawn (k : Nat)
  /-- R47: A helper dies when its stall ends, on a trap or pre-emption request, at its 256th word, or at a PC outside the stream. -/
  | rahHelperDies (k : Nat)
  /-- R174: Writes t[14:2] into BTn.PC at the end of the issue cycle. -/
  | brTgt (n : BitVec 2) (g : Guard) (src : Src)
  /-- R175: Transfers to BTn.PC after three delay cycles. -/
  | brJmp (n : BitVec 2) (g : Guard) (src : Src)
  /-- R176: Pushes the return PC onto the return stack, spilling if full, then transfers to BTn.PC. -/
  | brCall (n : BitVec 2) (g : Guard) (src : Src)
  /-- R176: Pops the return stack, refilling from the spill area if empty, and transfers to the popped PC. -/
  | brRet (g : Guard) (src : Src)
  /-- R177: Selects a bucket for a length, writes PADV, MXPAD and KVPAD in all partitions, and transfers to the bucket's target. -/
  | brBkt (g : Guard) (src : Src)
  /-- R178: Raises a software trap with code t[15:0] at the next issue group. -/
  | brTrap (g : Guard) (src : Src)
  /-- R180: Starts a pipelined loop of N iterations over a body of L words with S stages, driving p8-p15. -/
  | lpLoop (g : Guard) (src : Src)
  /-- R181: Breaks a loop so that no further iteration starts and started ones drain. -/
  | lpLbrk (g : Guard) (src : Src)
  /-- R182: Returns the iteration index, iterations remaining or active stage mask of the current pass. -/
  | lpLrd (sel : LrdSel) (g : Guard) (src : Src)
  /-- R185: Stalls the issue group until a semaphore reaches a threshold. -/
  | sySemw (g : Guard) (src : Src)
  /-- R185: Adds a signed increment to a semaphore, clamped and summed with other adds of the ACLK. -/
  | sySema (g : Guard) (src : Src)
  /-- R185: Reads a semaphore's OVF and VAL into res. -/
  | sySemr (g : Guard) (src : Src)
  /-- R186: Ends issue in the partition and leaves any locked group. -/
  | syJoin (g : Guard) (src : Src)
  /-- R186: Joins the rendezvous of a locked group with partition mask M, setting or checking the pending mask. -/
  | syLock (g : Guard) (src : Src)
  /-- R186: Leaves the locked group at the end of the step. -/
  | syUnlock (g : Guard) (src : Src)
  /-- R187: Marks an idempotent region entry by writing RGNADDR.PC and WREM. -/
  | syRgn (g : Guard) (src : Src)
  /-- R267: Enters a partition-scope mark into the load and store queues. -/
  | syMarkPrt (g : Guard) (src : Src)
  /-- R267: Enters a core-scope mark ordering all earlier accesses before later ones. -/
  | syMarkCore (g : Guard) (src : Src)
  /-- R267: Enters a cluster-scope mark and invalidates the core's L1. -/
  | syMarkClu (g : Guard) (src : Src)
  /-- R267: Enters a device-scope mark and invalidates the core's L1. -/
  | syMarkDev (g : Guard) (src : Src)
  /-- R267: Enters a system-scope mark, invalidates the L1 and performs earlier forwarded stores at system scope. -/
  | syMarkSys (g : Guard) (src : Src)
  /-- R188: Writes RAHBASE.PC with the helper's first PC. -/
  | syRah (g : Guard) (src : Src)
  /-- R189: Traps if the trigger datum is poisoned and otherwise has no effect. -/
  | syChk (g : Guard) (src : Src)
  /-- R189: Takes the oldest event-queue record into the register space and writes 1 or 0 into res. -/
  | syEvt (g : Guard) (src : Src)
  /-- R190: Integer add of o1 and t at width W. -/
  | ixAdd (u : Bool) (w : IntW) (g : Guard) (src : Src)
  /-- R190: Integer subtract of t from o1 at width W. -/
  | ixSub (u : Bool) (w : IntW) (g : Guard) (src : Src)
  /-- R190: Bitwise and of o1 and t. -/
  | ixAnd (u : Bool) (w : IntW) (g : Guard) (src : Src)
  /-- R190: Bitwise or of o1 and t. -/
  | ixOr (u : Bool) (w : IntW) (g : Guard) (src : Src)
  /-- R190: Bitwise xor of o1 and t. -/
  | ixXor (u : Bool) (w : IntW) (g : Guard) (src : Src)
  /-- R190: o1 and not t. -/
  | ixAndn (u : Bool) (w : IntW) (g : Guard) (src : Src)
  /-- R190: Logical shift left by t mod n. -/
  | ixShl (u : Bool) (w : IntW) (g : Guard) (src : Src)
  /-- R190: Logical shift right by t mod n. -/
  | ixShr (u : Bool) (w : IntW) (g : Guard) (src : Src)
  /-- R190: Arithmetic shift right by t mod n. -/
  | ixSar (u : Bool) (w : IntW) (g : Guard) (src : Src)
  /-- R190: Rotate left by t mod n. -/
  | ixRol (u : Bool) (w : IntW) (g : Guard) (src : Src)
  /-- R190: Signed minimum of o1 and t. -/
  | ixMin (u : Bool) (w : IntW) (g : Guard) (src : Src)
  /-- R190: Signed maximum of o1 and t. -/
  | ixMax (u : Bool) (w : IntW) (g : Guard) (src : Src)
  /-- R190: Unsigned minimum of o1 and t. -/
  | ixMinu (u : Bool) (w : IntW) (g : Guard) (src : Src)
  /-- R190: Unsigned maximum of o1 and t. -/
  | ixMaxu (u : Bool) (w : IntW) (g : Guard) (src : Src)
  /-- R190: Counts leading zeros of t. -/
  | ixClz (u : Bool) (w : IntW) (g : Guard) (src : Src)
  /-- R190: Counts trailing zeros of t. -/
  | ixCtz (u : Bool) (w : IntW) (g : Guard) (src : Src)
  /-- R190: Counts set bits of t. -/
  | ixPopc (u : Bool) (w : IntW) (g : Guard) (src : Src)
  /-- R190: Reverses the bytes of t. -/
  | ixBswap (u : Bool) (w : IntW) (g : Guard) (src : Src)
  /-- R190: Extracts a bit field of o1 at pos and len from t. -/
  | ixBext (u : Bool) (w : IntW) (g : Guard) (src : Src)
  /-- R190: Inserts a field of o2 into o1 at pos and len from t. -/
  | ixBins (u : Bool) (w : IntW) (g : Guard) (src : Src)
  /-- R190: Selects o1 if t[0] is 1, else o2. -/
  | ixSel (u : Bool) (w : IntW) (g : Guard) (src : Src)
  /-- R190: Copies t truncated to width W into res. -/
  | ixMov (u : Bool) (w : IntW) (g : Guard) (src : Src)
  /-- R191: Compares o1 with t under condition C at width W and writes 1 or 0 into res. -/
  | cmpCond (c : Cond) (w : IntW) (g : Guard) (src : Src)
  /-- R191: o1[0] and t[0]. -/
  | cmpPand (g : Guard) (src : Src)
  /-- R191: o1[0] or t[0]. -/
  | cmpPor (g : Guard) (src : Src)
  /-- R191: o1[0] xor t[0]. -/
  | cmpPxor (g : Guard) (src : Src)
  /-- R191: o1[0] and not t[0]. -/
  | cmpPandn (g : Guard) (src : Src)
  /-- R192: Low half of the product of o1 and t. -/
  | imdMul (w32 : Bool) (g : Guard) (src : Src)
  /-- R192: Signed high half of the product. -/
  | imdMulh (w32 : Bool) (g : Guard) (src : Src)
  /-- R192: Unsigned high half of the product. -/
  | imdMulhu (w32 : Bool) (g : Guard) (src : Src)
  /-- R192: Signed quotient rounded toward zero, with flag for divide by zero or overflow. -/
  | imdDiv (w32 : Bool) (g : Guard) (src : Src)
  /-- R192: Unsigned quotient, with flag for divide by zero. -/
  | imdDivu (w32 : Bool) (g : Guard) (src : Src)
  /-- R192: Signed remainder with the sign of the dividend. -/
  | imdRem (w32 : Bool) (g : Guard) (src : Src)
  /-- R192: Unsigned remainder. -/
  | imdRemu (w32 : Bool) (g : Guard) (src : Src)
  /-- R193: Loads the partition width of bytes from the core store. -/
  | ksLd (u : Bool) (g : Guard) (src : Src)
  /-- R195: Stores o1 into the core store in the issue cycle, setting DIRTY on a tagged slot. -/
  | ksSt (u : Bool) (g : Guard) (src : Src)
  /-- R194: Gathers elements from the core store at per-lane offsets. -/
  | ksLdx (u : Bool) (w : IntW) (g : Guard) (src : Src)
  /-- R194: Scatters elements into the core store at per-lane offsets. -/
  | ksStx (u : Bool) (w : IntW) (g : Guard) (src : Src)
  /-- R193: Loads one element and replicates it into every element of res. -/
  | ksLdb (u : Bool) (w : IntW) (g : Guard) (src : Src)
  /-- R198: Lane-wise integer add. -/
  | vaAdd (u : Bool) (w : IntW) (g : Guard) (src : Src)
  /-- R198: Lane-wise integer subtract. -/
  | vaSub (u : Bool) (w : IntW) (g : Guard) (src : Src)
  /-- R198: Lane-wise low product. -/
  | vaMul (u : Bool) (w : IntW) (g : Guard) (src : Src)
  /-- R198: Lane-wise signed high product. -/
  | vaMulh (u : Bool) (w : IntW) (g : Guard) (src : Src)
  /-- R198: Lane-wise and. -/
  | vaAnd (u : Bool) (w : IntW) (g : Guard) (src : Src)
  /-- R198: Lane-wise or. -/
  | vaOr (u : Bool) (w : IntW) (g : Guard) (src : Src)
  /-- R198: Lane-wise xor. -/
  | vaXor (u : Bool) (w : IntW) (g : Guard) (src : Src)
  /-- R198: Lane-wise and-not. -/
  | vaAndn (u : Bool) (w : IntW) (g : Guard) (src : Src)
  /-- R198: Lane-wise shift left. -/
  | vaShl (u : Bool) (w : IntW) (g : Guard) (src : Src)
  /-- R198: Lane-wise logical shift right. -/
  | vaShr (u : Bool) (w : IntW) (g : Guard) (src : Src)
  /-- R198: Lane-wise arithmetic shift right. -/
  | vaSar (u : Bool) (w : IntW) (g : Guard) (src : Src)
  /-- R198: Lane-wise signed minimum. -/
  | vaMin (u : Bool) (w : IntW) (g : Guard) (src : Src)
  /-- R198: Lane-wise signed maximum. -/
  | vaMax (u : Bool) (w : IntW) (g : Guard) (src : Src)
  /-- R198: Lane-wise unsigned minimum. -/
  | vaMinu (u : Bool) (w : IntW) (g : Guard) (src : Src)
  /-- R198: Lane-wise unsigned maximum. -/
  | vaMaxu (u : Bool) (w : IntW) (g : Guard) (src : Src)
  /-- R198: Lane-wise absolute value of t. -/
  | vaAbs (u : Bool) (w : IntW) (g : Guard) (src : Src)
  /-- R198: Lane-wise select of o1 or o2 by bit 0 of t. -/
  | vaSel (u : Bool) (w : IntW) (g : Guard) (src : Src)
  /-- R198: Lane-wise population count. -/
  | vaPopc (u : Bool) (w : IntW) (g : Guard) (src : Src)
  /-- R198: Lane-wise leading-zero count. -/
  | vaClz (u : Bool) (w : IntW) (g : Guard) (src : Src)
  /-- R198: Lane-wise saturating signed add. -/
  | vaAdds (u : Bool) (w : IntW) (g : Guard) (src : Src)
  /-- R198: Lane-wise saturating signed subtract. -/
  | vaSubs (u : Bool) (w : IntW) (g : Guard) (src : Src)
  /-- R205: Permutes lanes of o1 by indices in t. -/
  | vpPerm (w : IntW) (g : Guard) (src : Src)
  /-- R205: Broadcasts one lane of o1 to every lane. -/
  | vpBcast (w : IntW) (g : Guard) (src : Src)
  /-- R205: Rotates the lanes of o1. -/
  | vpRot (w : IntW) (g : Guard) (src : Src)
  /-- R205: Packs the low halves of o1 and t elements. -/
  | vpPack (w : IntW) (g : Guard) (src : Src)
  /-- R205: Unpacks and extends half-size elements of t. -/
  | vpUnpk (w : IntW) (g : Guard) (src : Src)
  /-- R205: Compresses selected lanes of o1 and writes their count into res1. -/
  | vpCmprs (w : IntW) (g : Guard) (src : Src)
  /-- R206: Integer sum of all lanes of t. -/
  | vpRedadd (w : IntW) (g : Guard) (src : Src)
  /-- R206: Signed maximum over the lanes of t. -/
  | vpRedmax (w : IntW) (g : Guard) (src : Src)
  /-- R206: Signed minimum over the lanes of t. -/
  | vpRedmin (w : IntW) (g : Guard) (src : Src)
  /-- R206: Inclusive prefix sum of the lanes of t. -/
  | vpScan (w : IntW) (g : Guard) (src : Src)
  /-- R206: Inclusive prefix xor of the lanes of t. -/
  | vpXscan (w : IntW) (g : Guard) (src : Src)
  /-- R207: Floating sum of the lanes of t in a fixed tree. -/
  | vpFredadd (f : FpF) (g : Guard) (src : Src)
  /-- R207: Floating maximum over the lanes of t in a fixed tree. -/
  | vpFredmax (f : FpF) (g : Guard) (src : Src)
  /-- R207: Floating minimum over the lanes of t in a fixed tree. -/
  | vpFredmin (f : FpF) (g : Guard) (src : Src)
  /-- R208: Carry-less product of o1 and t lanes into res and res1. -/
  | vpClmul (w32 : Bool) (g : Guard) (src : Src)
  /-- R209: Lane-wise integer comparison under condition C, giving all-ones or zero lanes. -/
  | vcCmp (c : Cond) (w : IntW) (g : Guard) (src : Src)
  /-- R209: Lane-wise floating comparison under condition C. -/
  | vcFcmp (c : FCond) (f : FpF) (g : Guard) (src : Src)
  /-- R210: Writes 1 if any bit of t is set. -/
  | vcAny (g : Guard) (src : Src)
  /-- R210: Writes 1 if every bit of t is set. -/
  | vcAll (g : Guard) (src : Src)
  /-- R210: Counts the set bits of t. -/
  | vcCnt (g : Guard) (src : Src)
  /-- R211: Writes the class mask of each floating lane of t. -/
  | vcClass (f : FpF) (g : Guard) (src : Src)
  /-- R199: Lane-wise floating add, rounded once. -/
  | vfAdd (u : Bool) (rc : Rc) (f : FpF) (g : Guard) (src : Src)
  /-- R199: Lane-wise floating subtract. -/
  | vfSub (u : Bool) (rc : Rc) (f : FpF) (g : Guard) (src : Src)
  /-- R199: Lane-wise floating multiply. -/
  | vfMul (u : Bool) (rc : Rc) (f : FpF) (g : Guard) (src : Src)
  /-- R199: Lane-wise fused multiply-add o1 × o2 + t. -/
  | vfFma (u : Bool) (rc : Rc) (f : FpF) (g : Guard) (src : Src)
  /-- R199: Lane-wise fused −(o1 × o2) + t. -/
  | vfNma (u : Bool) (rc : Rc) (f : FpF) (g : Guard) (src : Src)
  /-- R200: Lane-wise floating minimum. -/
  | vfMin (u : Bool) (rc : Rc) (f : FpF) (g : Guard) (src : Src)
  /-- R200: Lane-wise floating maximum. -/
  | vfMax (u : Bool) (rc : Rc) (f : FpF) (g : Guard) (src : Src)
  /-- R199: Lane-wise sign clear. -/
  | vfAbs (u : Bool) (rc : Rc) (f : FpF) (g : Guard) (src : Src)
  /-- R199: Lane-wise sign inversion. -/
  | vfNeg (u : Bool) (rc : Rc) (f : FpF) (g : Guard) (src : Src)
  /-- R201: Lane-wise round to integral value. -/
  | vfRnd (u : Bool) (rc : Rc) (f : FpF) (g : Guard) (src : Src)
  /-- R203: Converts lanes of format F to E8M0 bytes. -/
  | vfCvtE8m0 (u : Bool) (rc : Rc) (f : FpF) (g : Guard) (src : Src)
  /-- R203: Converts E8M0 bytes to FP32 lanes. -/
  | vfCvtF32E8m0 (u : Bool) (rc : Rc) (g : Guard) (src : Src)
  /-- R202: Lane-wise format conversion from S to D. -/
  | vfCvt (u : Bool) (d s : CvtF) (sat : Bool) (r : CvtRnd) (g : Guard) (src : Src)
  /-- R204: Lane-wise correctly rounded 2^t. -/
  | vxExp2 (rc : Rc) (f : FpF) (g : Guard) (src : Src)
  /-- R204: Lane-wise correctly rounded log2 t. -/
  | vxLog2 (rc : Rc) (f : FpF) (g : Guard) (src : Src)
  /-- R204: Lane-wise reciprocal. -/
  | vxRcp (rc : Rc) (f : FpF) (g : Guard) (src : Src)
  /-- R204: Lane-wise reciprocal square root. -/
  | vxRsqrt (rc : Rc) (f : FpF) (g : Guard) (src : Src)
  /-- R204: Lane-wise o1 / t. -/
  | vxDiv (rc : Rc) (f : FpF) (g : Guard) (src : Src)
  /-- R204: Lane-wise square root. -/
  | vxSqrt (rc : Rc) (f : FpF) (g : Guard) (src : Src)
  /-- R204: Lane-wise sin and cos of 2πt into res and res1. -/
  | vxSincos (rc : Rc) (f : FpF) (g : Guard) (src : Src)
  /-- R199: Scalar floating add. -/
  | fsAdd (rc : Rc) (f : FpF) (g : Guard) (src : Src)
  /-- R199: Scalar floating subtract. -/
  | fsSub (rc : Rc) (f : FpF) (g : Guard) (src : Src)
  /-- R199: Scalar floating multiply. -/
  | fsMul (rc : Rc) (f : FpF) (g : Guard) (src : Src)
  /-- R199: Scalar fused multiply-add. -/
  | fsFma (rc : Rc) (f : FpF) (g : Guard) (src : Src)
  /-- R200: Scalar floating minimum. -/
  | fsMin (rc : Rc) (f : FpF) (g : Guard) (src : Src)
  /-- R200: Scalar floating maximum. -/
  | fsMax (rc : Rc) (f : FpF) (g : Guard) (src : Src)
  /-- R200: Scalar floating comparison under condition C, writing 1 or 0. -/
  | fsFcmp (c : FsCond) (rc : Rc) (f : FpF) (g : Guard) (src : Src)
  /-- R202: Scalar format conversion from S to D. -/
  | fsCvt (d s : CvtF) (sat : Bool) (r : CvtRnd) (g : Guard) (src : Src)
  /-- R212: FP32 o1 / t with a flag for t ≤ 0 or NaN. -/
  | fdDiv (rc : Rc) (g : Guard) (src : Src)
  /-- R212: FP32 square root with a flag. -/
  | fdSqrt (rc : Rc) (g : Guard) (src : Src)
  /-- R212: FP32 reciprocal square root with a flag. -/
  | fdRsqrt (rc : Rc) (g : Guard) (src : Src)
  /-- R232: Loads and aligns one 32-row block of B from the core store into the shadow plane at landing. -/
  | mxBld (m : BitVec 3) (g : Guard) (src : Src)
  /-- R233: Swaps the active and shadow planes of a macro. -/
  | mxBsw (m : BitVec 3) (g : Guard) (src : Src)
  /-- R235: Multiplies an A row by the active plane and accumulates into res and res1. -/
  | mxMma (m : BitVec 3) (z : Bool) (g : Guard) (src : Src)
  /-- R235: Triangular multiply-accumulate with outputs above the diagonal filled. -/
  | mxMmt (m : BitVec 3) (z : Bool) (g : Guard) (src : Src)
  /-- R231: Writes CFG of a macro. -/
  | mxMcfg (m : BitVec 3) (g : Guard) (src : Src)
  /-- R237: Multiply-accumulate with an adapter term from the adapter map. -/
  | mxMad (m : BitVec 3) (z : Bool) (g : Guard) (src : Src)
  /-- R239: Loads one key row from a KV page, rotates it at its position and converts it to D. -/
  | kvKvk (d : KvD) (g : Guard) (src : Src)
  /-- R239: Loads one value row from a KV page and converts it to D. -/
  | kvKvv (d : KvD) (g : Guard) (src : Src)
  /-- R240: Appends one key and value token to a page slot in the core store at landing. -/
  | kvKvap (g : Guard) (src : Src)
  /-- R241: Replaces a frequency table of the kv unit at landing. -/
  | kvKvfrq (n : BitVec 2) (g : Guard) (src : Src)
  /-- R243: Colour-space converts 64 pixels with matrix set N. -/
  | pxCsc (n : BitVec 2) (g : Guard) (src : Src)
  /-- R244: Rounds and saturates 256 samples to 8 or 10 bits. -/
  | pxPack (p10 : Bool) (g : Guard) (src : Src)
  /-- R215: Loads z bytes from a VA into res, poisoning it and making a ring entry on a fault. -/
  | gmLd (u : Bool) (z : GmZ) (g : Guard) (src : Src)
  /-- R216: Speculative load whose fault gives speculative poison without a ring entry. -/
  | gmLdS (u : Bool) (z : GmZ) (g : Guard) (src : Src)
  /-- R217: Stores z bytes of o1 to a VA through the store queue. -/
  | gmSt (u : Bool) (z : GmZ) (g : Guard) (src : Src)
  /-- R218: Prefetches a line into the LLC and possibly the L1. -/
  | gmPref (u : Bool) (g : Guard) (src : Src)
  /-- R217: Stores a nibble, byte or halfword, the nibble as a core-side read-modify-write. -/
  | gmStSm (u : Bool) (z : GmS) (g : Guard) (src : Src)
  /-- R215: Loads a nibble, byte or halfword. -/
  | gmLdSm (u : Bool) (z : GmS) (g : Guard) (src : Src)
  /-- R216: Speculative small load. -/
  | gmLdSmS (u : Bool) (z : GmS) (g : Guard) (src : Src)
  /-- R219: Atomic add returning the old value. -/
  | gmAmoAdd (u : Bool) (w32 : Bool) (g : Guard) (src : Src)
  /-- R219: Atomic and. -/
  | gmAmoAnd (u : Bool) (w32 : Bool) (g : Guard) (src : Src)
  /-- R219: Atomic or. -/
  | gmAmoOr (u : Bool) (w32 : Bool) (g : Guard) (src : Src)
  /-- R219: Atomic xor. -/
  | gmAmoXor (u : Bool) (w32 : Bool) (g : Guard) (src : Src)
  /-- R219: Atomic signed minimum. -/
  | gmAmoMin (u : Bool) (w32 : Bool) (g : Guard) (src : Src)
  /-- R219: Atomic signed maximum. -/
  | gmAmoMax (u : Bool) (w32 : Bool) (g : Guard) (src : Src)
  /-- R219: Atomic unsigned minimum. -/
  | gmAmoMinu (u : Bool) (w32 : Bool) (g : Guard) (src : Src)
  /-- R219: Atomic unsigned maximum. -/
  | gmAmoMaxu (u : Bool) (w32 : Bool) (g : Guard) (src : Src)
  /-- R219: Atomic swap. -/
  | gmAmoSwap (u : Bool) (w32 : Bool) (g : Guard) (src : Src)
  /-- R219: Atomic compare-and-swap. -/
  | gmAmoCas (u : Bool) (w32 : Bool) (g : Guard) (src : Src)
  /-- R219: Atomic FP32 add rounded to nearest even. -/
  | gmAmoFadd (u : Bool) (g : Guard) (src : Src)
  /-- R219: Atomic nibble replacement. -/
  | gmAmoNib (u : Bool) (g : Guard) (src : Src)
  /-- R242: Walks a radix tree for a logical position, returning descriptor, KVPOS value and status. -/
  | rwWalk (g : Guard) (src : Src)
  /-- R242: Walks and then prefetches the descriptor and the next page-list entry. -/
  | rwWalkp (g : Guard) (src : Src)
  /-- R222: Probes the core-store tags for a VA and reports hit slot or miss code. -/
  | tgLook (g : Guard) (src : Src)
  /-- R223: Pins a core-store slot as scratchpad. -/
  | tgPin (g : Guard) (src : Src)
  /-- R223: Unpins a pinned slot. -/
  | tgUnpin (g : Guard) (src : Src)
  /-- R223: Invalidates a slot's tag. -/
  | tgInval (g : Guard) (src : Src)
  /-- R223: Retags a slot from o1. -/
  | tgSetag (g : Guard) (src : Src)
  /-- R248: Forks a one-dimensional byte copy between VA, core store and register space. -/
  | hamperCopy1d (c : CmdFields)
  /-- R248: Forks a two-dimensional copy. -/
  | hamperCopy2d (c : CmdFields)
  /-- R248: Forks a three-dimensional copy. -/
  | hamperCopy3d (c : CmdFields)
  /-- R249: Forks a one-dimensional copy followed by an mq. -/
  | hamperCopyf1d (c : CmdFields)
  /-- R249: Forks a two-dimensional copy followed by an mq. -/
  | hamperCopyf2d (c : CmdFields)
  /-- R249: Forks a three-dimensional copy followed by an mq. -/
  | hamperCopyf3d (c : CmdFields)
  /-- R250: Forks an indexed gather from memory into the register space. -/
  | gatherGath (c : CmdFields)
  /-- R250: Forks an indexed scatter from the register space into memory. -/
  | gatherScat (c : CmdFields)
  /-- R251: Forks a rank-ordered reduction across a gang. -/
  | collCred (c : CmdFields)
  /-- R251: Forks a broadcast from rank ROOT across a gang. -/
  | collCbc (c : CmdFields)
  /-- R252: Forks a queued mma or mmt over NROW A rows in the core store. -/
  | mqueueMq (c : CmdFields)
  /-- R254: Forks N radix walks with results in the register space. -/
  | walkerAwalk (c : CmdFields)
  /-- R257: Forks the encoding of one frame from hq14 and hq15 into the bitstream ring. -/
  | codecEnc (c : CmdFields)
  /-- R258: Forks the decoding of one access unit into an output frame. -/
  | codecDec (c : CmdFields)
  /-- R259: Forks a fill of a core-store slot with a line read through the LLC. -/
  | tagFill (c : CmdFields)
  /-- R259: Forks an eviction of a slot with writeback if dirty. -/
  | tagEvict (c : CmdFields)
  /-- R259: Forks a writeback of a slot's line. -/
  | tagWback (c : CmdFields)
  /-- R260: Forks the posting of a record with an IMM payload into the core's event queue. -/
  | eventPost (c : CmdFields)
  /-- R245: An engine starts a queued command in queue order, after pacing and after earlier stores are performed. -/
  | engineOpStart (k eng : Nat)
  /-- R245: An engine operation completes, applies its semaphore signal and posts an event record where required. -/
  | engineOpComplete (k id : Nat)
  /-- R249: When a copyf's last byte lands, Hamper enqueues its follow-on mq into the matrix queue. -/
  | copyfFollowOn (k id : Nat)
  /-- R253: An mq that has read every source byte adds RELINC to SEMA[RELSEM]. -/
  | mqSourcesReleased (k id : Nat)
  /-- R40: A control-register write of SEMAn sets VAL plus same-ACLK adds and may clear OVF. -/
  | semaWrite (n : BitVec 8) (g : Guard) (src : Src)
  /-- R71: A write to a view register takes effect at the end of the issue cycle. -/
  | viewWrite (v : BitVec 3) (g : Guard) (src : Src)
  /-- R94: A write to FPCSR replaces the whole register at the end of the cycle. -/
  | fpcsrWrite (g : Guard) (src : Src)
  /-- R79: A write to any other register takes effect at the end of the cycle, with RO fields ignored and W1C bits cleared. -/
  | ctrlRegWrite (i : BitVec 12) (g : Guard) (src : Src)
  /-- R33: Once every partition has joined and all work has drained, the job boundary release completes and the core is freed. -/
  | jobEnd (k : Nat)
  /-- R48: Once every partition has stopped and work has drained, the job's image is written at RUCK. -/
  | rucksackWrite (k : Nat)
  /-- R49: If the image has not begun T_pre after the request, every partition stops at once and in-flight state is poisoned. -/
  | hardPreempt (k : Nat)
  /-- R384: A buffered memory record is posted to the firmware core's event queue when room appears. -/
  | memRecordPosted (src : Nat)
  /-- R115: Requests held for a MOVING page proceed in arrival order once STABLE is seen. -/
  | heldRequestsProceed (home : Nat)
  /-- R304: A NOP submission entry is taken and completes. -/
  | sqNop (n : Nat)
  /-- R304: An INVOKE entry instantiates a task graph of a resident slot after the residency check. -/
  | sqInvoke (n : Nat)
  /-- R304: An SOPEN entry opens a stream, checks its structures and assigns FCLU. -/
  | sqSopen (n : Nat)
  /-- R294: An SCLOSE entry sets the stream CLOSING until its frames in flight complete. -/
  | sqSclose (n : Nat)
  /-- R304: An SUPDATE entry writes adapter or hysteresis fields of a stream. -/
  | sqSupdate (n : Nat)
  /-- R305: A FENCE entry completes when every earlier entry of the ring has completed. -/
  | sqFence (n : Nat)
  /-- R288: At T0 + k × PERIOD a stream's frame is instantiated on its rung, after the climb test and residency check. -/
  | frameRelease (stream : Nat)
  /-- R292: The completion of a STEPEND node evaluates slack and may drop the stream one rung. -/
  | stepBoundary (graph node : Nat)
  /-- R410: When TIME μs pass after the oldest pending completion, the MSI-X message for the vector is sent. -/
  | msixCoalesceTimeout (v : Nat)
  /-- R408: After 4,096 ACLK waiting on a queue a party sends a probe token along the chain. -/
  | probeTokenSend (party : Party)
  /-- R409: A returning token confirms a cycle, grants a reserve entry or logs an unresolved DEADLOCK. -/
  | probeTokenReturn (id : Nat)
  /-- R262: A store leaves its partition's store queue and is performed at the line's LLC slice, or is accepted by its home for forwarding. -/
  | storePerformed (k p : Nat)
  /-- R176: A return-stack spill read or write of a call or ret completes or faults, releasing the stalled issue group. -/
  | spillAccessComplete (k p : Nat)
  /-- R31: When the instruction-store loads, view loads and tile-operand core-store fills of a launch or resumption have finished, every started partition issues its first header in the same ACLK. -/
  | jobLaunchComplete (k : Nat)
  /-- R385: The reload of an instruction-store parcel from IMAGE, or of FTB entries 0 to 15 from RELOC, completes after a parity error, ending the partition's stall or trapping with LOST if it fails. -/
  | parityReloadDone (k p : Nat)
  /-- R164: An MM word with both moves empty issues and has no effect. -/
  | nop
  /-- R357: Patch engine with ACT 0b00 writes a retry-ring reply into live state or image and leaves the partition trapped. -/
  | patchApplyPatch
  /-- R358: Patch engine with ACT 0b01 patches and then reissues the trapped group. -/
  | patchApplyReissue
  /-- R358: Patch engine with ACT 0b10 patches and restarts the partition at RGNADDR. -/
  | patchApplyRestart
  /-- R358: Patch engine with ACT 0b11 patches and ends the job without join. -/
  | patchApplyEndJob
  /-- R297: A dispatcher turn picks a region and dispatches its ready node, pre-empting jobs for aged regions. -/
  | dispatchTurn
  /-- R296: At each period boundary every region balance is refilled. -/
  | budgetRefill
  /-- R322: Every 10 μs each cluster's stall ratio is sampled into SRATIO. -/
  | sratioSample
  /-- R315: At reset the boot ROM reads, measures and verifies firmware and module record, then enters firmware or stops with BOOTST. -/
  | reset
  /-- R320: The power controller finishes a CPREQ or VMIN request once VDD is in regulation and ACLK has stepped, writes its status, clears PEND or VPEND and starts the queued request. -/
  | powerControllerRequestDone
  /-- R48: The scheduler signals a core to pre-empt its job, stopping partitions at boundaries. -/
  | preemptRequest (k : Nat)
  /-- R385: A correctable error is corrected, its counter incremented and a KIND 3 record posted at threshold. -/
  | eccCorrectable (e : EccSite)
  /-- R385: An uncorrectable error poisons, invalidates or reloads the structure and posts a KIND 1 record. -/
  | eccUncorrectable (e : EccSite)
  /-- R107: A home translates a request through its range and page TLBs, walking page tables on a miss, and serves or forwards it. -/
  | homeRequest (r : HomeReq)
  /-- R110: An invalidation issued by firmware drops cached translations at a home. -/
  | homeInvalidate (home : Nat) (iapg : Option (BitVec 36))
  /-- R278: A PCIe read from the host or a peer is performed at the LLC slice or owner and completed. -/
  | hostPeerRead (port : Nat) (a : PcieAddr) (len tag : Nat)
  /-- R278: A PCIe posted write from the host or a peer is performed at the LLC slice or owner. -/
  | hostPeerWrite (port : Nat) (a : PcieAddr) (data : List (BitVec 8))
  /-- R303: A write to SQTAIL submits entries, or is rejected if it would exceed the ring. -/
  | sqDoorbell (n : Nat) (tail : BitVec 32)
  /-- R410: A write to a coalescing register that lowers COUNT or TIME below the present state sends the message within 1 μs. -/
  | msixCoalesceWrite (v : Nat) (x : BitVec 64)
  /-- R320: A cluster frequency and bias request is served in order, ramping VDD and stepping ACLK. -/
  | cpreqWrite (c : Nat) (x : BitVec 64)
  /-- R320: A VMIN request is served in order, changing the VDD floor. -/
  | vminWrite (x : BitVec 64)
  /-- R416: Every 1 ms firmware reads each thermal sensor and may exclude it. -/
  | sensorRead (c i : Nat) (raw : BitVec 16)
  /-- R413: A flit replay is performed transparently and counted in REPLAY. -/
  | flitReplay (port : Nat)
  /-- R413: A failing lane group lowers MAXW, retrains the link by L0p and logs LINK. -/
  | laneFault (port : Nat) (maxw : BitVec 3)
  /-- R309: An L0p width change retrains lanes without halting the link or reordering TLPs. -/
  | l0pWidthChange (port : Nat) (width : BitVec 3)
  /-- R413: A TLP failing IDE integrity is dropped, counted and its stream made Insecure. -/
  | ideIntegrityFail (port strm : Nat)
  /-- R310: IDE keys are exchanged over Secured SPDM, with non-AES-256-GCM key sets refused. -/
  | ideKm (port strm : Nat) (aes256gcm : Bool)
  /-- R414: A link that goes down sets DOWN and MAXW 0, logs LINK and fails accesses across it. -/
  | linkDown (port : Nat)
  /-- R414: A reset of a port brings a down link back. -/
  | portReset (port : Nat)
  /-- R316: An SPDM GET_MEASUREMENTS request returns signed SHA-384 measurements. -/
  | getMeasurements (path : MeasPath) (index : Nat)
  /-- R308: A request to the DOE mailbox carrying Discovery, SPDM or Secured SPDM is answered. -/
  | doeRequest (port : Nat) (q : DoeReq)
  /-- R412: An uncorrectable codec error completes the current command with ECC and retires the engine. -/
  | codecEngineFailure (c : Nat)
  /-- R323: The board controller passes input power, VDD current and coolant temperature readings to firmware over MCTP every 1 ms. -/
  | boardControllerTelemetry (power current coolant : Nat)
  /-- R307: Host software unmasks an MSI-X vector or enables MSI-X on a function, and a message held on the vector's pending bit is sent. -/
  | msixVectorUnmask (v : Nat)
  /-- R303: A host write of 1 to SQSTAT.ERR clears the sticky rejection bit of a submission ring. -/
  | sqstatWrite (n : Nat) (x : BitVec 64)
  /-- R311: A host write of NumVFs enables VFs 1 to m, which changes how MSI-X vectors are delivered and which regions are reachable only through PF0. -/
  | sriovNumvfsWrite (m : Nat)
  /-- R107: Firmware writes a home register (a range-TLB entry, HPTBASE or CAIRNBASE), and accesses held on an invalidated range entry are released. -/
  | homeRegisterWrite (home : Nat) (w : HomeRegWrite)
deriving DecidableEq, Repr

end Sys2Proof
end

