-- ==== Sys2Proof/WellFormed.lean ====
section
/-! DEFINITION. Which words are reserved whatever the state holds: the static checks of R140 and
R364, judged against the partition kind and the core kind. Every term the decoder answers meets
them, and a term that fails one has no encoding. -/

namespace Sys2Proof

/-- R154: the unit id of a unit in a partition kind, none where the partition does not have it. px
is in the matrix partitions of an F-core only. -/
def Ctx.unitId (c : Ctx) : UnitName → Option (BitVec 6)
  | .br => some 0x00
  | .lp => some 0x01
  | .sy => some 0x02
  | .ix0 => some 0x03
  | .ix1 => some 0x04
  | .cmp => some 0x05
  | .imd => some 0x06
  | .ks0 => some 0x07
  | .ks1 => some 0x08
  | .va0 => match c.prt with | .vec => some 0x10 | .mat => some 0x12 | _ => none
  | .va1 => match c.prt with | .vec => some 0x11 | _ => none
  | .vf0 => match c.prt with | .vec => some 0x12 | .mat => some 0x13 | _ => none
  | .vf1 => match c.prt with | .vec => some 0x13 | _ => none
  | .vx => match c.prt with | .vec => some 0x14 | .mat => some 0x15 | _ => none
  | .vp => match c.prt with | .vec => some 0x15 | _ => none
  | .vc => match c.prt with | .vec => some 0x16 | .mat => some 0x14 | _ => none
  | .fs => match c.prt with | .vec => some 0x17 | _ => none
  | .fd => match c.prt with | .vec => some 0x18 | _ => none
  | .mx => match c.prt with | .mat => some 0x10 | _ => none
  | .kv => match c.prt with | .mat => some 0x11 | _ => none
  | .px => match c.prt, c.fcore with | .mat, true => some 0x16 | _, _ => none
  | .gm0 => match c.prt with | .mem => some 0x10 | _ => none
  | .gm1 => match c.prt with | .mem => some 0x11 | _ => none
  | .rw => match c.prt with | .mem => some 0x12 | _ => none
  | .tg => match c.prt with | .mem => some 0x13 | _ => none

/-- Whether the partition has the unit (R154). -/
def Ctx.hasUnit (c : Ctx) (u : UnitName) : Bool := (c.unitId u).isSome

/-- The unit that an id names in a partition kind (R154). -/
def Ctx.unitOf (c : Ctx) (i : BitVec 6) : Option UnitName :=
  [UnitName.br, .lp, .sy, .ix0, .ix1, .cmp, .imd, .ks0, .ks1, .va0, .va1, .vf0, .vf1, .vx, .vp, .vc,
    .fs, .fd, .mx, .kv, .px, .gm0, .gm1, .rw, .tg].find? (fun u => c.unitId u == some i)

/-- The number of operand ports that a unit implements, o1 upwards (R172, R196, R225). -/
def UnitName.ports : UnitName → Nat
  | .br | .lp | .sy | .cmp | .imd | .vx | .vp | .vc | .fd | .px | .rw | .tg => 1
  | .ix0 | .ix1 | .ks0 | .ks1 | .va0 | .va1 | .vf0 | .vf1 | .fs | .kv | .gm0 | .gm1 => 2
  | .mx => 3

/-- Position of an operand port, o1 first. -/
def PortSel.idx : PortSel → Nat
  | .o1 => 0
  | .o2 => 1
  | .o3 => 2

/-- Whether a unit implements an operand port. -/
def UnitName.hasPort (u : UnitName) (o : PortSel) : Bool := o.idx < u.ports

/-- Whether a unit implements a result latch (R172, R182, R184, R192, R193, R196, R225). br has
none; lp writes res with lrd, sy with semr and evt. -/
def UnitName.hasLatch : UnitName → LatchSel → Bool
  | .br, _ => false
  | .imd, .res | .imd, .flag => true
  | .fd, .res | .fd, .flag => true
  | .vx, .res | .vx, .res1 => true
  | .vp, .res | .vp, .res1 => true
  | .mx, _ => true
  | .rw, _ => true
  | _, .res => true
  | _, _ => false

/-- The macros of a core (R226). -/
def Ctx.macroCount (c : Ctx) : Nat := if c.fcore then 2 else 8

/-- R74, R367: a push to a handoff port. -/
def Ctx.canPush (c : Ctx) (n : BitVec 4) : Bool :=
  match c.prt with
  | .vec => !c.fcore && n.toNat < 2
  | .mem => if c.fcore then 14 ≤ n.toNat else n.toNat < 2
  | _ => false

/-- R74, R367: a pop from a handoff port. -/
def Ctx.canPop (c : Ctx) (n : BitVec 4) : Bool :=
  match c.prt with
  | .vec | .mem => c.fcore && n.toNat < 14
  | _ => false

/-- The unit of a trigger. -/
def Trigger.unit : Trigger → UnitName
  | .brTgt _ | .brJmp _ | .brCall _ | .brRet | .brBkt | .brTrap => .br
  | .lpLoop | .lpLbrk | .lpLrd _ => .lp
  | .sySemw | .sySema | .sySemr | .syJoin | .syLock | .syUnlock | .syRgn | .syMark _ | .syRah
  | .syChk | .syEvt => .sy
  | .ix u _ _ => if u then .ix1 else .ix0
  | .cmp _ _ | .cmpPred _ => .cmp
  | .imd _ _ => .imd
  | .ksLd u | .ksSt u | .ksLdx u _ | .ksStx u _ | .ksLdb u _ => if u then .ks1 else .ks0
  | .va u _ _ => if u then .va1 else .va0
  | .vp _ _ | .vpF _ _ | .vpClmul _ => .vp
  | .vcCmp _ _ | .vcFcmp _ _ | .vcVote _ | .vcClass _ => .vc
  | .vf u _ _ _ | .vfToE8m0 u _ _ | .vfFromE8m0 u _ | .vfCvt u _ _ _ _ => if u then .vf1 else .vf0
  | .vx _ _ _ => .vx
  | .fs _ _ _ | .fsCmp _ _ _ | .fsCvt _ _ _ _ => .fs
  | .fd _ _ => .fd
  | .mxBld _ | .mxBsw _ | .mxComp _ _ _ | .mxMcfg _ => .mx
  | .kvLoad _ _ | .kvAp | .kvFrq _ => .kv
  | .pxCsc _ | .pxPack _ => .px
  | .gmLd u _ _ | .gmSt u _ | .gmPref u | .gmStSm u _ | .gmLdSm u _ _ | .gmAmo u _ _ | .gmAmoFadd u
  | .gmAmoNib u => if u then .gm1 else .gm0
  | .rwWalk _ => .rw
  | .tg _ => .tg

/-- The macro that an mx trigger names; 0 for every other trigger. -/
def Trigger.macroIdx : Trigger → BitVec 3
  | .mxBld m | .mxBsw m | .mxComp _ m _ | .mxMcfg m => m
  | _ => 0

/-- R159: a conversion between two formats. -/
def cvtAllowed (d s : CvtF) : Bool :=
  d != s && !(d == .int32 && s == .uint32) && !(d == .uint32 && s == .int32)

/-- R154 to R162, R174: whether a trigger is one that the partition has. -/
def Trigger.wf (c : Ctx) (t : Trigger) : Bool :=
  c.hasUnit t.unit &&
  match t with
  | .brBkt => c.prt == .ctl
  | .ix _ .bswap .b => false
  | .vp .pack .d => false
  | .vfCvt _ d s _ _ => cvtAllowed d s
  | .fsCvt d s _ _ => cvtAllowed d s
  | .mxBld m | .mxBsw m | .mxComp _ m _ | .mxMcfg m => m.toNat < c.macroCount
  | _ => true

/-- R144, R145: whether a source is one that the partition has. -/
def Src.wf (c : Ctx) : Src → Bool
  | .latch u sel m =>
    c.hasUnit u && u.hasLatch sel && (if u == .mx then decide (m.toNat < c.macroCount) else m == 0)
  | .hq n => c.canPop n
  | _ => true

/-- R142, R143: whether a destination is one that the partition has. -/
def Dst.wf (c : Ctx) : Dst → Bool
  | .xo q _ => q.toNat < 12
  | .hq n => c.canPush n
  | .port u o => c.hasUnit u && u.hasPort o
  | .trig t => t.wf c
  | _ => true

/-- R141. -/
def Move.wf (c : Ctx) (m : Move) : Bool := m.src.wf c && m.dst.wf c

/-- R150: the commands whose block is not read. -/
def CmdOp.readsBlock : CmdOp → Bool
  | .evict | .wback | .post => false
  | _ => true

/-- R149, R356: where a command may stand. -/
def CmdOp.present (c : Ctx) : CmdOp → Bool
  | .enc | .dec => c.fcore && c.prt == .mem
  | .patch => c.fw
  | _ => true

/-- R148, R150, R367: the checks of a command word. -/
def cmdWf (c : Ctx) (op : CmdOp) (f : CmdFields) : Bool :=
  op.present c && decide (f.cboff.toNat ≤ 1535) && (op.readsBlock || f.cboff == 0) &&
  match op with
  | .post => true
  | .fill | .evict | .wback => decide (f.imm.toNat < 8192)
  | _ => f.imm == 0

/-- R138: whether a word is reserved nowhere. -/
def WordF.wf (c : Ctx) : WordF → Bool
  | .mm a b => a.wf c && b.wf c
  | .ml _ d _ => d.wf c
  | .mc op f => cmdWf c op f
  | .idle n => n != 0

/-- The triggers of a word, in slot order. -/
def WordF.triggers : WordF → List Trigger
  | .mm a b =>
    (match a.dst with | .trig t => [t] | _ => []) ++ (match b.dst with | .trig t => [t] | _ => [])
  | .ml _ d _ => match d with | .trig t => [t] | _ => []
  | _ => []

/-- R371: what counts as one unit for a trigger. -/
def Trigger.unitKey (t : Trigger) : UnitName × BitVec 3 := (t.unit, t.macroIdx)

/-- R371: no two triggers of a list go into one unit. -/
def triggersDistinct (ts : List Trigger) : Bool := (ts.map Trigger.unitKey).Nodup

/-- R139: whether two words may form one issue group. -/
def pairAllowed : WordF → WordF → Bool
  | .idle _, _ => false
  | _, .idle _ => false
  | .mc _ _, .mc _ _ => false
  | _, _ => true

/-- The static checks of an issue group (R139, R140, R371). -/
def Group.wf (c : Ctx) (g : Group) : Bool :=
  match g.w1 with
  | none => g.w0.wf c && triggersDistinct g.w0.triggers
  | some w => g.w0.wf c && w.wf c && pairAllowed g.w0 w && triggersDistinct (g.w0.triggers ++ w.triggers)

end Sys2Proof
end

