-- ==== Sys2Proof/Decode.lean ====
section
/-! DEFINITION. Decoding of stream words, total on any bits, and the encoder written from the same
tables (R138 to R162). A word that is reserved is refused by the name of what is wrong with it. -/

namespace Sys2Proof

/-- Why a word or a group is refused. All of them raise ENCODE at issue (R367, R371), but for
`header`, which raises HEADER (R152). -/
inductive DecodeErr where
  | format | zeroBits | pairLast | pairIdle | pairBoth | pairCommands | idleCount
  | destKind | sourceKind | port | latch | unit | opcode | exchange | handoff
  | command | block | immediate | twoTriggers | notAGroup | header
deriving DecidableEq, Repr

/-! ### Codes of the tables -/

/-- Position of an element in its table, the code of that element. -/
def codeIn {α : Type} [BEq α] (l : List α) (x : α) : Nat := l.idxOf x

/-- Class W (R155). -/
def intWs : List IntW := [.d, .w, .h, .b]
/-- Class F (R155). -/
def fpFs : List FpF := [.f32, .f16, .bf16]
/-- The formats of R159. -/
def cvtFs : List CvtF := [.f32, .f16, .bf16, .e4m3, .e5m2, .e2m1, .int32, .uint32]
/-- RC of R159. -/
def rcs : List Rc := [.csr, .rne, .rtz, .rdn, .rup]
/-- Rounding modifiers of a conversion (R159). -/
def cvtRnds : List CvtRnd := [.csr, .rne, .rtz, .rdn]
/-- Conditions of cmp and vc.cmp in the order of R157. -/
def conds : List Cond := [.eq, .ne, .lt, .le, .gt, .ge, .ltu, .leu, .gtu, .geu]
/-- Conditions of vc.fcmp (R158). -/
def fconds : List FCond := [.eq, .ne, .lt, .le, .gt, .ge, .un]
/-- Conditions of fs.fcmp (R160). -/
def fsConds : List FsCond := [.eq, .lt, .le, .un]
/-- Opcodes of ix (R157). -/
def ixOps : List IxOp := [.add, .sub, .and, .or, .xor, .andn, .shl, .shr, .sar, .rol, .min, .max,
  .minu, .maxu, .clz, .ctz, .popc, .bswap, .bext, .bins, .sel, .mov]
/-- Opcodes 0x10 to 0x13 of cmp (R157). -/
def predOps : List PredOp := [.pand, .por, .pxor, .pandn]
/-- Opcodes of va (R158). -/
def vaOps : List VaOp := [.add, .sub, .mul, .mulh, .and, .or, .xor, .andn, .shl, .shr, .sar, .min, .max,
  .minu, .maxu, .abs, .sel, .popc, .clz, .adds, .subs]
/-- Opcodes 0x00 to 0x05 of vp (R158). -/
def vpPerms : List VpOp := [.perm, .bcast, .rot, .pack, .unpk, .cmprs]
/-- Opcodes 0x08 to 0x0C of vp (R158). -/
def vpReds : List VpOp := [.redadd, .redmax, .redmin, .scan, .xscan]
/-- Opcodes 0x0D to 0x0F of vp (R158). -/
def vpFOps : List VpFOp := [.redadd, .redmax, .redmin]
/-- Opcodes 0x20 to 0x22 of vc (R158). -/
def voteOps : List VoteOp := [.any, .all, .cnt]
/-- Operations of vf, shape 0 (R160). -/
def vfOps : List VfOp := [.add, .sub, .mul, .fma, .nma, .min, .max, .abs, .neg, .rnd]
/-- Operations of vx (R160). -/
def vxOps : List VxOp := [.exp2, .log2, .rcp, .rsqrt, .div, .sqrt, .sincos]
/-- Operations of fs, shape 0 (R160). -/
def fsOps : List FsOp := [.add, .sub, .mul, .fma, .min, .max]
/-- Operations of fd (R160). -/
def fdOps : List FdOp := [.div, .sqrt, .rsqrt]
/-- Destination formats of kv (R161). -/
def kvDs : List KvD := [.e4m3, .bf16, .f32]
/-- Sizes of ld and st (R162). -/
def gmZs : List GmZ := [.w, .d, .q, .l]
/-- Sizes of the small forms (R162). -/
def gmSs : List GmS := [.n, .b, .h]
/-- Opcodes 0x10 to 0x19 of gm (R162). -/
def amoOps : List AmoOp := [.add, .and, .or, .xor, .min, .max, .minu, .maxu, .swap, .cas]
/-- Opcodes of tg (R162). -/
def tgOps : List TgOp := [.look, .pin, .unpin, .inval, .setag]
/-- Opcodes 0x08 to 0x0C of sy (R156). -/
def scopes : List Scope := [.prt, .core, .clu, .dev, .sys]
/-- Selections of lp.lrd (R182). -/
def lrdSels : List LrdSel := [.iter, .rem, .stg]

/-- Operations 0x0 to 0x2 and 0x4 to 0x7 of imd (R157). -/
def imdOps : List (Option ImdOp) :=
  [some .mul, some .mulh, some .mulhu, none, some .div, some .divu, some .rem, some .remu]

/-- A code as bits. -/
def bitsOf {α : Type} [BEq α] (n : Nat) (l : List α) (x : α) : BitVec n := BitVec.ofNat n (codeIn l x)

/-! ### Triggers -/

/-- Opcode [7:0] and modifier [1:0] of shape 0 (R159). -/
def shape0 (rc : Rc) (op : Nat) : BitVec 8 :=
  (0#1 ++ bitsOf 3 rcs rc : BitVec 4) ++ BitVec.ofNat 4 op

/-- Opcode of shape 1 (R159). -/
def shape1 (d s : CvtF) (sat : Bool) : BitVec 8 :=
  ((1#1 ++ bitsOf 3 cvtFs d : BitVec 4) ++ bitsOf 3 cvtFs s : BitVec 7) ++ BitVec.ofBool sat

/-- The opcode field of a trigger (R156 to R162). -/
def Trigger.opcode : Trigger → BitVec 8
  | .brTgt _ => 0x00 | .brJmp _ => 0x01 | .brCall _ => 0x02 | .brRet => 0x03 | .brBkt => 0x04
  | .brTrap => 0x05
  | .lpLoop => 0x00 | .lpLbrk => 0x01 | .lpLrd _ => 0x02
  | .sySemw => 0x00 | .sySema => 0x01 | .sySemr => 0x02 | .syJoin => 0x03 | .syLock => 0x05
  | .syUnlock => 0x06 | .syRgn => 0x07
  | .syMark s => BitVec.ofNat 8 (8 + codeIn scopes s)
  | .syRah => 0x10 | .syChk => 0x11 | .syEvt => 0x12
  | .ix _ op _ => bitsOf 8 ixOps op
  | .cmp c _ => bitsOf 8 conds c
  | .cmpPred op => BitVec.ofNat 8 (16 + codeIn predOps op)
  | .imd op _ => bitsOf 8 imdOps (some op)
  | .ksLd _ => 0x00 | .ksSt _ => 0x01 | .ksLdx _ _ => 0x02 | .ksStx _ _ => 0x03 | .ksLdb _ _ => 0x04
  | .va _ op _ => bitsOf 8 vaOps op
  | .vp op _ => if vpPerms.contains op then bitsOf 8 vpPerms op else BitVec.ofNat 8 (8 + codeIn vpReds op)
  | .vpF op _ => BitVec.ofNat 8 (13 + codeIn vpFOps op)
  | .vpClmul _ => 0x10
  | .vcCmp c _ => bitsOf 8 conds c
  | .vcFcmp c _ => BitVec.ofNat 8 (16 + codeIn fconds c)
  | .vcVote op => BitVec.ofNat 8 (32 + codeIn voteOps op)
  | .vcClass _ => 0x23
  | .vf _ op rc _ => shape0 rc (codeIn vfOps op)
  | .vfToE8m0 _ rc _ => shape0 rc 0xA
  | .vfFromE8m0 _ rc => shape0 rc 0xB
  | .vfCvt _ d s sat _ => shape1 d s sat
  | .vx op rc _ => shape0 rc (codeIn vxOps op)
  | .fs op rc _ => shape0 rc (codeIn fsOps op)
  | .fsCmp c rc _ => shape0 rc (8 + codeIn fsConds c)
  | .fsCvt d s sat _ => shape1 d s sat
  | .fd op rc => shape0 rc (codeIn fdOps op)
  | .mxBld m => m ++ 0x00#5
  | .mxBsw m => m ++ 0x01#5
  | .mxComp op m _ => m ++ (match op with | .mma => 0x02#5 | .mmt => 0x03#5 | .mad => 0x05#5)
  | .mxMcfg m => m ++ 0x04#5
  | .kvLoad key _ => if key then 0x00 else 0x01
  | .kvAp => 0x02 | .kvFrq _ => 0x03
  | .pxCsc _ => 0x00 | .pxPack _ => 0x01
  | .gmLd _ spec _ => if spec then 0x01 else 0x00
  | .gmSt _ _ => 0x02 | .gmPref _ => 0x03 | .gmStSm _ _ => 0x04
  | .gmLdSm _ spec _ => if spec then 0x06 else 0x05
  | .gmAmo _ op _ => BitVec.ofNat 8 (16 + codeIn amoOps op)
  | .gmAmoFadd _ => 0x1A | .gmAmoNib _ => 0x1B
  | .rwWalk pref => if pref then 0x01 else 0x00
  | .tg op => bitsOf 8 tgOps op

/-- The type modifier of a trigger (R155 to R162). -/
def Trigger.modifier : Trigger → BitVec 2
  | .brTgt n | .brJmp n | .brCall n => n
  | .lpLrd sel => bitsOf 2 lrdSels sel
  | .ix _ _ w | .cmp _ w | .va _ _ w | .vp _ w | .vcCmp _ w => bitsOf 2 intWs w
  | .ksLdx _ w | .ksStx _ w | .ksLdb _ w => bitsOf 2 intWs w
  | .imd _ w32 | .vpClmul w32 => if w32 then 1 else 0
  | .vpF _ f | .vcFcmp _ f | .vcClass f | .vf _ _ _ f | .vfToE8m0 _ _ f | .vx _ _ f | .fs _ _ f
  | .fsCmp _ _ f => bitsOf 2 fpFs f
  | .vfCvt _ _ _ _ r | .fsCvt _ _ _ r => bitsOf 2 cvtRnds r
  | .mxComp _ _ z => if z then 1 else 0
  | .kvLoad _ d => bitsOf 2 kvDs d
  | .kvFrq n | .pxCsc n => n
  | .pxPack p10 => if p10 then 1 else 0
  | .gmLd _ _ z | .gmSt _ z => bitsOf 2 gmZs z
  | .gmStSm _ z | .gmLdSm _ _ z => bitsOf 2 gmSs z
  | .gmAmo _ _ w32 => if w32 then 0 else 1
  | _ => 0

/-- An element of a table, refused as an unlisted opcode or modifier where the table has none. -/
def pick {α : Type} (l : List α) (n : Nat) : Except DecodeErr α :=
  match l[n]? with
  | some x => .ok x
  | none => .error .opcode

/-- A modifier that must be 0b00 (R155). -/
def required {α : Type} (md : BitVec 2) (x : α) : Except DecodeErr α :=
  if md = 0 then .ok x else .error .opcode

/-- A modifier of .d or .w (R157, R158). -/
def dOrW (md : BitVec 2) : Except DecodeErr Bool :=
  if md = 0 then .ok false else if md = 1 then .ok true else .error .opcode

/-- The triggers of br (R156). -/
def decodeBr (op : Nat) (md : BitVec 2) : Except DecodeErr Trigger :=
  match op with
  | 0 => .ok (.brTgt md)
  | 1 => .ok (.brJmp md)
  | 2 => .ok (.brCall md)
  | 3 => required md .brRet
  | 4 => required md .brBkt
  | 5 => required md .brTrap
  | _ => .error .opcode

/-- The triggers of lp (R156). -/
def decodeLp (op : Nat) (md : BitVec 2) : Except DecodeErr Trigger :=
  match op with
  | 0 => required md .lpLoop
  | 1 => required md .lpLbrk
  | 2 => do .ok (.lpLrd (← pick lrdSels md.toNat))
  | _ => .error .opcode

/-- The triggers of sy (R156). -/
def decodeSy (op : Nat) (md : BitVec 2) : Except DecodeErr Trigger :=
  match op with
  | 0 => required md .sySemw
  | 1 => required md .sySema
  | 2 => required md .sySemr
  | 3 => required md .syJoin
  | 5 => required md .syLock
  | 6 => required md .syUnlock
  | 7 => required md .syRgn
  | 8 => required md (.syMark .prt)
  | 9 => required md (.syMark .core)
  | 10 => required md (.syMark .clu)
  | 11 => required md (.syMark .dev)
  | 12 => required md (.syMark .sys)
  | 16 => required md .syRah
  | 17 => required md .syChk
  | 18 => required md .syEvt
  | _ => .error .opcode

/-- The triggers of ix0 and ix1 (R157). -/
def decodeIx (u : Bool) (op : Nat) (md : BitVec 2) : Except DecodeErr Trigger := do
  .ok (.ix u (← pick ixOps op) (← pick intWs md.toNat))

/-- The triggers of cmp (R157). -/
def decodeCmp (op : Nat) (md : BitVec 2) : Except DecodeErr Trigger :=
  if op < 16 then do .ok (.cmp (← pick conds op) (← pick intWs md.toNat))
  else do required md (.cmpPred (← pick predOps (op - 16)))

/-- The triggers of imd (R157). -/
def decodeImd (op : Nat) (md : BitVec 2) : Except DecodeErr Trigger := do
  match ← pick imdOps op with
  | some o => .ok (.imd o (← dOrW md))
  | none => .error .opcode

/-- The triggers of ks0 and ks1 (R157). -/
def decodeKs (u : Bool) (op : Nat) (md : BitVec 2) : Except DecodeErr Trigger :=
  match op with
  | 0 => required md (.ksLd u)
  | 1 => required md (.ksSt u)
  | 2 => do .ok (.ksLdx u (← pick intWs md.toNat))
  | 3 => do .ok (.ksStx u (← pick intWs md.toNat))
  | 4 => do .ok (.ksLdb u (← pick intWs md.toNat))
  | _ => .error .opcode

/-- The triggers of va0 and va1 (R158). -/
def decodeVa (u : Bool) (op : Nat) (md : BitVec 2) : Except DecodeErr Trigger := do
  .ok (.va u (← pick vaOps op) (← pick intWs md.toNat))

/-- The triggers of vp (R158). -/
def decodeVp (op : Nat) (md : BitVec 2) : Except DecodeErr Trigger :=
  if op < 8 then do .ok (.vp (← pick vpPerms op) (← pick intWs md.toNat))
  else if op < 13 then do .ok (.vp (← pick vpReds (op - 8)) (← pick intWs md.toNat))
  else if op < 16 then do .ok (.vpF (← pick vpFOps (op - 13)) (← pick fpFs md.toNat))
  else if op = 16 then do .ok (.vpClmul (← dOrW md))
  else .error .opcode

/-- The triggers of vc (R158). -/
def decodeVc (op : Nat) (md : BitVec 2) : Except DecodeErr Trigger :=
  if op < 16 then do .ok (.vcCmp (← pick conds op) (← pick intWs md.toNat))
  else if op < 32 then do .ok (.vcFcmp (← pick fconds (op - 16)) (← pick fpFs md.toNat))
  else if op = 35 then do .ok (.vcClass (← pick fpFs md.toNat))
  else do required md (.vcVote (← pick voteOps (op - 32)))

/-- The fields of shape 1 (R159). -/
def decodeCvt (op : BitVec 8) (md : BitVec 2) : Except DecodeErr (CvtF × CvtF × Bool × CvtRnd) := do
  .ok (← pick cvtFs (op.extractLsb' 4 3).toNat, ← pick cvtFs (op.extractLsb' 1 3).toNat,
    op.getLsbD 0, ← pick cvtRnds md.toNat)

/-- The triggers of vf0 and vf1 (R159, R160). -/
def decodeVf (u : Bool) (op : BitVec 8) (md : BitVec 2) : Except DecodeErr Trigger :=
  if op.getLsbD 7 then do
    let (d, s, sat, r) ← decodeCvt op md
    .ok (.vfCvt u d s sat r)
  else do
    let rc ← pick rcs (op.extractLsb' 4 3).toNat
    let o := (op.extractLsb' 0 4).toNat
    if o = 0xA then .ok (.vfToE8m0 u rc (← pick fpFs md.toNat))
    else if o = 0xB then required md (.vfFromE8m0 u rc)
    else .ok (.vf u (← pick vfOps o) rc (← pick fpFs md.toNat))

/-- The triggers of vx (R160). Bit 7 of the opcode selects a conversion, which vx has none of. -/
def decodeVx (op : BitVec 8) (md : BitVec 2) : Except DecodeErr Trigger :=
  if op.getLsbD 7 then .error .opcode
  else do
    .ok (.vx (← pick vxOps (op.extractLsb' 0 4).toNat) (← pick rcs (op.extractLsb' 4 3).toNat)
      (← pick fpFs md.toNat))

/-- The triggers of fs (R159, R160). -/
def decodeFs (op : BitVec 8) (md : BitVec 2) : Except DecodeErr Trigger :=
  if op.getLsbD 7 then do
    let (d, s, sat, r) ← decodeCvt op md
    .ok (.fsCvt d s sat r)
  else do
    let rc ← pick rcs (op.extractLsb' 4 3).toNat
    let o := (op.extractLsb' 0 4).toNat
    if o < 8 then .ok (.fs (← pick fsOps o) rc (← pick fpFs md.toNat))
    else .ok (.fsCmp (← pick fsConds (o - 8)) rc (← pick fpFs md.toNat))

/-- The triggers of fd (R160). -/
def decodeFd (op : BitVec 8) (md : BitVec 2) : Except DecodeErr Trigger :=
  if op.getLsbD 7 then .error .opcode
  else do
    required md (.fd (← pick fdOps (op.extractLsb' 0 4).toNat) (← pick rcs (op.extractLsb' 4 3).toNat))

/-- The triggers of mx (R161). -/
def decodeMx (op : BitVec 8) (md : BitVec 2) : Except DecodeErr Trigger :=
  let m : BitVec 3 := op.extractLsb' 5 3
  match (op.extractLsb' 0 5).toNat with
  | 0 => required md (.mxBld m)
  | 1 => required md (.mxBsw m)
  | 2 => do .ok (.mxComp .mma m (← dOrW md))
  | 3 => do .ok (.mxComp .mmt m (← dOrW md))
  | 4 => required md (.mxMcfg m)
  | 5 => do .ok (.mxComp .mad m (← dOrW md))
  | _ => .error .opcode

/-- The triggers of kv (R161). -/
def decodeKv (op : Nat) (md : BitVec 2) : Except DecodeErr Trigger :=
  match op with
  | 0 => do .ok (.kvLoad true (← pick kvDs md.toNat))
  | 1 => do .ok (.kvLoad false (← pick kvDs md.toNat))
  | 2 => required md .kvAp
  | 3 => .ok (.kvFrq md)
  | _ => .error .opcode

/-- The triggers of px (R161). -/
def decodePx (op : Nat) (md : BitVec 2) : Except DecodeErr Trigger :=
  match op with
  | 0 => .ok (.pxCsc md)
  | 1 => do .ok (.pxPack (← dOrW md))
  | _ => .error .opcode

/-- The triggers of gm0 and gm1 (R162). -/
def decodeGm (u : Bool) (op : Nat) (md : BitVec 2) : Except DecodeErr Trigger :=
  match op with
  | 0 => do .ok (.gmLd u false (← pick gmZs md.toNat))
  | 1 => do .ok (.gmLd u true (← pick gmZs md.toNat))
  | 2 => do .ok (.gmSt u (← pick gmZs md.toNat))
  | 3 => required md (.gmPref u)
  | 4 => do .ok (.gmStSm u (← pick gmSs md.toNat))
  | 5 => do .ok (.gmLdSm u false (← pick gmSs md.toNat))
  | 6 => do .ok (.gmLdSm u true (← pick gmSs md.toNat))
  | 26 => required md (.gmAmoFadd u)
  | 27 => required md (.gmAmoNib u)
  | _ =>
    if op < 16 then .error .opcode
    else do
      let o ← pick amoOps (op - 16)
      .ok (.gmAmo u o (!(← dOrW md)))

/-- The triggers of rw (R162). -/
def decodeRw (op : Nat) (md : BitVec 2) : Except DecodeErr Trigger :=
  match op with
  | 0 => required md (.rwWalk false)
  | 1 => required md (.rwWalk true)
  | _ => .error .opcode

/-- The triggers of tg (R162). -/
def decodeTg (op : Nat) (md : BitVec 2) : Except DecodeErr Trigger := do
  required md (.tg (← pick tgOps op))

/-- A trigger of a unit. -/
def decodeUnitTrigger (u : UnitName) (op : BitVec 8) (md : BitVec 2) : Except DecodeErr Trigger :=
  match u with
  | .br => decodeBr op.toNat md
  | .lp => decodeLp op.toNat md
  | .sy => decodeSy op.toNat md
  | .ix0 => decodeIx false op.toNat md
  | .ix1 => decodeIx true op.toNat md
  | .cmp => decodeCmp op.toNat md
  | .imd => decodeImd op.toNat md
  | .ks0 => decodeKs false op.toNat md
  | .ks1 => decodeKs true op.toNat md
  | .va0 => decodeVa false op.toNat md
  | .va1 => decodeVa true op.toNat md
  | .vf0 => decodeVf false op md
  | .vf1 => decodeVf true op md
  | .vx => decodeVx op md
  | .vp => decodeVp op.toNat md
  | .vc => decodeVc op.toNat md
  | .fs => decodeFs op md
  | .fd => decodeFd op md
  | .mx => decodeMx op md
  | .kv => decodeKv op.toNat md
  | .px => decodePx op.toNat md
  | .gm0 => decodeGm false op.toNat md
  | .gm1 => decodeGm true op.toNat md
  | .rw => decodeRw op.toNat md
  | .tg => decodeTg op.toNat md

/-- A trigger as a partition reads it: of one of its own units, and one that R155 to R162 list. -/
def decodeTrigger (c : Ctx) (uid : BitVec 6) (op : BitVec 8) (md : BitVec 2) :
    Except DecodeErr Trigger :=
  match c.unitOf uid with
  | none => .error .unit
  | some u => do
    let t ← decodeUnitTrigger u op md
    if t.wf c then .ok t else .error .opcode

/-! ### Destinations, sources and moves -/

/-- Operand port code (R142). -/
def PortSel.code : PortSel → BitVec 2
  | .o1 => 1
  | .o2 => 2
  | .o3 => 3

/-- The destination field (R142, R143). -/
def Dst.bits (c : Ctx) : Dst → BitVec 18
  | .main v i => (0b00#2 ++ v : BitVec 5) ++ i
  | .ofile j => 0x10000#18 ||| (j.setWidth 18)
  | .pred k => 0x11000#18 ||| (k.setWidth 18)
  | .xo q j => 0x12000#18 ||| ((q ++ 0#1 ++ j : BitVec 8).setWidth 18)
  | .hq n => 0x13000#18 ||| (n.setWidth 18)
  | .creg i => 0x14000#18 ||| (i.setWidth 18)
  | .sink => 0x1F000
  | .port u o => (((0b10#2 ++ (c.unitId u).getD 0 : BitVec 8) ++ o.code : BitVec 10) ++ 0#8 : BitVec 18)
  | .trig t =>
    (((0b11#2 ++ (c.unitId t.unit).getD 0 : BitVec 8) ++ t.opcode : BitVec 16) ++ t.modifier : BitVec 18)

/-- A special destination (R143). -/
def decodeSpecialDst (kind : BitVec 4) (i : BitVec 12) : Except DecodeErr Dst :=
  match kind.toNat with
  | 0 => if i.toNat < 8 then .ok (.ofile (i.setWidth 3)) else .error .zeroBits
  | 1 => if i.toNat < 16 then .ok (.pred (i.setWidth 4)) else .error .zeroBits
  | 2 =>
    if i.toNat < 256 ∧ i.getLsbD 3 = false then .ok (.xo (i.extractLsb' 4 4) (i.setWidth 3))
    else .error .zeroBits
  | 3 => if i.toNat < 16 then .ok (.hq (i.setWidth 4)) else .error .zeroBits
  | 4 => .ok (.creg i)
  | 15 => if i = 0 then .ok .sink else .error .zeroBits
  | _ => .error .destKind

/-- Why a destination that has been read is not one the partition has. -/
def Dst.fault : Dst → DecodeErr
  | .xo _ _ => .exchange
  | .hq _ => .handoff
  | .port _ _ => .port
  | _ => .opcode

/-- A destination field, before the partition is asked for it. -/
def decodeDstRaw (c : Ctx) (x : BitVec 18) : Except DecodeErr Dst :=
  match (x.extractLsb' 16 2).toNat with
  | 0 => .ok (.main (x.extractLsb' 13 3) (x.extractLsb' 0 13))
  | 1 => decodeSpecialDst (x.extractLsb' 12 4) (x.extractLsb' 0 12)
  | 2 =>
    match c.unitOf (x.extractLsb' 10 6) with
    | none => .error .unit
    | some u =>
      if x.extractLsb' 0 8 = 0 then
        match (x.extractLsb' 8 2).toNat with
        | 1 => .ok (.port u .o1)
        | 2 => .ok (.port u .o2)
        | 3 => .ok (.port u .o3)
        | _ => .error .port
      else .error .zeroBits
  | _ => do .ok (.trig (← decodeTrigger c (x.extractLsb' 10 6) (x.extractLsb' 2 8) (x.extractLsb' 0 2)))

/-- A destination field as a partition reads it. -/
def decodeDst (c : Ctx) (x : BitVec 18) : Except DecodeErr Dst := do
  let d ← decodeDstRaw c x
  if d.wf c then .ok d else .error d.fault

/-- Latch select code (R144). -/
def LatchSel.code : LatchSel → BitVec 2
  | .res => 0
  | .res1 => 1
  | .flag => 2

/-- A special source field: kind and index (R145). -/
def specialSrc (kind : BitVec 4) (i : BitVec 12) : BitVec 23 :=
  (((0b10#2 ++ kind : BitVec 6) ++ 0#5 : BitVec 11) ++ i : BitVec 23)

/-- The source field (R144, R145). -/
def Src.bits (c : Ctx) : Src → BitVec 23
  | .main v i => (((0b00#2 ++ v : BitVec 5) ++ i : BitVec 18) ++ 0#5 : BitVec 23)
  | .latch u sel m =>
    ((((0b01#2 ++ (c.unitId u).getD 0 : BitVec 8) ++ sel.code : BitVec 10) ++ m : BitVec 13) ++ 0#10 : BitVec 23)
  | .ofile j => specialSrc 0 (j.setWidth 12)
  | .pred k => specialSrc 1 (k.setWidth 12)
  | .xi j => specialSrc 2 (j.setWidth 12)
  | .hq n => specialSrc 3 (n.setWidth 12)
  | .creg i => specialSrc 4 i
  | .scnt => specialSrc 5 0
  | .coord => specialSrc 6 0
  | .imm x => 0b11#2 ++ x

/-- A special source (R145). -/
def decodeSpecialSrc (kind : BitVec 4) (i : BitVec 12) : Except DecodeErr Src :=
  match kind.toNat with
  | 0 => if i.toNat < 8 then .ok (.ofile (i.setWidth 3)) else .error .zeroBits
  | 1 => if i.toNat < 16 then .ok (.pred (i.setWidth 4)) else .error .zeroBits
  | 2 => if i.toNat < 8 then .ok (.xi (i.setWidth 3)) else .error .zeroBits
  | 3 => if i.toNat < 16 then .ok (.hq (i.setWidth 4)) else .error .zeroBits
  | 4 => .ok (.creg i)
  | 5 => if i = 0 then .ok .scnt else .error .zeroBits
  | 6 => if i = 0 then .ok .coord else .error .zeroBits
  | _ => .error .sourceKind

/-- A source field, before the partition is asked for it. -/
def decodeSrcRaw (c : Ctx) (x : BitVec 23) : Except DecodeErr Src :=
  match (x.extractLsb' 21 2).toNat with
  | 0 =>
    if x.extractLsb' 0 5 = 0 then .ok (.main (x.extractLsb' 18 3) (x.extractLsb' 5 13)) else .error .zeroBits
  | 1 =>
    match c.unitOf (x.extractLsb' 15 6) with
    | none => .error .unit
    | some u =>
      if x.extractLsb' 0 10 = 0 then
        match (x.extractLsb' 13 2).toNat with
        | 0 => .ok (.latch u .res (x.extractLsb' 10 3))
        | 1 => .ok (.latch u .res1 (x.extractLsb' 10 3))
        | 2 => .ok (.latch u .flag (x.extractLsb' 10 3))
        | _ => .error .latch
      else .error .zeroBits
  | 2 =>
    if x.extractLsb' 12 5 = 0 then decodeSpecialSrc (x.extractLsb' 17 4) (x.extractLsb' 0 12)
    else .error .zeroBits
  | _ => .ok (.imm (x.extractLsb' 0 21))

/-- Why a source that has been read is not one the partition has. -/
def Src.fault : Src → DecodeErr
  | .hq _ => .handoff
  | _ => .latch

/-- A source field as a partition reads it. -/
def decodeSrc (c : Ctx) (x : BitVec 23) : Except DecodeErr Src := do
  let s ← decodeSrcRaw c x
  if s.wf c then .ok s else .error s.fault

/-- The five guard bits (R141). -/
def Guard.bits (g : Guard) : BitVec 5 := g.pred ++ BitVec.ofBool g.neg

/-- The guard that five bits give (R141). -/
def decodeGuard (x : BitVec 5) : Guard := ⟨x.extractLsb' 1 4, x.getLsbD 0⟩

/-- A move as 46 bits (R141). -/
def Move.bits (c : Ctx) (m : Move) : BitVec 46 := ((m.g.bits ++ m.dst.bits c : BitVec 23) ++ m.src.bits c : BitVec 46)

/-- The move that 46 bits give (R141). -/
def decodeMove (c : Ctx) (x : BitVec 46) : Except DecodeErr Move := do
  let dst ← decodeDst c (x.extractLsb' 23 18)
  let src ← decodeSrc c (x.extractLsb' 0 23)
  .ok ⟨decodeGuard (x.extractLsb' 41 5), src, dst⟩

/-! ### Words -/

/-- ENG and COP of a command (R149, R356). -/
def CmdOp.codes : CmdOp → BitVec 4 × BitVec 4
  | .copy n => (0, BitVec.ofNat 4 n.val)
  | .copyf n => (0, BitVec.ofNat 4 (4 + n.val))
  | .gath => (1, 0)
  | .scat => (1, 1)
  | .cred => (2, 0)
  | .cbc => (2, 1)
  | .mq => (3, 0)
  | .awalk => (4, 0)
  | .enc => (5, 0)
  | .dec => (6, 0)
  | .patch => (7, 0)
  | .fill => (8, 0)
  | .evict => (8, 1)
  | .wback => (8, 2)
  | .post => (9, 0)

/-- The command of an engine and an opcode (R149, R356). -/
def decodeCmdOp (eng cop : BitVec 4) : Except DecodeErr CmdOp :=
  match eng.toNat, cop.toNat with
  | 0, 0 => .ok (.copy 0)
  | 0, 1 => .ok (.copy 1)
  | 0, 2 => .ok (.copy 2)
  | 0, 4 => .ok (.copyf 0)
  | 0, 5 => .ok (.copyf 1)
  | 0, 6 => .ok (.copyf 2)
  | 1, 0 => .ok .gath
  | 1, 1 => .ok .scat
  | 2, 0 => .ok .cred
  | 2, 1 => .ok .cbc
  | 3, 0 => .ok .mq
  | 4, 0 => .ok .awalk
  | 5, 0 => .ok .enc
  | 6, 0 => .ok .dec
  | 7, 0 => .ok .patch
  | 8, 0 => .ok .fill
  | 8, 1 => .ok .evict
  | 8, 2 => .ok .wback
  | 9, 0 => .ok .post
  | _, _ => .error .command

/-- Bits [91:0] of a command word (R147). -/
def cmdBits (op : CmdOp) (f : CmdFields) : BitVec 92 :=
  (((((((f.g.bits ++ f.wsem : BitVec 13) ++ f.wthr : BitVec 29) ++ f.ssem : BitVec 37) ++ f.sinc : BitVec 41)
    ++ (op.codes.1 ++ op.codes.2 : BitVec 8) : BitVec 49) ++ f.cboff : BitVec 60) ++ f.imm : BitVec 92)

/-- A command word's bits [91:0] (R147, R149, R150). -/
def decodeCmd (c : Ctx) (x : BitVec 92) : Except DecodeErr WordF := do
  let op ← decodeCmdOp (x.extractLsb' 47 4) (x.extractLsb' 43 4)
  let f : CmdFields := ⟨decodeGuard (x.extractLsb' 87 5), x.extractLsb' 79 8, x.extractLsb' 63 16,
    x.extractLsb' 55 8, x.extractLsb' 51 4, x.extractLsb' 32 11, x.extractLsb' 0 32⟩
  if op.present c = false then .error .command
  else if cmdWf c op f then .ok (.mc op f)
  else if f.cboff.toNat > 1535 ∨ (op.readsBlock = false ∧ f.cboff ≠ 0) then .error .block
  else .error .immediate

/-- Bits [91:0] of a word (R138). -/
def WordF.body (c : Ctx) : WordF → BitVec 92
  | .mm a b => a.bits c ++ b.bits c
  | .ml g d imm => (((g.bits ++ d.bits c : BitVec 23) ++ 0#5 : BitVec 28) ++ imm : BitVec 92)
  | .mc op f => cmdBits op f
  | .idle n => n ++ 0#76

/-- FMT (R138). -/
def WordF.fmt : WordF → BitVec 3
  | .mm _ _ => 0
  | .ml _ _ _ => 1
  | .mc _ _ => 2
  | .idle _ => 3

/-- A word of 96 bits, with its PAIR bit (R138). -/
def WordF.bits (c : Ctx) (pair : Bool) (w : WordF) : BitVec 96 :=
  ((w.fmt ++ BitVec.ofBool pair : BitVec 4) ++ w.body c : BitVec 96)

/-- The PAIR bit of a word (R138). -/
def pairBit (x : BitVec 96) : Bool := x.getLsbD 92

/-- The word that 96 bits give, PAIR apart (R138). -/
def decodeWord (c : Ctx) (x : BitVec 96) : Except DecodeErr WordF :=
  let y : BitVec 92 := x.extractLsb' 0 92
  match (x.extractLsb' 93 3).toNat with
  | 0 => do
    let a ← decodeMove c (y.extractLsb' 46 46)
    let b ← decodeMove c (y.extractLsb' 0 46)
    .ok (.mm a b)
  | 1 => do
    let d ← decodeDst c (y.extractLsb' 69 18)
    if y.extractLsb' 64 5 = 0 then .ok (.ml (decodeGuard (y.extractLsb' 87 5)) d (y.extractLsb' 0 64))
    else .error .zeroBits
  | 2 => decodeCmd c y
  | 3 =>
    if y.extractLsb' 0 76 ≠ 0 then .error .zeroBits
    else if pairBit x then .error .pairIdle
    else if y.extractLsb' 76 16 = 0 then .error .idleCount
    else .ok (.idle (y.extractLsb' 76 16))
  | _ => .error .format

/-! ### Issue groups -/

/-- An error of a group and whether it lies in the second word (R365). -/
structure GroupErr where
  err : DecodeErr
  second : Bool
deriving DecidableEq, Repr

/-- The issue group that a word and the next word of its section form (R139). `next` is none where
the section ends. The first reserved word in slot order is the one reported; a fault of the pairing
is reported at the word with PAIR = 1 (R365). -/
def decodeGroup (c : Ctx) (x : BitVec 96) (next : Option (BitVec 96)) : Except GroupErr Group :=
  match decodeWord c x with
  | .error e => .error ⟨e, false⟩
  | .ok w0 =>
    if pairBit x then
      match next with
      | none => .error ⟨.pairLast, false⟩
      | some y =>
        if pairBit y then .error ⟨.pairBoth, false⟩
        else
          match decodeWord c y with
          | .error e => .error ⟨e, true⟩
          | .ok w1 =>
            match w0, w1 with
            | _, .idle _ => .error ⟨.pairIdle, false⟩
            | .mc _ _, .mc _ _ => .error ⟨.pairCommands, false⟩
            | _, _ =>
              if triggersDistinct w0.triggers then
                if triggersDistinct (w0.triggers ++ w1.triggers) then .ok ⟨w0, some w1⟩
                else .error ⟨.twoTriggers, true⟩
              else .error ⟨.twoTriggers, false⟩
    else if triggersDistinct w0.triggers then .ok ⟨w0, none⟩
    else .error ⟨.twoTriggers, false⟩

/-- The words of an issue group, the first with PAIR = 1 where there are two (R139). -/
def Group.words (c : Ctx) (g : Group) : List (BitVec 96) :=
  match g.w1 with
  | none => [g.w0.bits c false]
  | some w => [g.w0.bits c true, w.bits c false]

/-- The number of words of an issue group. -/
def Group.len (g : Group) : Nat := if g.w1.isSome then 2 else 1

/-! ### Groups as steps -/

/-- The step of a trigger's row, for a word of that one move. -/
def Instr.ofTrigger (t : Trigger) (g : Guard) (src : Src) : Instr :=
  match t with
  | .brTgt n => .brTgt n g src
  | .brJmp n => .brJmp n g src
  | .brCall n => .brCall n g src
  | .brRet => .brRet g src
  | .brBkt => .brBkt g src
  | .brTrap => .brTrap g src
  | .lpLoop => .lpLoop g src
  | .lpLbrk => .lpLbrk g src
  | .lpLrd sel => .lpLrd sel g src
  | .sySemw => .sySemw g src
  | .sySema => .sySema g src
  | .sySemr => .sySemr g src
  | .syJoin => .syJoin g src
  | .syLock => .syLock g src
  | .syUnlock => .syUnlock g src
  | .syRgn => .syRgn g src
  | .syMark .prt => .syMarkPrt g src
  | .syMark .core => .syMarkCore g src
  | .syMark .clu => .syMarkClu g src
  | .syMark .dev => .syMarkDev g src
  | .syMark .sys => .syMarkSys g src
  | .syRah => .syRah g src
  | .syChk => .syChk g src
  | .syEvt => .syEvt g src
  | .ix u .add w => .ixAdd u w g src
  | .ix u .sub w => .ixSub u w g src
  | .ix u .and w => .ixAnd u w g src
  | .ix u .or w => .ixOr u w g src
  | .ix u .xor w => .ixXor u w g src
  | .ix u .andn w => .ixAndn u w g src
  | .ix u .shl w => .ixShl u w g src
  | .ix u .shr w => .ixShr u w g src
  | .ix u .sar w => .ixSar u w g src
  | .ix u .rol w => .ixRol u w g src
  | .ix u .min w => .ixMin u w g src
  | .ix u .max w => .ixMax u w g src
  | .ix u .minu w => .ixMinu u w g src
  | .ix u .maxu w => .ixMaxu u w g src
  | .ix u .clz w => .ixClz u w g src
  | .ix u .ctz w => .ixCtz u w g src
  | .ix u .popc w => .ixPopc u w g src
  | .ix u .bswap w => .ixBswap u w g src
  | .ix u .bext w => .ixBext u w g src
  | .ix u .bins w => .ixBins u w g src
  | .ix u .sel w => .ixSel u w g src
  | .ix u .mov w => .ixMov u w g src
  | .cmp c w => .cmpCond c w g src
  | .cmpPred .pand => .cmpPand g src
  | .cmpPred .por => .cmpPor g src
  | .cmpPred .pxor => .cmpPxor g src
  | .cmpPred .pandn => .cmpPandn g src
  | .imd .mul w32 => .imdMul w32 g src
  | .imd .mulh w32 => .imdMulh w32 g src
  | .imd .mulhu w32 => .imdMulhu w32 g src
  | .imd .div w32 => .imdDiv w32 g src
  | .imd .divu w32 => .imdDivu w32 g src
  | .imd .rem w32 => .imdRem w32 g src
  | .imd .remu w32 => .imdRemu w32 g src
  | .ksLd u => .ksLd u g src
  | .ksSt u => .ksSt u g src
  | .ksLdx u w => .ksLdx u w g src
  | .ksStx u w => .ksStx u w g src
  | .ksLdb u w => .ksLdb u w g src
  | .va u .add w => .vaAdd u w g src
  | .va u .sub w => .vaSub u w g src
  | .va u .mul w => .vaMul u w g src
  | .va u .mulh w => .vaMulh u w g src
  | .va u .and w => .vaAnd u w g src
  | .va u .or w => .vaOr u w g src
  | .va u .xor w => .vaXor u w g src
  | .va u .andn w => .vaAndn u w g src
  | .va u .shl w => .vaShl u w g src
  | .va u .shr w => .vaShr u w g src
  | .va u .sar w => .vaSar u w g src
  | .va u .min w => .vaMin u w g src
  | .va u .max w => .vaMax u w g src
  | .va u .minu w => .vaMinu u w g src
  | .va u .maxu w => .vaMaxu u w g src
  | .va u .abs w => .vaAbs u w g src
  | .va u .sel w => .vaSel u w g src
  | .va u .popc w => .vaPopc u w g src
  | .va u .clz w => .vaClz u w g src
  | .va u .adds w => .vaAdds u w g src
  | .va u .subs w => .vaSubs u w g src
  | .vp .perm w => .vpPerm w g src
  | .vp .bcast w => .vpBcast w g src
  | .vp .rot w => .vpRot w g src
  | .vp .pack w => .vpPack w g src
  | .vp .unpk w => .vpUnpk w g src
  | .vp .cmprs w => .vpCmprs w g src
  | .vp .redadd w => .vpRedadd w g src
  | .vp .redmax w => .vpRedmax w g src
  | .vp .redmin w => .vpRedmin w g src
  | .vp .scan w => .vpScan w g src
  | .vp .xscan w => .vpXscan w g src
  | .vpF .redadd f => .vpFredadd f g src
  | .vpF .redmax f => .vpFredmax f g src
  | .vpF .redmin f => .vpFredmin f g src
  | .vpClmul w32 => .vpClmul w32 g src
  | .vcCmp c w => .vcCmp c w g src
  | .vcFcmp c f => .vcFcmp c f g src
  | .vcVote .any => .vcAny g src
  | .vcVote .all => .vcAll g src
  | .vcVote .cnt => .vcCnt g src
  | .vcClass f => .vcClass f g src
  | .vf u .add rc f => .vfAdd u rc f g src
  | .vf u .sub rc f => .vfSub u rc f g src
  | .vf u .mul rc f => .vfMul u rc f g src
  | .vf u .fma rc f => .vfFma u rc f g src
  | .vf u .nma rc f => .vfNma u rc f g src
  | .vf u .min rc f => .vfMin u rc f g src
  | .vf u .max rc f => .vfMax u rc f g src
  | .vf u .abs rc f => .vfAbs u rc f g src
  | .vf u .neg rc f => .vfNeg u rc f g src
  | .vf u .rnd rc f => .vfRnd u rc f g src
  | .vfToE8m0 u rc f => .vfCvtE8m0 u rc f g src
  | .vfFromE8m0 u rc => .vfCvtF32E8m0 u rc g src
  | .vfCvt u d s sat r => .vfCvt u d s sat r g src
  | .vx .exp2 rc f => .vxExp2 rc f g src
  | .vx .log2 rc f => .vxLog2 rc f g src
  | .vx .rcp rc f => .vxRcp rc f g src
  | .vx .rsqrt rc f => .vxRsqrt rc f g src
  | .vx .div rc f => .vxDiv rc f g src
  | .vx .sqrt rc f => .vxSqrt rc f g src
  | .vx .sincos rc f => .vxSincos rc f g src
  | .fs .add rc f => .fsAdd rc f g src
  | .fs .sub rc f => .fsSub rc f g src
  | .fs .mul rc f => .fsMul rc f g src
  | .fs .fma rc f => .fsFma rc f g src
  | .fs .min rc f => .fsMin rc f g src
  | .fs .max rc f => .fsMax rc f g src
  | .fsCmp c rc f => .fsFcmp c rc f g src
  | .fsCvt d s sat r => .fsCvt d s sat r g src
  | .fd .div rc => .fdDiv rc g src
  | .fd .sqrt rc => .fdSqrt rc g src
  | .fd .rsqrt rc => .fdRsqrt rc g src
  | .mxBld m => .mxBld m g src
  | .mxBsw m => .mxBsw m g src
  | .mxComp .mma m z => .mxMma m z g src
  | .mxComp .mmt m z => .mxMmt m z g src
  | .mxMcfg m => .mxMcfg m g src
  | .mxComp .mad m z => .mxMad m z g src
  | .kvLoad true d => .kvKvk d g src
  | .kvLoad false d => .kvKvv d g src
  | .kvAp => .kvKvap g src
  | .kvFrq n => .kvKvfrq n g src
  | .pxCsc n => .pxCsc n g src
  | .pxPack p10 => .pxPack p10 g src
  | .gmLd u false z => .gmLd u z g src
  | .gmLd u true z => .gmLdS u z g src
  | .gmSt u z => .gmSt u z g src
  | .gmPref u => .gmPref u g src
  | .gmStSm u z => .gmStSm u z g src
  | .gmLdSm u false z => .gmLdSm u z g src
  | .gmLdSm u true z => .gmLdSmS u z g src
  | .gmAmo u .add w32 => .gmAmoAdd u w32 g src
  | .gmAmo u .and w32 => .gmAmoAnd u w32 g src
  | .gmAmo u .or w32 => .gmAmoOr u w32 g src
  | .gmAmo u .xor w32 => .gmAmoXor u w32 g src
  | .gmAmo u .min w32 => .gmAmoMin u w32 g src
  | .gmAmo u .max w32 => .gmAmoMax u w32 g src
  | .gmAmo u .minu w32 => .gmAmoMinu u w32 g src
  | .gmAmo u .maxu w32 => .gmAmoMaxu u w32 g src
  | .gmAmo u .swap w32 => .gmAmoSwap u w32 g src
  | .gmAmo u .cas w32 => .gmAmoCas u w32 g src
  | .gmAmoFadd u => .gmAmoFadd u g src
  | .gmAmoNib u => .gmAmoNib u g src
  | .rwWalk false => .rwWalk g src
  | .rwWalk true => .rwWalkp g src
  | .tg .look => .tgLook g src
  | .tg .pin => .tgPin g src
  | .tg .unpin => .tgUnpin g src
  | .tg .inval => .tgInval g src
  | .tg .setag => .tgSetag g src

/-- The step of a control register's row, for a word of that one move. -/
def Instr.ofCreg (i : BitVec 12) (g : Guard) (src : Src) : Instr :=
  if i.toNat < 0x100 then .semaWrite (i.setWidth 8) g src
  else if i.toNat < 0x108 then .viewWrite (i.setWidth 3) g src
  else if i = 0x10E then .fpcsrWrite g src
  else .ctrlRegWrite i g src

/-- The step of a command's row. patch.apply has no row of its own for the word: its rows are the
acts of the patch engine. -/
def Instr.ofCmd (op : CmdOp) (f : CmdFields) : Instr :=
  match op with
  | .copy 0 => .hamperCopy1d f
  | .copy 1 => .hamperCopy2d f
  | .copy 2 => .hamperCopy3d f
  | .copyf 0 => .hamperCopyf1d f
  | .copyf 1 => .hamperCopyf2d f
  | .copyf 2 => .hamperCopyf3d f
  | .gath => .gatherGath f
  | .scat => .gatherScat f
  | .cred => .collCred f
  | .cbc => .collCbc f
  | .mq => .mqueueMq f
  | .awalk => .walkerAwalk f
  | .enc => .codecEnc f
  | .dec => .codecDec f
  | .fill => .tagFill f
  | .evict => .tagEvict f
  | .wback => .tagWback f
  | .post => .eventPost f
  | .patch => .mmWord ⟨.mc .patch f, none⟩

/-- The step that an issue group is (log 18): the row of its one trigger, control register or
command, IDLE, NOP or ML, and MM_WORD for every other group. -/
def Instr.ofGroup (g : Group) : Instr :=
  match g.w1, g.w0 with
  | some _, _ => .mmWord g
  | none, .ml gd d imm => .mlWord gd d imm
  | none, .mc op f => Instr.ofCmd op f
  | none, .idle n => .idle n
  | none, .mm a b =>
    if b = Move.empty then
      if a = Move.empty then .nop
      else match a.dst with
        | .trig t => Instr.ofTrigger t a.g a.src
        | .creg i => Instr.ofCreg i a.g a.src
        | _ => .mmWord g
    else .mmWord g

/-- The issue group of one move. -/
def oneMove (g : Guard) (src : Src) (dst : Dst) : Group := ⟨.mm ⟨g, src, dst⟩ Move.empty, none⟩

/-- The issue group of a step that a word names; none for a header and for the steps that no word
names. -/
def Instr.group : Instr → Option Group
  | .mmWord g => some g
  | .mlWord g d imm => some ⟨.ml g d imm, none⟩
  | .idle n => some ⟨.idle n, none⟩
  | .nop => some ⟨.mm Move.empty Move.empty, none⟩
  | .brTgt n g src => some (oneMove g src (.trig (.brTgt n)))
  | .brJmp n g src => some (oneMove g src (.trig (.brJmp n)))
  | .brCall n g src => some (oneMove g src (.trig (.brCall n)))
  | .brRet g src => some (oneMove g src (.trig (.brRet)))
  | .brBkt g src => some (oneMove g src (.trig (.brBkt)))
  | .brTrap g src => some (oneMove g src (.trig (.brTrap)))
  | .lpLoop g src => some (oneMove g src (.trig (.lpLoop)))
  | .lpLbrk g src => some (oneMove g src (.trig (.lpLbrk)))
  | .lpLrd sel g src => some (oneMove g src (.trig (.lpLrd sel)))
  | .sySemw g src => some (oneMove g src (.trig (.sySemw)))
  | .sySema g src => some (oneMove g src (.trig (.sySema)))
  | .sySemr g src => some (oneMove g src (.trig (.sySemr)))
  | .syJoin g src => some (oneMove g src (.trig (.syJoin)))
  | .syLock g src => some (oneMove g src (.trig (.syLock)))
  | .syUnlock g src => some (oneMove g src (.trig (.syUnlock)))
  | .syRgn g src => some (oneMove g src (.trig (.syRgn)))
  | .syMarkPrt g src => some (oneMove g src (.trig (.syMark .prt)))
  | .syMarkCore g src => some (oneMove g src (.trig (.syMark .core)))
  | .syMarkClu g src => some (oneMove g src (.trig (.syMark .clu)))
  | .syMarkDev g src => some (oneMove g src (.trig (.syMark .dev)))
  | .syMarkSys g src => some (oneMove g src (.trig (.syMark .sys)))
  | .syRah g src => some (oneMove g src (.trig (.syRah)))
  | .syChk g src => some (oneMove g src (.trig (.syChk)))
  | .syEvt g src => some (oneMove g src (.trig (.syEvt)))
  | .ixAdd u w g src => some (oneMove g src (.trig (.ix u .add w)))
  | .ixSub u w g src => some (oneMove g src (.trig (.ix u .sub w)))
  | .ixAnd u w g src => some (oneMove g src (.trig (.ix u .and w)))
  | .ixOr u w g src => some (oneMove g src (.trig (.ix u .or w)))
  | .ixXor u w g src => some (oneMove g src (.trig (.ix u .xor w)))
  | .ixAndn u w g src => some (oneMove g src (.trig (.ix u .andn w)))
  | .ixShl u w g src => some (oneMove g src (.trig (.ix u .shl w)))
  | .ixShr u w g src => some (oneMove g src (.trig (.ix u .shr w)))
  | .ixSar u w g src => some (oneMove g src (.trig (.ix u .sar w)))
  | .ixRol u w g src => some (oneMove g src (.trig (.ix u .rol w)))
  | .ixMin u w g src => some (oneMove g src (.trig (.ix u .min w)))
  | .ixMax u w g src => some (oneMove g src (.trig (.ix u .max w)))
  | .ixMinu u w g src => some (oneMove g src (.trig (.ix u .minu w)))
  | .ixMaxu u w g src => some (oneMove g src (.trig (.ix u .maxu w)))
  | .ixClz u w g src => some (oneMove g src (.trig (.ix u .clz w)))
  | .ixCtz u w g src => some (oneMove g src (.trig (.ix u .ctz w)))
  | .ixPopc u w g src => some (oneMove g src (.trig (.ix u .popc w)))
  | .ixBswap u w g src => some (oneMove g src (.trig (.ix u .bswap w)))
  | .ixBext u w g src => some (oneMove g src (.trig (.ix u .bext w)))
  | .ixBins u w g src => some (oneMove g src (.trig (.ix u .bins w)))
  | .ixSel u w g src => some (oneMove g src (.trig (.ix u .sel w)))
  | .ixMov u w g src => some (oneMove g src (.trig (.ix u .mov w)))
  | .cmpCond c w g src => some (oneMove g src (.trig (.cmp c w)))
  | .cmpPand g src => some (oneMove g src (.trig (.cmpPred .pand)))
  | .cmpPor g src => some (oneMove g src (.trig (.cmpPred .por)))
  | .cmpPxor g src => some (oneMove g src (.trig (.cmpPred .pxor)))
  | .cmpPandn g src => some (oneMove g src (.trig (.cmpPred .pandn)))
  | .imdMul w32 g src => some (oneMove g src (.trig (.imd .mul w32)))
  | .imdMulh w32 g src => some (oneMove g src (.trig (.imd .mulh w32)))
  | .imdMulhu w32 g src => some (oneMove g src (.trig (.imd .mulhu w32)))
  | .imdDiv w32 g src => some (oneMove g src (.trig (.imd .div w32)))
  | .imdDivu w32 g src => some (oneMove g src (.trig (.imd .divu w32)))
  | .imdRem w32 g src => some (oneMove g src (.trig (.imd .rem w32)))
  | .imdRemu w32 g src => some (oneMove g src (.trig (.imd .remu w32)))
  | .ksLd u g src => some (oneMove g src (.trig (.ksLd u)))
  | .ksSt u g src => some (oneMove g src (.trig (.ksSt u)))
  | .ksLdx u w g src => some (oneMove g src (.trig (.ksLdx u w)))
  | .ksStx u w g src => some (oneMove g src (.trig (.ksStx u w)))
  | .ksLdb u w g src => some (oneMove g src (.trig (.ksLdb u w)))
  | .vaAdd u w g src => some (oneMove g src (.trig (.va u .add w)))
  | .vaSub u w g src => some (oneMove g src (.trig (.va u .sub w)))
  | .vaMul u w g src => some (oneMove g src (.trig (.va u .mul w)))
  | .vaMulh u w g src => some (oneMove g src (.trig (.va u .mulh w)))
  | .vaAnd u w g src => some (oneMove g src (.trig (.va u .and w)))
  | .vaOr u w g src => some (oneMove g src (.trig (.va u .or w)))
  | .vaXor u w g src => some (oneMove g src (.trig (.va u .xor w)))
  | .vaAndn u w g src => some (oneMove g src (.trig (.va u .andn w)))
  | .vaShl u w g src => some (oneMove g src (.trig (.va u .shl w)))
  | .vaShr u w g src => some (oneMove g src (.trig (.va u .shr w)))
  | .vaSar u w g src => some (oneMove g src (.trig (.va u .sar w)))
  | .vaMin u w g src => some (oneMove g src (.trig (.va u .min w)))
  | .vaMax u w g src => some (oneMove g src (.trig (.va u .max w)))
  | .vaMinu u w g src => some (oneMove g src (.trig (.va u .minu w)))
  | .vaMaxu u w g src => some (oneMove g src (.trig (.va u .maxu w)))
  | .vaAbs u w g src => some (oneMove g src (.trig (.va u .abs w)))
  | .vaSel u w g src => some (oneMove g src (.trig (.va u .sel w)))
  | .vaPopc u w g src => some (oneMove g src (.trig (.va u .popc w)))
  | .vaClz u w g src => some (oneMove g src (.trig (.va u .clz w)))
  | .vaAdds u w g src => some (oneMove g src (.trig (.va u .adds w)))
  | .vaSubs u w g src => some (oneMove g src (.trig (.va u .subs w)))
  | .vpPerm w g src => some (oneMove g src (.trig (.vp .perm w)))
  | .vpBcast w g src => some (oneMove g src (.trig (.vp .bcast w)))
  | .vpRot w g src => some (oneMove g src (.trig (.vp .rot w)))
  | .vpPack w g src => some (oneMove g src (.trig (.vp .pack w)))
  | .vpUnpk w g src => some (oneMove g src (.trig (.vp .unpk w)))
  | .vpCmprs w g src => some (oneMove g src (.trig (.vp .cmprs w)))
  | .vpRedadd w g src => some (oneMove g src (.trig (.vp .redadd w)))
  | .vpRedmax w g src => some (oneMove g src (.trig (.vp .redmax w)))
  | .vpRedmin w g src => some (oneMove g src (.trig (.vp .redmin w)))
  | .vpScan w g src => some (oneMove g src (.trig (.vp .scan w)))
  | .vpXscan w g src => some (oneMove g src (.trig (.vp .xscan w)))
  | .vpFredadd f g src => some (oneMove g src (.trig (.vpF .redadd f)))
  | .vpFredmax f g src => some (oneMove g src (.trig (.vpF .redmax f)))
  | .vpFredmin f g src => some (oneMove g src (.trig (.vpF .redmin f)))
  | .vpClmul w32 g src => some (oneMove g src (.trig (.vpClmul w32)))
  | .vcCmp c w g src => some (oneMove g src (.trig (.vcCmp c w)))
  | .vcFcmp c f g src => some (oneMove g src (.trig (.vcFcmp c f)))
  | .vcAny g src => some (oneMove g src (.trig (.vcVote .any)))
  | .vcAll g src => some (oneMove g src (.trig (.vcVote .all)))
  | .vcCnt g src => some (oneMove g src (.trig (.vcVote .cnt)))
  | .vcClass f g src => some (oneMove g src (.trig (.vcClass f)))
  | .vfAdd u rc f g src => some (oneMove g src (.trig (.vf u .add rc f)))
  | .vfSub u rc f g src => some (oneMove g src (.trig (.vf u .sub rc f)))
  | .vfMul u rc f g src => some (oneMove g src (.trig (.vf u .mul rc f)))
  | .vfFma u rc f g src => some (oneMove g src (.trig (.vf u .fma rc f)))
  | .vfNma u rc f g src => some (oneMove g src (.trig (.vf u .nma rc f)))
  | .vfMin u rc f g src => some (oneMove g src (.trig (.vf u .min rc f)))
  | .vfMax u rc f g src => some (oneMove g src (.trig (.vf u .max rc f)))
  | .vfAbs u rc f g src => some (oneMove g src (.trig (.vf u .abs rc f)))
  | .vfNeg u rc f g src => some (oneMove g src (.trig (.vf u .neg rc f)))
  | .vfRnd u rc f g src => some (oneMove g src (.trig (.vf u .rnd rc f)))
  | .vfCvtE8m0 u rc f g src => some (oneMove g src (.trig (.vfToE8m0 u rc f)))
  | .vfCvtF32E8m0 u rc g src => some (oneMove g src (.trig (.vfFromE8m0 u rc)))
  | .vfCvt u d s sat r g src => some (oneMove g src (.trig (.vfCvt u d s sat r)))
  | .vxExp2 rc f g src => some (oneMove g src (.trig (.vx .exp2 rc f)))
  | .vxLog2 rc f g src => some (oneMove g src (.trig (.vx .log2 rc f)))
  | .vxRcp rc f g src => some (oneMove g src (.trig (.vx .rcp rc f)))
  | .vxRsqrt rc f g src => some (oneMove g src (.trig (.vx .rsqrt rc f)))
  | .vxDiv rc f g src => some (oneMove g src (.trig (.vx .div rc f)))
  | .vxSqrt rc f g src => some (oneMove g src (.trig (.vx .sqrt rc f)))
  | .vxSincos rc f g src => some (oneMove g src (.trig (.vx .sincos rc f)))
  | .fsAdd rc f g src => some (oneMove g src (.trig (.fs .add rc f)))
  | .fsSub rc f g src => some (oneMove g src (.trig (.fs .sub rc f)))
  | .fsMul rc f g src => some (oneMove g src (.trig (.fs .mul rc f)))
  | .fsFma rc f g src => some (oneMove g src (.trig (.fs .fma rc f)))
  | .fsMin rc f g src => some (oneMove g src (.trig (.fs .min rc f)))
  | .fsMax rc f g src => some (oneMove g src (.trig (.fs .max rc f)))
  | .fsFcmp c rc f g src => some (oneMove g src (.trig (.fsCmp c rc f)))
  | .fsCvt d s sat r g src => some (oneMove g src (.trig (.fsCvt d s sat r)))
  | .fdDiv rc g src => some (oneMove g src (.trig (.fd .div rc)))
  | .fdSqrt rc g src => some (oneMove g src (.trig (.fd .sqrt rc)))
  | .fdRsqrt rc g src => some (oneMove g src (.trig (.fd .rsqrt rc)))
  | .mxBld m g src => some (oneMove g src (.trig (.mxBld m)))
  | .mxBsw m g src => some (oneMove g src (.trig (.mxBsw m)))
  | .mxMma m z g src => some (oneMove g src (.trig (.mxComp .mma m z)))
  | .mxMmt m z g src => some (oneMove g src (.trig (.mxComp .mmt m z)))
  | .mxMcfg m g src => some (oneMove g src (.trig (.mxMcfg m)))
  | .mxMad m z g src => some (oneMove g src (.trig (.mxComp .mad m z)))
  | .kvKvk d g src => some (oneMove g src (.trig (.kvLoad true d)))
  | .kvKvv d g src => some (oneMove g src (.trig (.kvLoad false d)))
  | .kvKvap g src => some (oneMove g src (.trig (.kvAp)))
  | .kvKvfrq n g src => some (oneMove g src (.trig (.kvFrq n)))
  | .pxCsc n g src => some (oneMove g src (.trig (.pxCsc n)))
  | .pxPack p10 g src => some (oneMove g src (.trig (.pxPack p10)))
  | .gmLd u z g src => some (oneMove g src (.trig (.gmLd u false z)))
  | .gmLdS u z g src => some (oneMove g src (.trig (.gmLd u true z)))
  | .gmSt u z g src => some (oneMove g src (.trig (.gmSt u z)))
  | .gmPref u g src => some (oneMove g src (.trig (.gmPref u)))
  | .gmStSm u z g src => some (oneMove g src (.trig (.gmStSm u z)))
  | .gmLdSm u z g src => some (oneMove g src (.trig (.gmLdSm u false z)))
  | .gmLdSmS u z g src => some (oneMove g src (.trig (.gmLdSm u true z)))
  | .gmAmoAdd u w32 g src => some (oneMove g src (.trig (.gmAmo u .add w32)))
  | .gmAmoAnd u w32 g src => some (oneMove g src (.trig (.gmAmo u .and w32)))
  | .gmAmoOr u w32 g src => some (oneMove g src (.trig (.gmAmo u .or w32)))
  | .gmAmoXor u w32 g src => some (oneMove g src (.trig (.gmAmo u .xor w32)))
  | .gmAmoMin u w32 g src => some (oneMove g src (.trig (.gmAmo u .min w32)))
  | .gmAmoMax u w32 g src => some (oneMove g src (.trig (.gmAmo u .max w32)))
  | .gmAmoMinu u w32 g src => some (oneMove g src (.trig (.gmAmo u .minu w32)))
  | .gmAmoMaxu u w32 g src => some (oneMove g src (.trig (.gmAmo u .maxu w32)))
  | .gmAmoSwap u w32 g src => some (oneMove g src (.trig (.gmAmo u .swap w32)))
  | .gmAmoCas u w32 g src => some (oneMove g src (.trig (.gmAmo u .cas w32)))
  | .gmAmoFadd u g src => some (oneMove g src (.trig (.gmAmoFadd u)))
  | .gmAmoNib u g src => some (oneMove g src (.trig (.gmAmoNib u)))
  | .rwWalk g src => some (oneMove g src (.trig (.rwWalk false)))
  | .rwWalkp g src => some (oneMove g src (.trig (.rwWalk true)))
  | .tgLook g src => some (oneMove g src (.trig (.tg .look)))
  | .tgPin g src => some (oneMove g src (.trig (.tg .pin)))
  | .tgUnpin g src => some (oneMove g src (.trig (.tg .unpin)))
  | .tgInval g src => some (oneMove g src (.trig (.tg .inval)))
  | .tgSetag g src => some (oneMove g src (.trig (.tg .setag)))
  | .hamperCopy1d f => some ⟨.mc (.copy 0) f, none⟩
  | .hamperCopy2d f => some ⟨.mc (.copy 1) f, none⟩
  | .hamperCopy3d f => some ⟨.mc (.copy 2) f, none⟩
  | .hamperCopyf1d f => some ⟨.mc (.copyf 0) f, none⟩
  | .hamperCopyf2d f => some ⟨.mc (.copyf 1) f, none⟩
  | .hamperCopyf3d f => some ⟨.mc (.copyf 2) f, none⟩
  | .gatherGath f => some ⟨.mc (.gath) f, none⟩
  | .gatherScat f => some ⟨.mc (.scat) f, none⟩
  | .collCred f => some ⟨.mc (.cred) f, none⟩
  | .collCbc f => some ⟨.mc (.cbc) f, none⟩
  | .mqueueMq f => some ⟨.mc (.mq) f, none⟩
  | .walkerAwalk f => some ⟨.mc (.awalk) f, none⟩
  | .codecEnc f => some ⟨.mc (.enc) f, none⟩
  | .codecDec f => some ⟨.mc (.dec) f, none⟩
  | .tagFill f => some ⟨.mc (.fill) f, none⟩
  | .tagEvict f => some ⟨.mc (.evict) f, none⟩
  | .tagWback f => some ⟨.mc (.wback) f, none⟩
  | .eventPost f => some ⟨.mc (.post) f, none⟩
  | .semaWrite n g src => some (oneMove g src (.creg (n.setWidth 12)))
  | .viewWrite v g src => some (oneMove g src (.creg (0x100#12 ||| v.setWidth 12)))
  | .fpcsrWrite g src => some (oneMove g src (.creg 0x10E))
  | .ctrlRegWrite i g src => some (oneMove g src (.creg i))
  | _ => none

/-- The static checks of a step that a word or a header names. A group has one step only, so a
group that has a row of its own is not a well-formed MM_WORD. -/
def Instr.wf (c : Ctx) (i : Instr) : Bool :=
  match i with
  | .sectionHeader len _ _ => len != 0
  | i =>
    match i.group with
    | some g => g.wf c && decide (Instr.ofGroup g = i)
    | none => false

/-! ### Section headers -/

/-- A section header as 64 bits (R152). -/
def headerBits (len : BitVec 9) (mask : BitVec 11) (wait : BitVec 44) : BitVec 64 :=
  ((len ++ mask : BitVec 20) ++ wait : BitVec 64)

/-- A header; LEN = 0 is refused (R152, R367). -/
def decodeHeader (x : BitVec 64) : Except DecodeErr Instr :=
  if x.extractLsb' 55 9 = 0 then .error .header
  else .ok (.sectionHeader (x.extractLsb' 55 9) (x.extractLsb' 44 11) (x.extractLsb' 0 44))

/-! ### The whole -/

/-- The step that words give: one word, or two with PAIR in the first. -/
def decodeWords (c : Ctx) (ws : List (BitVec 96)) : Except DecodeErr Instr :=
  let group (x : BitVec 96) (next : Option (BitVec 96)) : Except DecodeErr Instr :=
    match decodeGroup c x next with
    | .ok g => .ok (Instr.ofGroup g)
    | .error e => .error e.err
  match ws with
  | [x] => group x none
  | [x, y] => if pairBit x then group x (some y) else .error .notAGroup
  | _ => .error .notAGroup

/-- The words of a step that a word names. -/
def encode (c : Ctx) (i : Instr) : List (BitVec 96) :=
  match i.group with
  | some g => g.words c
  | none => []

/-- The parcels of a word, lowest address first (R9, R138). -/
def wordParcels (x : BitVec 96) : List (BitVec 32) :=
  [x.extractLsb' 0 32, x.extractLsb' 32 32, x.extractLsb' 64 32]

/-- The word of three parcels (R9, R138). -/
def wordOf (a b d : BitVec 32) : BitVec 96 := (d ++ b : BitVec 64) ++ a

/-- The parcels of a header, lowest address first (R9, R152). -/
def headerParcels (x : BitVec 64) : List (BitVec 32) := [x.extractLsb' 0 32, x.extractLsb' 32 32]

/-- The parcels of a step: of its header or of its words. -/
def encodeParcels (c : Ctx) (i : Instr) : List (BitVec 32) :=
  match i with
  | .sectionHeader len mask wait => headerParcels (headerBits len mask wait)
  | i => (encode c i).flatMap wordParcels

/-- The step that a whole list of parcels gives: a header of two, a word of three or a pair of six. -/
def decodeParcels (c : Ctx) (ps : List (BitVec 32)) : Except DecodeErr Instr :=
  match ps with
  | [a, b] => decodeHeader (b ++ a)
  | [a, b, d] => decodeWords c [wordOf a b d]
  | [a, b, d, e, f, g] => decodeWords c [wordOf a b d, wordOf e f g]
  | _ => .error .notAGroup

/-- The kinds of partition, in the order in which a word without a partition is tried. -/
def allCtxs : List Ctx :=
  [⟨.ctl, false, true⟩, ⟨.vec, false, true⟩, ⟨.mat, false, true⟩, ⟨.mem, false, true⟩,
    ⟨.ctl, true, false⟩, ⟨.vec, true, false⟩, ⟨.mat, true, false⟩, ⟨.mem, true, false⟩]

/-- The parcels of an instruction whose first nbits bits are w, the bits above them zero: a header of
two parcels, a word of three, or a pair of six. Nothing shorter than two parcels is an instruction. -/
def tableParcels (nbits w : Nat) : List (BitVec 32) :=
  let n := if nbits ≤ 64 then 2 else if nbits ≤ 96 then 3 else 6
  (List.range n).map fun i => BitVec.ofNat 32 (w / 2 ^ (32 * i))

/-- The decoder's answer for an instruction numbered as the opcode table numbers its bits: bit 0 is
the lowest bit of the first parcel. The table's rows of this hardware carry no bits; the word is read
in the first kind of partition that accepts it. -/
def decodeTableWord (nbits w : Nat) : Option Instr :=
  allCtxs.findSome? fun c => (decodeParcels c (tableParcels nbits w)).toOption

end Sys2Proof
end

