-- ==== Sys2Proof/Machine/State.lean ====
section
/-! DEFINITION. The state of the HV-3: every register, memory, queue and status bit that the manual
gives the part, as plain data, and the state right after reset. -/

namespace Sys2Proof.Machine

/-! ### Values -/

/-- A value in a latch, an operand port, an operand-file entry or an exchange slot, with its poison
bit (R351). Values narrower than 1 KiB stand in the low bytes. With `reg` the poisoned value was read from
the register space, and its poison word reads CAUSE REG whatever its bytes are (R352, R420). -/
structure Slot where
  bits : Wide
  psn : Bool
  reg : Bool
deriving DecidableEq, Repr

/-- The value of a slot that nothing has written (R32, R57, R73). -/
def Slot.zero : Slot := ⟨0, false, false⟩

/-- The operand ports and result latches of one unit (R56). For mx the latches stand in the macros
and only the ports are used here (R226, R348). -/
structure UnitRegs where
  o1 : Slot
  o2 : Slot
  o3 : Slot
  res : Slot
  res1 : Slot
  flag : Slot
deriving DecidableEq, Repr

/-- Ports and latches at the start of a fresh job (R32, R57). -/
def UnitRegs.zero : UnitRegs := ⟨.zero, .zero, .zero, .zero, .zero, .zero⟩

/-! ### Results in flight -/

/-- What a result does at landing beside writing latches (R232, R240, R241). -/
inductive FlyEffect where
  | none
  /-- mx bld: plane, block J, BFMT, the 8,192 bytes of cells, the 1,024 bytes of eq, poison. -/
  | bld (plane : Bool) (j : BitVec 3) (fmt : BitVec 4) (cells eq : List Byte) (psn : Bool)
  /-- kv kvap: key and value addresses and rows. -/
  | kvap (ka va : BitVec 20) (key val : List Byte)
  /-- kv kvfrq: table and its 512 bytes. -/
  | kvfrq (n : BitVec 2) (data : List Byte)
deriving DecidableEq, Repr

/-- A result that has not landed (R61, R64, R345, R350). -/
structure Fly where
  /-- Order of triggers in the core. -/
  seq : Nat
  unit : UnitName
  mac : BitVec 3
  /-- Issue cycles, or SCNT steps, until the result is due (REM). -/
  rem : Nat
  /-- Scoreboarded: gm and rw (SB). -/
  sb : Bool
  /-- The data or poison of a scoreboarded access has returned. -/
  ready : Bool
  res : Option Slot
  res1 : Option Slot
  flag : Option Slot
  /-- Flags raised in FPCSR at landing (R94): NX, UF, OF, DZ, NV in bits 4 to 0. -/
  fpf : BitVec 5
  eff : FlyEffect
  /-- The section in which the trigger issued (R37). -/
  sec : Nat
deriving DecidableEq, Repr

/-- An exchange that has not landed (R73, R53). -/
structure Exchange where
  snd : Nat
  rcv : Nat
  slot : BitVec 3
  val : Slot
  rem : Nat
  /-- Sender and receiver were members of one locked group, so `rem` counts SCNT steps. -/
  locked : Bool
deriving DecidableEq, Repr

/-! ### The queues of a partition -/

/-- The outcome of a walk (R242): descriptor IA, KVPOS value, page index and slot, PLIST; a STATUS; or a read that
waits, at an IA. -/
inductive WalkOut where
  | ok (desc : Addr) (kvpos : Word) (j slot : Nat) (plist : Addr)
  | bad (st : Nat)
  | wait (ia : Addr)
deriving DecidableEq, Repr

/-- What a queue entry of a partition does (R220, R242, R267, R273). -/
inductive MemKind where
  | load (spec : Bool)
  | store
  | amo
  | walk (pref : Bool)
  | mark (s : Scope)
  /-- The place of a command in the store-queue order: the engine operation it forks. -/
  | fork (op : Nat)
deriving DecidableEq, Repr

/-- An entry of a partition's load queue or store queue, in queue order (R264). -/
structure MemOp where
  id : Nat
  kind : MemKind
  unit : UnitName
  /-- Trigger opcode and modifier (R162). -/
  opc : BitVec 8
  md : BitVec 2
  /-- The nibble select t[48] (R214). -/
  nib : Bool
  va : Addr
  ia : Addr
  size : Nat
  /-- Status of R247 of a fault at the FTB; 0 none. -/
  fault : BitVec 8
  /-- o1 and o2 as sampled at the trigger; for a walk the position. -/
  a : Wide
  b : Word
  l1p : BitVec 2
  /-- Held at a home for a MOVING page (R115). -/
  held : Bool
  /-- The section in which it issued (R37). -/
  sec : Nat
  /-- It waits in the mesh for a home that holds 64 requests (R390). -/
  mesh : Bool
  /-- A store that has supplied a load of its partition before it is performed (R265, R280). -/
  seen : Bool
deriving DecidableEq, Repr

/-! ### Control state of a partition -/

/-- A section that has opened and not retired, oldest first (R37, R187). -/
structure OpenSec where
  no : Nat
  /-- Its last word has issued. -/
  done : Bool
  /-- The header that follows it: the parsed next one, or a transfer's target. -/
  next : Pc
deriving DecidableEq, Repr

/-- A transfer whose delay is running (R175). -/
structure Transfer where
  target : Pc
  delay : Nat
deriving DecidableEq, Repr

/-- The loop engine (R180, R183). -/
structure LoopState where
  active : Bool
  n : BitVec 32
  j : BitVec 33
  ibase : BitVec 32
  nst : BitVec 32
  len : BitVec 9
  stages : BitVec 4
  body : Pc
  /-- Words of the current pass already issued. -/
  issued : Nat
deriving DecidableEq, Repr

/-- A loop engine that is idle. -/
def LoopState.zero : LoopState := ⟨false, 0, 0, 0, 0, 0, 0, 0, 0⟩

/-- A trap that has been taken (R342, R343). -/
structure TrapInfo where
  cause : BitVec 8
  info1 : Word
  info2 : Word
  pc : Pc
deriving DecidableEq, Repr

/-- The return-stack spill access of a call or ret (R176): not begun, wanted, read with SCOUNT known and its
writes still to make (of a ret, `x` is the entry that has been read), done with a value, or failed. -/
inductive Spill where
  | idle
  | wanted (push : Bool) (x : BitVec 15)
  | counted (push : Bool) (x : BitVec 15) (sc : Nat)
  | donePush
  | donePop (x : BitVec 15)
  | failed (info1 info2 : Word)
deriving DecidableEq, Repr

/-- How a partition stopped at a pre-emption (R50). -/
inductive StopKind where
  | boundary | loop | wait | joined | frozen | hard | rendezvous
deriving DecidableEq, Repr

/-- One partition (R19): the state of its stream. -/
structure Partition where
  started : Bool
  joined : Bool
  /-- Index of the next parcel that the partition reads. -/
  pc : Pc
  /-- The next parcel is of a word: words left in the section. 0: a header is read next. -/
  left : Nat
  /-- Sections opened and not retired, oldest first, and the number the next one takes. -/
  secs : List OpenSec
  secNo : Nat
  preds : BitVec 16
  predPsn : BitVec 16
  ofile : List Slot
  xi : List Slot
  units : List UnitRegs
  fly : List Fly
  views : List Word
  bt : List Pc
  rgnPc : Pc
  rgnWrem : BitVec 9
  /-- Section of the last region entry issued (R187). -/
  rgnSec : Nat
  rah : Pc
  /-- FPCSR: rounding mode and sticky flags NX, UF, OF, DZ, NV (R93). -/
  rm : BitVec 2
  fpf : BitVec 5
  lcol : Bool
  xcol : Bool
  padv : Word
  mxpad : Word
  kvpad : Word
  kvpos : Word
  /-- Return stack, entry 0 the oldest (R176). -/
  stack : List (BitVec 15)
  spill : Spill
  loop : LoopState
  transfer : Option Transfer
  /-- The target, as a parcel index, of a transfer that goes beyond every store: a header there is a FETCH trap
  (R375, R378). -/
  far : Option (BitVec 16)
  /-- Cycles of an IDLE word still to pass (R151). -/
  idle : Nat
  trap : Option TrapInfo
  /-- The code of a br.trap that has taken effect; its trap is taken at the next group (R178). -/
  swtrap : Option (BitVec 16)
  stop : Option StopKind
  /-- The partition did not issue in its last turn (R42), and the macros whose refusals alone kept it
  from issuing (R228). -/
  stalled : Bool
  refused : BitVec 8
  /-- Handoff port on which it waits, and for how many ACLK (R408). -/
  qwait : Option (Nat × Nat)
  /-- A probe token has been sent in this wait. -/
  probed : Bool
  /-- Load queue and store queue, one list in queue order (R220, R264). -/
  mops : List MemOp
  /-- Ports to which stores of the partition have been forwarded since its last mark.sys (R267). -/
  fwd : BitVec 4
  /-- kv frequency tables 0 to 3, 512 bytes each, table n at 512 n (R125, R241). -/
  freq : List Host.Cell
  /-- Instruction store, SLEN and where the stream came from (R20, R29). -/
  store : List (BitVec 32)
  slen : Nat
  entry : Pc
  /-- Parcels with a parity error, being reloaded (R385 code 0x03). -/
  badParcels : List Nat
deriving DecidableEq, Repr

/-- A request of its queues waits in the mesh (R390). -/
def Partition.meshWait (q : Partition) : Bool := q.mops.any fun o => o.mesh

/-- A partition that no job has started. -/
def Partition.empty : Partition where
  started := false
  joined := false
  pc := 0
  left := 0
  secs := []
  secNo := 0
  preds := 1
  predPsn := 0
  ofile := List.replicate 8 .zero
  xi := List.replicate 8 .zero
  units := List.replicate 25 .zero
  fly := []
  views := List.replicate 8 0
  bt := List.replicate 4 0
  rgnPc := 0
  rgnWrem := 0
  rgnSec := 0
  rah := 0
  rm := 0
  fpf := 0
  lcol := false
  xcol := false
  padv := 0
  mxpad := 0
  kvpad := 0
  kvpos := 0
  stack := []
  spill := .idle
  loop := .zero
  transfer := none
  far := none
  idle := 0
  trap := none
  swtrap := none
  stop := none
  stalled := false
  refused := 0
  qwait := none
  probed := false
  mops := []
  fwd := 0
  freq := []
  store := []
  slen := 0
  entry := 0
  badParcels := []

/-! ### The storage that partitions share -/

/-- A semaphore (R40). -/
structure Sema where
  val : BitVec 16
  ovf : Bool
deriving DecidableEq, Repr

/-- A core-store tag entry (R118). `hit` records that a ks store or a kvap write reached the slot
since the tag-engine operation on it began (R119). -/
structure TagEntry where
  v : Bool
  pin : Bool
  dirty : Bool
  busy : Bool
  tag : BitVec 32
  hit : Bool
deriving DecidableEq, Repr

/-- A slot that is not in use. -/
def TagEntry.zero : TagEntry := ⟨false, false, false, false, 0, false⟩

/-- A plane of a macro (R226): BFMT, 256 x 256 cells with cell (k, c) at 256 k + c, and eq of block j
and column n as two bytes at 2 (512 j + n). -/
structure Plane where
  fmt : BitVec 4
  cells : List Host.Cell
  eq : List Host.Cell
deriving DecidableEq, Repr

/-- A remaining acceptance interval and the partition whose cycles count it (R228). -/
structure Interval where
  /-- The interval has not elapsed. -/
  on : Bool
  left : Nat
  prt : Nat
deriving DecidableEq, Repr

/-- A CIM macro (R226). -/
structure Cim where
  cfg : Word
  p0 : Plane
  p1 : Plane
  act : Bool
  /-- Poison bit of plane p, block j, at bit 8 p + j (R349). -/
  pblk : BitVec 16
  res : Slot
  res1 : Slot
  flag : Slot
  ivl : Interval
  bivl : Interval
  /-- The queued matrix operation that holds the macro (R252). -/
  holder : Option Nat
deriving DecidableEq, Repr

/-- A macro at the start of a fresh job (R226). -/
def Cim.zero : Cim :=
  ⟨0, ⟨0, [], []⟩, ⟨0, [], []⟩, false, 0, .zero, .zero, .zero, ⟨false, 0, 0⟩, ⟨false, 0, 0⟩, none⟩

/-- A record of 32 bytes (R41, R246, R344, R384). -/
structure EvRec where
  dw0 : Word
  dw1 : Word
  dw2 : Word
  dw3 : Word
deriving DecidableEq, Repr

/-- An FTB entry (R101). -/
structure FtbEntry where
  vabase : Word
  valimit : Word
  iabase : Word
  attr : Word
deriving DecidableEq, Repr

/-- What the twelve partitions of a core share. -/
structure Shared where
  /-- Register space and its poison bits: a byte listed as 1 is poisoned (R68, R351). -/
  reg : List Host.Cell
  regPsn : List Host.Cell
  /-- Core store, and its poisoned 16-byte pieces by piece number (R118, R386). -/
  cs : List Host.Cell
  csPsn : List Host.Cell
  /-- Tag entries of the slots that are not zero, in slot order (R118). -/
  tags : List (Nat × TagEntry)
  sema : List Sema
  rsc : List (BitVec 32)
  cims : List Cim
  evq : List EvRec
  evLost : BitVec 8
  evOvf : Bool
  ftb : List FtbEntry
  fillptr : Nat
  gap : List (BitVec 16)
  scnt : Word
deriving DecidableEq, Repr

/-- Shared storage with nothing written. -/
def Shared.empty : Shared where
  reg := []
  regPsn := []
  cs := []
  csPsn := []
  tags := []
  sema := List.replicate 256 ⟨0, false⟩
  rsc := List.replicate 12 0
  cims := List.replicate 8 .zero
  evq := []
  evLost := 0
  evOvf := false
  ftb := List.replicate 128 ⟨0, 0, 0, 0⟩
  fillptr := 16
  gap := List.replicate 16 0
  scnt := 0

/-! ### Engines -/

/-- How far an engine operation has come (R245, R248 to R260). -/
inductive OpPhase where
  | queued | running | released | copied
deriving DecidableEq, Repr

/-- An engine operation (R148, R245). -/
structure EngineOp where
  id : Nat
  op : CmdOp
  prt : Nat
  job : BitVec 32
  fields : CmdFields
  /-- The command block as copied at issue (R148), and for copyf the follow-on block (R249). -/
  block : List Byte
  block2 : List Byte
  /-- Register-space bytes read at issue: gather indices (R250). -/
  sampled : List Byte
  mxpad : Word
  /-- Every earlier store of the issuer has been performed (R273). -/
  forked : Bool
  phase : OpPhase
  /-- Results held from sources-released to completion (R253): bytes for the accumulators. -/
  outs : List Byte
  /-- The flags OF and NV that an mq raises in its issuer's FPCSR (R95, R252). -/
  fl : BitVec 5
  /-- A copyf whose follow-on this mq is, and STATUS, VAL1, VAL2 so far. -/
  parent : Option Nat
  status : BitVec 8
  val1 : Word
  val2 : Word
  /-- Entries of hq14 and hq15 popped so far by an enc (R257). -/
  luma : List Wide
  chroma : List Wide
  /-- The IA of a fill's line, from its start on (R259). -/
  ia : Addr
  /-- The FTB and the descriptor of its job, when that has been saved or ended while the operation goes
  on (R301). -/
  left : Option (List FtbEntry × List Word)
deriving DecidableEq, Repr

/-- A run-ahead helper (R46). -/
structure Helper where
  pc : Pc
  issued : Nat
  preds : BitVec 16
  predPsn : BitVec 16
  ofile : List Slot
  units : List UnitRegs
  fly : List Fly
  idle : Nat
  /-- It has died, and the stall that spawned it goes on. -/
  dead : Bool
deriving DecidableEq, Repr

/-- An FTB miss that waits for its refill (R103): the partition that missed, the further ones that missed on the same
page since (R104), the VA and the kind of the access. -/
structure Refill where
  prt : Nat
  also : List Nat
  va : Addr
  kind : AccKind
deriving DecidableEq, Repr

/-- A control-register write of a semaphore in the present ACLK (R40). -/
structure SemaWr where
  n : Nat
  prt : Nat
  val : BitVec 16
  clr : Bool
deriving DecidableEq, Repr

/-- A tg operation of the present ACLK (R223, R224). -/
structure TagWr where
  slot : Nat
  op : TgOp
  entry : Word
deriving DecidableEq, Repr

/-- Where a core's job stands (R31, R33, R48). -/
inductive JobPhase where
  | launching | running | preempting | hardStop | ending
deriving DecidableEq, Repr

/-- The job of a core: its descriptor (R29) and what the scheduler holds of it. -/
structure Job where
  /-- DW0 to DW23. -/
  desc : List Word
  phase : JobPhase
  /-- Task-graph instance and node (R289); rank within the gang is DW0 GRK. -/
  inst : Nat
  node : Nat
  /-- IA of the Rucksack window (FTB entry 14, R285). -/
  ria : Addr
  /-- The 16 pinned relocation records that the scheduler has built (R285). -/
  reloc : List FtbEntry
  /-- SCHTNOW at which pre-emption was requested (R49). -/
  since : Word
deriving DecidableEq, Repr

/-- One core (R19, R20). -/
structure Core where
  /-- Storage as it stands, and as it stood at the start of the present ACLK (R68). -/
  sh : Shared
  sh0 : Shared
  prts : List Partition
  /-- Adds and control-register writes of semaphores of the present ACLK (R40). -/
  semAdds : List (Nat × Int)
  semWrs : List SemaWr
  tagWrs : List TagWr
  /-- bkt writes of the present ACLK: PADV, MXPAD and KVPAD fields (R177). -/
  bktWr : Option (Word × Word × Word)
  xfly : List Exchange
  /-- The next step of the locked group is cancelled (R361). -/
  cancel : Bool
  /-- Members of the locked group, the pending mask and the members that wait (R43, R374). -/
  locked : BitVec 12
  lpend : BitVec 12
  lwait : BitVec 12
  /-- Members that leave the group at the end of the step (R44). -/
  lleave : BitVec 12
  /-- The step of the present ACLK goes on: SCNT is not frozen (R45). -/
  lockGo : Bool
  /-- kvap rows that landed at the start of the present ACLK and are written in it (R240). -/
  late : List (BitVec 20 × List Byte)
  /-- Macros that mat0 has triggered in the present ACLK (R228). -/
  mxUsed : BitVec 8
  /-- mx results and exchanges in flight at the start of the present ACLK: what a pending bit tells (R362). -/
  mxFly0 : List Fly
  xfly0 : List Exchange
  /-- Number of the next trigger. -/
  seq : Nat
  refill : Option Refill
  /-- Refills that failed: the partition, the VA, and the status of R247 that its access takes (R103). -/
  refillFault : List (Nat × Addr × BitVec 8)
  /-- L1 lines: address of the line and its 128 bytes, oldest first (R116). -/
  l1 : List (Nat × BitVec 1024)
  /-- Lines of the L1 that a load of the core has passed by and found newer; they serve no load (R280). -/
  l1Old : List Nat
  /-- Prefetches that have issued and not been served (R218): IA and L1 policy. -/
  prefs : List (Addr × BitVec 2)
  ops : List EngineOp
  opId : Nat
  /-- Ports to which writes of the job's engines have been forwarded (R279, R306). -/
  engFwd : BitVec 4
  /-- ACLK since the last start on each engine code (R318); counts up to 65,535. -/
  paceAge : List Nat
  /-- Trap records that wait for room (R344). -/
  trapOut : List EvRec
  helper : Option Helper
  job : Option Job
  evseq : BitVec 32
  /-- Valid retry-ring entries of the job (R355). -/
  ringValid : Nat
  /-- Debug pending-bit mode, sampled at job start (R362). -/
  dbg : Bool
  /-- The last refill loaded FTB entries 0 to 15 anew while partitions stalled (R385 code 0x06). -/
  ftbReload : Bool
deriving DecidableEq, Repr

/-- A core without a job. -/
def Core.empty : Core where
  sh := .empty
  sh0 := .empty
  prts := List.replicate 12 .empty
  semAdds := []
  semWrs := []
  tagWrs := []
  bktWr := none
  xfly := []
  cancel := false
  locked := 0
  lpend := 0
  lwait := 0
  lleave := 0
  lockGo := false
  late := []
  mxUsed := 0
  mxFly0 := []
  xfly0 := []
  seq := 0
  refill := none
  refillFault := []
  l1 := []
  l1Old := []
  prefs := []
  ops := []
  opId := 0
  engFwd := 0
  paceAge := List.replicate 16 65535
  trapOut := []
  helper := none
  job := none
  evseq := 0
  ringValid := 0
  dbg := false
  ftbReload := false

/-! ### Clusters -/

/-- An entry of a handoff queue: 128 bytes, the FCLK from its push to the one whose turns come next, and whether the
reader sees it (R75). -/
structure HqEntry where
  data : BitVec 1024
  age : Nat
  vis : Bool
deriving DecidableEq, Repr

/-- A handoff queue (R25, R409): its entries, oldest first, its reserve entry, and the frame that
holds it (R301). -/
structure Handoff where
  ents : List HqEntry
  reserve : Bool
  granted : Bool
  held : Option (Nat × Nat)
deriving DecidableEq, Repr

/-- A thermal sensor (R400, R416). -/
structure Sensor where
  excl : Bool
  why : BitVec 3
  temp : BitVec 16
  /-- Consecutive equal readings, and the RATIO when they began. -/
  same : Nat
  ratio0 : Nat
  /-- Greatest change of RATIO since then. -/
  moved : Nat
  /-- Consecutive readings that disagree. -/
  off : Nat
deriving DecidableEq, Repr

/-- A cluster (R17, R319, R322). Ports 0 to 13 of `hq` are the F-core's hq0 to hq13, ports 14 and 15
its hq14 and hq15. -/
structure Cluster where
  hq : List Handoff
  bias : BitVec 8
  fstep : BitVec 6
  status : BitVec 4
  pend : Bool
  queued : Option Word
  /-- Phase of the ACLK against FCLK, in 64ths of an FCLK (R7, R319). -/
  phase : Nat
  seq : BitVec 32
  ratio : BitVec 10
  stalledN : Nat
  startedN : Nat
  sens : List Sensor
  codecRet : Bool
  /-- The port, 14 or 15, on which the codec engine waits, and for how many ACLK (R408). -/
  codecWait : Option (Nat × Nat)
  codecProbed : Bool
deriving DecidableEq, Repr

/-- A cluster at reset (R319, R322, R400). -/
def Cluster.reset (c : Nat) : Cluster where
  hq := List.replicate 16 ⟨[], false, false, none⟩
  bias := Config.biasTrim [] c
  fstep := 24
  status := 0
  pend := false
  queued := none
  phase := 0
  seq := 0
  ratio := 0
  stalledN := 0
  startedN := 0
  sens := List.replicate 4 ⟨false, 0, 0, 0, 0, 0, 0⟩
  codecRet := false
  codecWait := none
  codecProbed := false

/-! ### Memory system -/

/-- A range entry of a home (R107). -/
structure RangeEntry where
  dw0 : Word
  dw1 : Word
  dw2 : Word
  dw3 : Word
  /-- The entry has lost its parity, and accesses that hit it are held (R385 code 0x0A). -/
  bad : Bool
deriving DecidableEq, Repr

/-- A page-TLB entry: IA page, the leaf's entry, its size, and the location of the leaf (R107, R109); of a
page with a Cairn entry also DW0 and DW1 of that entry, as they stood at the walk (R110, R111). -/
structure PageEntry where
  page : BitVec 36
  pte : Word
  la : BitVec 38
  pteLa : BitVec 38
  cairn0 : Word
  cairn1 : Word
deriving DecidableEq, Repr

/-- A request held at a home for a MOVING page (R115, R390), and the queue entry it came from. -/
structure HeldReq where
  kind : AccKind
  ia : Addr
  data : List Byte
  job : BitVec 32
  origin : Option (Nat × Nat × Nat)
deriving DecidableEq, Repr

/-- A home agent (R18, R107). -/
structure Home where
  ranges : List RangeEntry
  hptbase : Word
  cairnbase : Word
  pages : List PageEntry
  held : List HeldReq
  /-- Memory records not yet posted, oldest first, and the count of records made (R384). -/
  recs : List EvRec
  recSeq : BitVec 32
deriving DecidableEq, Repr

/-- A home at reset. -/
def Home.reset : Home := ⟨List.replicate 32 ⟨0, 0, 0, 0, false⟩, 0, 0, [], [], [], 0⟩

/-- Where a byte is: local memory by LA, an owner's memory by port and bus address (R100), or a line of
the LLC by IA (R117). -/
inductive Place where
  | loc (la : Nat)
  | own (port : Nat) (bus : Nat)
  | llc (ia : Nat)
deriving DecidableEq, Repr

/-- A line of the LLC (R117): its IA, whether it is dirty, and the place from which it was filled. -/
structure LlcLine where
  line : Nat
  dirty : Bool
  back : Place
deriving DecidableEq, Repr

/-- Memory and what stands in front of it. -/
structure Memory where
  /-- GDDR7 by LA (R100). -/
  gddr : List Host.Cell
  /-- Poisoned 16-byte pieces (R386): by piece number of LA; in an owner's memory by 2^60 (port + 1) and the
  piece number of the bus address; in the LLC by 2^60 * 5 and the piece number of the IA. -/
  psn : List Host.Cell
  /-- Owners' memory behind ports 0 to 3, by bus address (R100, R112). -/
  own0 : List Host.Cell
  own1 : List Host.Cell
  own2 : List Host.Cell
  own3 : List Host.Cell
  /-- Lines present in the LLC, and their bytes by IA (R117). -/
  llc : List LlcLine
  lines : List Host.Cell
  homes : List Home
  /-- Bytes that memory-space homes have read and written for each JOBID and that no region has been
  charged for yet (R296). -/
  traffic : List (BitVec 32 × Nat)
  /-- Ports whose link is down: PORTST.DOWN (R400, R414). -/
  down : BitVec 4
  /-- Insecure flags of each port's Link IDE (0) and Selective IDE streams (1 to 4) (R310, R413). -/
  insecure : List (BitVec 5)
  /-- The line of a held request that proceeds: its home counted it as it came to be held (R114, R115). -/
  proceeds : Option Nat
deriving DecidableEq, Repr

/-- Memory at reset, with nothing written (log 2). -/
def Memory.reset : Memory := ⟨[], [], [], [], [], [], [], [], List.replicate 36 .reset, [], 0, List.replicate 4 0, none⟩

/-! ### Firmware core -/

/-- Registers of the firmware core (R354, R362, R363). -/
structure Firmware where
  rrbase : Word
  rrcfg : BitVec 4
  rrtail : BitVec 32
  rrhead : BitVec 32
  rrovf : Bool
  dbg0 : Word
  dbg1 : Word
  fwtvec : Word
  rec0 : Word
  rec1 : Word
  rec2 : Word
  rec3 : Word
deriving DecidableEq, Repr

/-! ### Scheduler -/

/-- A region (R295): CFG, CORE, BYTES and CODEC as signed balances and budgets, and remainders. -/
structure Region where
  en : Bool
  weight : BitVec 8
  cbud : BitVec 32
  cbal : Int
  bbud : BitVec 32
  bbal : Int
  kbud : BitVec 32
  kbal : Int
  /-- Remainders carried: ns of core time, bytes, ns of codec time (R296). -/
  crem : Nat
  brem : Nat
  krem : Nat
  /-- A BUDGET record has been logged in this period (R402). -/
  refused : Bool
deriving DecidableEq, Repr

/-- A submission ring (R303). -/
structure Ring where
  base : Word
  log2n : BitVec 4
  tail : BitVec 32
  head : BitVec 32
  code : BitVec 8
  err : Bool
deriving DecidableEq, Repr

/-- A device vector's coalescing state (R307, R410). -/
structure MsixVec where
  count : BitVec 8
  time : BitVec 10
  pending : Nat
  oldest : Word
deriving DecidableEq, Repr

/-- An entry of a function's MSI-X table: message address, data, mask bit; and its pending bit (R311, R312, log 5). -/
structure MsixEntry where
  addr : Word
  data : BitVec 32
  masked : Bool
  pba : Bool
deriving DecidableEq, Repr

/-- A table entry at reset: masked, as PCIe has it (log 5). -/
def MsixEntry.reset : MsixEntry := ⟨0, 0, true, false⟩

/-- A stream entry, DW0 to DW15 (R286). -/
structure Stream where
  dw : List Word
  /-- A SOPEN's or SCLOSE's command waits for its completion. -/
  closer : Option Nat
  /-- Firmware moves the stream to another module, and no frame of it is released here (R314). -/
  moving : Bool
deriving DecidableEq, Repr

/-- Where a node of a task graph stands (R289, R292). -/
inductive NodePhase where
  | waiting | ready | running | saved | done | dropped
deriving DecidableEq, Repr

/-- What a hold entry has no place for (log 19): its order among the triggers, its FPCSR flags, its
section, and BFMT of a bld block or RB of a kvap row. -/
structure HoldAside where
  seq : Nat
  fpf : BitVec 5
  sec : Nat
  aux : Nat
deriving DecidableEq, Repr

/-- What the image of a partition has no place for (log 19): where it stands in its sections, poison
bits of predicates and operand files, the cycles of an IDLE word still to pass, a spill access that has
been performed, a software trap to take, forwarded stores, what its hold entries leave out, in the
order of the image, which values were read from the register space, the target of a far transfer, the
pass and word at which a trap or a wait has found its loop, and the cause of its trap, 0 without one. -/
structure Beside where
  left : Nat
  secs : List OpenSec
  secNo : Nat
  rgnSec : Nat
  predPsn : BitVec 16
  ofPsn : BitVec 8
  idle : Nat
  spill : Spill
  swtrap : Option (BitVec 16)
  fwd : BitVec 4
  holds : List HoldAside
  marks : List Bool
  far : Option (BitVec 16)
  loopJ : BitVec 33
  loopIssued : Nat
  cause : BitVec 8
deriving DecidableEq, Repr

/-- A saved job (R48, R285): its descriptor with RESUME = 1, the IA of its image, its relocation records,
what the image has no place for, the bld intervals of the macros among it, its valid retry-ring
entries (R355), and the ports to which writes of its engines have been forwarded (R279, R290). -/
structure SavedJob where
  desc : List Word
  ria : Addr
  reloc : List FtbEntry
  parts : List Beside
  bivls : List Interval
  ringValid : Nat
  /-- Exchanges in flight whose values were read from the register space. -/
  xmarks : List Bool
  engFwd : BitVec 4
deriving DecidableEq, Repr

/-- A node of an instance (R289). -/
structure NodeInst where
  /-- DW0 to DW7 of its node record. -/
  recd : List Word
  succ : List Nat
  preds : Nat
  phase : NodePhase
  /-- SCHTNOW at which it became ready. -/
  readyAt : Word
  /-- Of a template that an in-place drop replaced (R292). -/
  old : Bool
  /-- Running nodes of the old template for which it waits (R292). -/
  waits : List Nat
  /-- Its members that have been saved. -/
  saved : List SavedJob
  live : Nat
  prefetched : Bool
deriving DecidableEq, Repr

/-- An instance of a template: a frame of a stream or an INVOKE (R288, R305). -/
structure GraphInst where
  id : Nat
  stream : Option Nat
  fnum : BitVec 32
  region : Nat
  slot : Nat
  rung : Nat
  steps : Nat
  deadline : Word
  /-- The command that completes with it (R304). -/
  cmd : Option Nat
  bufs : List (Word × Word)
  adid : BitVec 12
  aden : Bool
  /-- FLOOR has been logged in this frame (R406). -/
  floored : Bool
  /-- The adapter of its stream has been prefetched for it (R299). -/
  adapted : Bool
  /-- Ports to which jobs of it that have ended forwarded writes (R279, R306). -/
  fwd : BitVec 4
  /-- e_rem of its rung and boundary, as its key was last formed (R291). -/
  erem : Int
  nodes : List NodeInst
deriving DecidableEq, Repr

/-- A submitted command that has not completed (R304). -/
structure Command where
  id : Nat
  ring : Nat
  entry : List Word
  /-- It waits for this stream to close, or as a FENCE for the commands before it. -/
  fence : Bool
deriving DecidableEq, Repr

/-- Failure log record (R401). -/
structure FlogRec where
  dw0 : Word
  dw1 : Word
deriving DecidableEq, Repr

/-- The scheduler (R283 to R307). -/
structure Scheduler where
  lookahead : BitVec 8
  grace : BitVec 16
  period : BitVec 16
  stbase : Word
  slotbase : Word
  tpre : BitVec 7
  regions : List Region
  rings : List Ring
  vectors : List MsixVec
  streams : List Stream
  graphs : List GraphInst
  cmds : List Command
  nextGraph : Nat
  nextCmd : Nat
  nextJob : BitVec 32
  nextGang : BitVec 16
  /-- SCHTNOW of the last turn, budget period, stall-ratio sample (R296, R297, R322). -/
  lastTurn : Word
  lastPeriod : Word
  lastRatio : Word
  /-- Step boundaries to evaluate, in the order of completion (R294): graph and node. -/
  boundaries : List (Nat × Nat)
  /-- PF and VF MSI-X enables, and the MSI-X tables of PF0 and of VF1 to VF7; NumVFs (R311, R410). -/
  msixEn : List Bool
  tables : List (List MsixEntry)
  numVfs : Nat
  /-- Windows of the Rucksack pool that jobs have been given (R285). -/
  pool : Nat
  /-- Streams whose entry in the stream table is still to be written, since its home held the write (R286). -/
  stale : List Nat
  /-- JOBIDs of jobs that firmware is ending because they wait on one another (R409). -/
  ending : List (BitVec 32)
deriving DecidableEq, Repr

/-! ### Device -/

/-- A PCIe port (R308, R400, R413). -/
structure Port where
  maxw : BitVec 3
  width : BitVec 3
  idefail : BitVec 16
  replay : BitVec 32
  /-- It is a root port: of ports 1 to 3, as the module record says at boot (R16, R308). -/
  root : Bool
deriving DecidableEq, Repr

/-- A mark of a stream's KV errors (R400). -/
structure KvErr where
  fnum : BitVec 32
  count : BitVec 32
deriving DecidableEq, Repr

/-- A power request in the order of writing (R320): a cluster's CPREQ or a VMIN. -/
inductive PowerReq where
  | cluster (c : Nat) (x : Word)
  | vmin (x : Word)
deriving DecidableEq, Repr

/-- The health window, power registers, boot state and telemetry (R315 to R323, R400). -/
structure Device where
  booted : Bool
  replace : Bool
  fwhalt : Bool
  bootst : BitVec 8
  ncore : Nat
  coreret : List Bool
  pageret : BitVec 32
  minclu : BitVec 16
  ports : List Port
  /-- COUNT of structure codes 1 to 11, and THR (R400). -/
  cecnt : List (BitVec 32)
  cethr : List (BitVec 32)
  flogseq : List (BitVec 32)
  flog : List (List FlogRec)
  kverr : List KvErr
  /-- KIND 1 records of codes 0x04 and 0x05 by core within 24 h: their times (R417). -/
  coreErrs : List (Nat × Word)
  /-- Correctable errors of pages within 24 h: page and time (R417). -/
  pageErrs : List (Nat × Word)
  /-- Frames of GDDR7 that have been retired (R417). -/
  retired : List Nat
  /-- Pages of IA that are to move to a free frame and cannot yet (R417). -/
  retiring : List Nat
  vmin : BitVec 10
  vdd : BitVec 10
  vstatus : BitVec 4
  vpend : Bool
  vqueued : Option Word
  power : List PowerReq
  /-- Measurements 1 to 4 (R316). -/
  meas : List (BitVec 384)
  /-- Objects in the boot flash: firmware image, module record; none when unreadable (R315). -/
  image : Option (List Byte)
  record : Option (List Byte)
  fwconfig : List Byte
  /-- Board power, VDD current and coolant temperature as last read (R323). -/
  bpower : Nat
  bcurrent : Nat
  bcoolant : Nat
  /-- Sequence counts of memory records of core-side structures (R384), and their records. -/
  coreRecs : List EvRec
  coreRecSeq : List (Nat × BitVec 32)
deriving DecidableEq, Repr

/-- A probe token on its way (R408): its number, its cluster and the party that sent it. -/
structure Probe where
  id : Nat
  clu : Nat
  origin : Party
deriving DecidableEq, Repr

/-- What the part has sent out (R279, R306, R307, R315, R316, R387). -/
inductive OutMsg where
  | msix (fn entry : Nat) (addr : Word) (data : BitVec 32)
  | completion (port tag : Nat) (data : List Byte) (ep : Bool)
  | read0 (port : Nat)
  | fetchAdd (port : Nat) (bus : Nat)
  | measurement (path : MeasPath) (index : Nat) (digest : BitVec 384) (sig : List Byte)
  | doe (port : Nat) (q : DoeReq) (err : Bool)
  | bootStatus (st : BitVec 8)
deriving DecidableEq, Repr

/-! ### The order of steps -/

/-- Where the machine stands within an FCLK: at its start, at a cluster's clock, at the start of a
core's ACLK, at a partition's issue, at the end of the core's ACLK (log 7). -/
inductive Phase where
  | fclk
  | cluster (c : Nat)
  | start (k : Nat)
  | prt (k p : Nat)
  | finish (k : Nat)
deriving DecidableEq, Repr

/-- The state of the part. -/
structure State where
  cores : List Core
  clusters : List Cluster
  mem : Memory
  fw : Firmware
  /-- `fw` as it stood at the start of the firmware core's present ACLK (R79). -/
  fw0 : Firmware
  sched : Scheduler
  dev : Device
  probes : List Probe
  probeId : Nat
  /-- FCLK since reset. SCHTNOW is 5 ns for every 8 of them (R283). -/
  fclk : Nat
  phase : Phase
  /-- Steps that the outside world asks for, oldest first (log 7). -/
  inbox : List Instr
  /-- What has been sent out, newest first (log 6). -/
  out : List OutMsg
  /-- Counter of free values (log 8). -/
  free : Nat
deriving DecidableEq, Repr

/-- Firmware registers at reset (R354; log 3). -/
def Firmware.reset : Firmware := ⟨0, 8, 0, 0, false, 0, 0, 0, 0, 0, 0, 0⟩

/-- Regions at reset (R295). -/
def Region.reset (n : Nat) : Region :=
  ⟨n == 0, 1, 0xFFFFFFFF, 0, 0xFFFFFFFF, 0, 0xFFFFFFFF, 0, 0, 0, 0, false⟩

/-- The scheduler at reset (R283, R295, R303, R307). -/
def Scheduler.reset : Scheduler where
  lookahead := 16
  grace := 200
  period := 1000
  stbase := 0
  slotbase := 0
  tpre := 20
  regions := (List.range 8).map Region.reset
  rings := List.replicate 8 ⟨0, 4, 0, 0, 0, false⟩
  vectors := List.replicate 2048 ⟨16, 64, 0, 0⟩
  streams := List.replicate 1024 ⟨List.replicate 16 0, none, false⟩
  graphs := []
  cmds := []
  nextGraph := 0
  nextCmd := 0
  nextJob := 1
  nextGang := 1
  lastTurn := 0
  lastPeriod := 0
  lastRatio := 0
  boundaries := []
  msixEn := List.replicate 8 false
  tables := List.replicate 2048 .reset :: List.replicate 7 (List.replicate 256 .reset)
  numVfs := 0
  pool := 0
  stale := []
  ending := []

/-- Health and power registers at reset (R319, R400), before boot. -/
def Device.reset : Device where
  booted := false
  replace := false
  fwhalt := false
  bootst := 0
  ncore := 0
  coreret := List.replicate 128 false
  pageret := 0
  minclu := 0
  ports := List.replicate 4 ⟨4, 4, 0, 0, false⟩
  cecnt := List.replicate 12 0
  cethr := List.replicate 12 1024
  flogseq := List.replicate 8 0
  flog := List.replicate 8 []
  kverr := List.replicate 1024 ⟨0, 0⟩
  coreErrs := []
  pageErrs := []
  retired := []
  retiring := []
  vmin := 680
  vdd := BitVec.ofNat 10 (Config.vddTrim [])
  vstatus := 0
  vpend := false
  vqueued := none
  power := []
  meas := []
  image := none
  record := none
  fwconfig := []
  bpower := 0
  bcurrent := 0
  bcoolant := 0
  coreRecs := []
  coreRecSeq := []

/-- The part right after reset: no core has a job, and the boot ROM has not run (R315). -/
def State.reset : State where
  cores := List.replicate 128 .empty
  clusters := (List.range 16).map Cluster.reset
  mem := .reset
  fw := .reset
  fw0 := .reset
  sched := .reset
  dev := .reset
  probes := []
  probeId := 0
  fclk := 0
  phase := .fclk
  inbox := []
  out := []
  free := 0

/-! ### How a step can stop -/

/-- Reasons for which the part stops. The manual gives every misuse an outcome of its own (R364), so
no step of an instruction ends in one. -/
inductive Fault where
  /-- Raised by step alone, in a state whose phase names a core, cluster or partition that the die
  does not have (R17, R19). No run reaches such a state. Safe. -/
  | noSuchAgent
deriving DecidableEq, Repr

/-- Reasons for which a step has no meaning. -/
inductive Refusal where
  /-- The instruction has no meaning in the model yet. Raised by exec's arm of that name. Safe. -/
  | notModelled (mnemonic : String)
deriving DecidableEq, Repr

/-- What a step answers. -/
abbrev Result := Host.Outcome State Fault Refusal

end Sys2Proof.Machine
end

