-- ==== Sys2Proof/Machine/Ops.lean ====
section
/-! DEFINITION. The named operations over memory and registers: byte lists in canonical form, the
homes of cores, partitions, units, semaphores, tags and queues, and taking a trap and returning from
one. -/

namespace Sys2Proof.Machine

/-! ### Byte lists

A byte list has strictly rising addresses and no zero byte; an address that it does not list reads
as zero (log 2). -/

/-- The canonical form. -/
def Cells.wf (m : List Host.Cell) : Bool :=
  decide ((m.map Prod.fst).Pairwise (· < ·)) && m.all fun c => c.2 != 0

/-- Whether a cell lies in the n bytes at a. -/
def inRange (a n : Nat) (c : Host.Cell) : Bool := decide (a ≤ c.1) && decide (c.1 < a + n)

/-- The byte at an address. -/
def Cells.byte (m : List Host.Cell) (a : Nat) : Byte :=
  match m.find? (fun c => c.1 == a) with
  | some c => c.2
  | none => 0

/-- The n bytes at a as a number, least significant byte first (R8). -/
def Cells.nat (m : List Host.Cell) (a n : Nat) : Nat :=
  (m.filter (inRange a n)).foldl (fun acc c => acc + c.2.toNat * 2 ^ (8 * (c.1 - a))) 0

/-- The n bytes at a as a value. -/
def Cells.read (m : List Host.Cell) (a n : Nat) : Wide := BitVec.ofNat 8192 (Cells.nat m a n)

/-- The n bytes at a as a list. -/
def Cells.bytes (m : List Host.Cell) (a n : Nat) : List Byte :=
  (List.range n).map fun i => Cells.byte m (a + i)

/-- The cells of n bytes of a number placed at a. -/
def cellsOf (a n x : Nat) : List Host.Cell :=
  (List.range n).filterMap fun i =>
    let b := BitVec.ofNat 8 (x / 2 ^ (8 * i))
    if b = 0 then none else some (a + i, b)

/-- Put cells that lie in the n bytes at a in place of what stands there. -/
def Cells.splice (m : List Host.Cell) (a n : Nat) (new : List Host.Cell) : List Host.Cell :=
  m.filter (fun c => decide (c.1 < a)) ++ new ++ m.filter (fun c => decide (a + n ≤ c.1))

/-- Write the low n bytes of a number at a. -/
def Cells.write (m : List Host.Cell) (a n x : Nat) : List Host.Cell := Cells.splice m a n (cellsOf a n x)

/-- The cells of a list of bytes placed at a. -/
def cellsOfBytes (a : Nat) (bs : List Byte) : List Host.Cell :=
  (bs.zipIdx a).filterMap fun (b, i) => if b = 0 then none else some (i, b)

/-- Write a list of bytes at a. -/
def Cells.writeBytes (m : List Host.Cell) (a : Nat) (bs : List Byte) : List Host.Cell :=
  Cells.splice m a bs.length (cellsOfBytes a bs)

/-- Whether any cell of the n bytes at a is listed. -/
def Cells.anyIn (m : List Host.Cell) (a n : Nat) : Bool := m.any (inRange a n)

/-- List the n addresses at a, each with the byte 1, or unlist them (poison bits, R351). -/
def Cells.mark (m : List Host.Cell) (a n : Nat) (on : Bool) : List Host.Cell :=
  Cells.splice m a n (if on then (List.range n).map (fun i => (a + i, (1 : Byte))) else [])

/-- A list of bytes as a number, first byte lowest (R8). -/
def bytesNat (bs : List Byte) : Nat := bs.foldr (fun b acc => b.toNat + 256 * acc) 0

/-- A number as n bytes. -/
def natBytes (n x : Nat) : List Byte := (List.range n).map fun i => BitVec.ofNat 8 (x / 2 ^ (8 * i))

/-- Doubleword i of a block of bytes. -/
def blockDw (bs : List Byte) (i : Nat) : Word := BitVec.ofNat 64 (bytesNat ((bs.drop (8 * i)).take 8))

/-! ### Sorting -/

/-- Put x into a sorted list, before what it does not follow. -/
def insertBy {α : Type} (le : α → α → Bool) (x : α) : List α → List α
  | [] => [x]
  | y :: ys => if le x y then x :: y :: ys else y :: insertBy le x ys

/-- A list in order; those of one rank stay in the order in which they stood. -/
def sortBy {α : Type} (le : α → α → Bool) (l : List α) : List α := l.foldr (insertBy le) []

/-! ### Fields -/

/-- Bits [lo+len-1:lo] of a word as a number. -/
def fld (x : Word) (lo len : Nat) : Nat := x.toNat / 2 ^ lo % 2 ^ len

/-- Bit i of a word. -/
def bit (x : Word) (i : Nat) : Bool := x.getLsbD i

/-- A number placed at bit lo of a word. -/
def at' (lo x : Nat) : Word := BitVec.ofNat 64 (x * 2 ^ lo)

/-- A bit placed at bit lo of a word. -/
def bitAt (lo : Nat) (b : Bool) : Word := if b then at' lo 1 else 0

/-- The signed value of the low n bits of a number. -/
def signed (n x : Nat) : Int :=
  let y := x % 2 ^ n
  if y < 2 ^ (n - 1) then (y : Int) else (y : Int) - 2 ^ n

/-- The low n bits of an integer. -/
def unsigned (n : Nat) (x : Int) : Nat := (x % (2 ^ n : Int)).toNat

/-! ### Cores, partitions and units -/

/-- Core k (R34: core 8 x CLU + COR). -/
def State.core (s : State) (k : Nat) : Core := s.cores.getD k .empty

/-- Replace core k. -/
def State.setCore (s : State) (k : Nat) (c : Core) : State := { s with cores := s.cores.set k c }

/-- Change core k. -/
def State.modCore (s : State) (k : Nat) (f : Core → Core) : State := s.setCore k (f (s.core k))

/-- Partition p of a core. -/
def Core.prt (c : Core) (p : Nat) : Partition := c.prts.getD p .empty

/-- Replace partition p. -/
def Core.setPrt (c : Core) (p : Nat) (q : Partition) : Core := { c with prts := c.prts.set p q }

/-- Change partition p. -/
def Core.modPrt (c : Core) (p : Nat) (f : Partition → Partition) : Core := c.setPrt p (f (c.prt p))

/-- Change partition p of core k. -/
def State.modPrt (s : State) (k p : Nat) (f : Partition → Partition) : State :=
  s.modCore k fun c => c.modPrt p f

/-- Change every partition of a core. -/
def Core.allPrts (c : Core) (f : Partition → Partition) : Core := { c with prts := c.prts.map f }

/-- Change the shared storage of a core. -/
def Core.modSh (c : Core) (f : Shared → Shared) : Core := { c with sh := f c.sh }

/-- Cluster of core k. -/
def cluOf (k : Nat) : Nat := k / 8

/-- COR of core k. -/
def corOf (k : Nat) : Nat := k % 8

/-- R19: F-cores are COR 7. -/
def isFcore (k : Nat) : Bool := k % 8 == 7

/-- R19: the firmware core is COR 0 of CLU 0. -/
def isFwCore (k : Nat) : Bool := k == 0

/-- Cluster c. -/
def State.cluster (s : State) (c : Nat) : Cluster := s.clusters.getD c (.reset c)

/-- Change cluster c. -/
def State.modCluster (s : State) (c : Nat) (f : Cluster → Cluster) : State :=
  { s with clusters := s.clusters.set c (f (s.cluster c)) }

/-- Home h. -/
def Memory.home (m : Memory) (h : Nat) : Home := m.homes.getD h .reset

/-- Change home h. -/
def Memory.modHome (m : Memory) (h : Nat) (f : Home → Home) : Memory :=
  { m with homes := m.homes.set h (f (m.home h)) }

/-- SCHTNOW in ns (R283). -/
def State.now (s : State) : Word := BitVec.ofNat 64 (5 * (s.fclk / 8))

/-- The kind of partition p (R19). -/
def prtKind (p : Nat) : PrtKind :=
  if p = 0 then .ctl else if p < 9 then .vec else if p < 11 then .mat else .mem

/-- The partition width in bytes (R66). -/
def PrtKind.width : PrtKind → Nat
  | .ctl => 8
  | .vec => 128
  | .mat => 1024
  | .mem => 128

/-- Partition width of partition p. -/
def prtWidth (p : Nat) : Nat := PrtKind.width (prtKind p)

/-- What encodings of partition p of core k are judged against. -/
def ctxOf (k p : Nat) : Ctx := ⟨prtKind p, isFcore k, isFwCore k⟩

/-- Position of a unit in the list of a partition's units. -/
def UnitName.idx : UnitName → Nat
  | .br => 0 | .lp => 1 | .sy => 2 | .ix0 => 3 | .ix1 => 4 | .cmp => 5 | .imd => 6 | .ks0 => 7
  | .ks1 => 8 | .va0 => 9 | .va1 => 10 | .vf0 => 11 | .vf1 => 12 | .vx => 13 | .vp => 14 | .vc => 15
  | .fs => 16 | .fd => 17 | .mx => 18 | .kv => 19 | .px => 20 | .gm0 => 21 | .gm1 => 22 | .rw => 23
  | .tg => 24

/-- The ports and latches of a unit. -/
def Partition.unit (q : Partition) (u : UnitName) : UnitRegs := q.units.getD (UnitName.idx u) .zero

/-- Replace the ports and latches of a unit. -/
def Partition.setUnit (q : Partition) (u : UnitName) (r : UnitRegs) : Partition :=
  { q with units := q.units.set (UnitName.idx u) r }

/-- An operand port. -/
def UnitRegs.port (r : UnitRegs) : PortSel → Slot
  | .o1 => r.o1
  | .o2 => r.o2
  | .o3 => r.o3

/-- Write an operand port (R57). -/
def UnitRegs.setPort (r : UnitRegs) (o : PortSel) (x : Slot) : UnitRegs :=
  match o with
  | .o1 => { r with o1 := x }
  | .o2 => { r with o2 := x }
  | .o3 => { r with o3 := x }

/-- A latch. -/
def UnitRegs.latch (r : UnitRegs) : LatchSel → Slot
  | .res => r.res
  | .res1 => r.res1
  | .flag => r.flag

/-- Write the latches that a result writes (R59). -/
def UnitRegs.land (r : UnitRegs) (f : Fly) : UnitRegs :=
  { r with res := f.res.getD r.res, res1 := f.res1.getD r.res1, flag := f.flag.getD r.flag }

/-- Poison every value of a unit (R361). -/
def UnitRegs.poison (r : UnitRegs) (w : Slot) : UnitRegs := { r with o1 := w, o2 := w, o3 := w, res := w, res1 := w, flag := w }

/-- A macro of a core (R226). -/
def Shared.cim (h : Shared) (m : BitVec 3) : Cim := h.cims.getD m.toNat .zero

/-- Change a macro. -/
def Shared.modCim (h : Shared) (m : BitVec 3) (f : Cim → Cim) : Shared :=
  { h with cims := h.cims.set m.toNat (f (h.cim m)) }

/-- A latch of a macro. -/
def Cim.latch (c : Cim) : LatchSel → Slot
  | .res => c.res
  | .res1 => c.res1
  | .flag => c.flag

/-- Write the latches of a macro (R59). -/
def Cim.land (c : Cim) (f : Fly) : Cim :=
  { c with res := f.res.getD c.res, res1 := f.res1.getD c.res1, flag := f.flag.getD c.flag }

/-- A plane of a macro. -/
def Cim.plane (c : Cim) (p : Bool) : Plane := if p then c.p1 else c.p0

/-- Replace a plane. -/
def Cim.setPlane (c : Cim) (p : Bool) (x : Plane) : Cim := if p then { c with p1 := x } else { c with p0 := x }

/-- Predicate k: p0 reads 1 (R76). -/
def Partition.pred (q : Partition) (k : BitVec 4) : Bool := k == 0 || q.preds.getLsbD k.toNat

/-- Poison bit of predicate k. -/
def Partition.predPoison (q : Partition) (k : BitVec 4) : Bool := k != 0 && q.predPsn.getLsbD k.toNat

/-- Bit k of a value replaced. -/
def putBit {w : Nat} (x : BitVec w) (k : Nat) (b : Bool) : BitVec w :=
  if b then x ||| (1#w <<< k) else x &&& ~~~(1#w <<< k)

/-- Write predicate k: p0 ignores it, and so do p8 to p15 while a loop is active (R76, R77). -/
def Partition.setPred (q : Partition) (k : BitVec 4) (b psn : Bool) : Partition :=
  if k = 0 ∨ (q.loop.active ∧ 8 ≤ k.toNat) then q
  else { q with preds := putBit q.preds k.toNat b, predPsn := putBit q.predPsn k.toNat psn }

/-- A member of the locked group (R43). -/
def Core.isLocked (c : Core) (p : Nat) : Bool := c.locked.getLsbD p

/-- The job's JOBID; 0 without a job. -/
def Core.jobId (c : Core) : BitVec 32 :=
  match c.job with
  | some j => (j.desc.getD 0 0).setWidth 32
  | none => 0

/-- COORD of partition p of core k (R34). -/
def coordOf (k p : Nat) (c : Core) : Word :=
  let d := match c.job with | some j => j.desc.getD 0 0 | none => 0
  at' 32 (fld d 0 32) ||| at' 26 (fld d 52 6) ||| at' 20 (fld d 58 6) ||| at' 16 (fld d 48 4) |||
    at' 15 (fld d 44 1) ||| at' 8 p ||| at' 4 (corOf k) ||| at' 0 (cluOf k)

/-! ### Core-store tags -/

/-- The tag entry of a slot (R118). -/
def tagGet (ts : List (Nat × TagEntry)) (slot : Nat) : TagEntry :=
  match ts.find? (fun t => t.1 == slot) with
  | some t => t.2
  | none => .zero

/-- Write the tag entry of a slot, keeping slots in order and zero entries out. -/
def tagSet (ts : List (Nat × TagEntry)) (slot : Nat) (e : TagEntry) : List (Nat × TagEntry) :=
  ts.filter (fun t => decide (t.1 < slot)) ++ (if e = .zero then [] else [(slot, e)]) ++
    ts.filter (fun t => decide (slot < t.1))

/-- Change the tag entry of a slot. -/
def Shared.modTag (h : Shared) (slot : Nat) (f : TagEntry → TagEntry) : Shared :=
  { h with tags := tagSet h.tags slot (f (tagGet h.tags slot)) }

/-- A ks store or a kvap write reaches a slot (R118, R119, R195). -/
def TagEntry.stored (e : TagEntry) : TagEntry :=
  { e with dirty := e.dirty || (e.v && !e.pin), hit := e.hit || e.busy }

/-- The slots that n bytes at a of the core store touch. -/
def slotsOf (a n : Nat) : List Nat := (List.range ((a + n - 1) / 128 + 1 - a / 128)).map (· + a / 128)

/-- A tag entry as 8 bytes (R118). -/
def TagEntry.word (e : TagEntry) : Word :=
  bitAt 63 e.v ||| bitAt 62 e.pin ||| bitAt 61 e.dirty ||| bitAt 60 e.busy ||| at' 16 e.tag.toNat

/-- The tag entry that 8 bytes give. -/
def TagEntry.ofWord (x : Word) : TagEntry :=
  ⟨bit x 63, bit x 62, bit x 61, bit x 60, BitVec.ofNat 32 (fld x 16 32), false⟩

/-- Addresses of the core store wrap at 1 MiB (R193). -/
def csWrap (a : Nat) : Nat := a % 1048576

/-- Read n bytes of the core store at an address taken modulo 2^20. -/
def csRead (h : Shared) (a n : Nat) : Nat :=
  let a := csWrap a
  if a + n ≤ 1048576 then Cells.nat h.cs a n
  else
    let k := 1048576 - a
    Cells.nat h.cs a k + Cells.nat h.cs 0 (n - k) * 2 ^ (8 * k)

/-- Whether n bytes of the core store at an address modulo 2^20 include a poisoned piece (R386). -/
def csPoisoned (h : Shared) (a n : Nat) : Bool :=
  let a := csWrap a
  if n = 0 then false
  else if a + n ≤ 1048576 then Cells.anyIn h.csPsn (a / 16) ((a + n - 1) / 16 + 1 - a / 16)
  else Cells.anyIn h.csPsn (a / 16) (65536 - a / 16) || Cells.anyIn h.csPsn 0 ((n - (1048576 - a) - 1) / 16 + 1)

/-- The pieces that n bytes at a cover whole, as first and count. -/
def wholePieces (a n : Nat) : Nat × Nat :=
  let lo := (a + 15) / 16
  let hi := (a + n) / 16
  (lo, hi - lo)

/-- Write n bytes of the core store at a, which does not wrap: covered pieces come clean (R387). -/
def csWrite (h : Shared) (a n x : Nat) : Shared :=
  let a := csWrap a
  let w := wholePieces a n
  { h with cs := Cells.write h.cs a n x, csPsn := Cells.mark h.csPsn w.1 w.2 false }

/-- Write n bytes at a as a ks store does: slots with V = 1 and PIN = 0 become dirty (R195). -/
def csStore (h : Shared) (a n x : Nat) : Shared :=
  if n = 0 then h
  else (slotsOf (csWrap a) n).foldl (fun h sl => h.modTag sl TagEntry.stored) (csWrite h a n x)

/-! ### Register space -/

/-- Write n bytes of the register space with a poison bit for each (R68, R352). -/
def regWrite (h : Shared) (a n x : Nat) (psn : Bool) : Shared :=
  { h with reg := Cells.write h.reg a n x, regPsn := Cells.mark h.regPsn a n psn }

/-! ### Semaphores and the event queue -/

/-- Semaphore n. -/
def Shared.semaAt (h : Shared) (n : Nat) : Sema := h.sema.getD n ⟨0, false⟩

/-- An add to semaphore n in the present ACLK (R40). -/
def Core.semAdd (c : Core) (n : Nat) (x : Int) : Core := { c with semAdds := c.semAdds ++ [(n, x)] }

/-- R40: the writes of the ACLK stand first, the last of them being that of the highest partition,
and then the sum of the adds is applied once, clamped. OVF stays set where the adds clamp at the top in the ACLK of a
write that clears it (log 112). -/
def semaApply (x : Sema) (wrs : List SemaWr) (adds : List Int) : Sema :=
  let v0 : Int := match wrs.getLast? with | some w => w.val.toNat | none => x.val.toNat
  let v := v0 + adds.sum
  let o := x.ovf && !(wrs.any fun w => w.clr)
  if 65535 < v then ⟨65535, true⟩ else if v < 0 then ⟨0, o⟩ else ⟨BitVec.ofInt 16 v, o⟩

/-- Apply the adds and writes of the ACLK to every semaphore they name (R40). -/
def Core.applySemas (c : Core) : Core :=
  let names := (c.semAdds.map Prod.fst ++ c.semWrs.map SemaWr.n).dedup
  let sema := names.foldl (fun ss n =>
    ss.set n (semaApply (ss.getD n ⟨0, false⟩) (c.semWrs.filter fun w => w.n == n)
      ((c.semAdds.filter fun a => a.1 == n).map Prod.snd))) c.sh.sema
  { c with sh := { c.sh with sema := sema }, semAdds := [], semWrs := [] }

/-- Post an engine record to the core's event queue, dropping it when the queue is full (R41). The
record takes the job's count as SEQ (R246). -/
def Core.postRec (c : Core) (r : EvRec) : Core :=
  let r := { r with dw3 := (r.dw3 &&& 0xFFFFFFFF00000000#64) ||| c.evseq.setWidth 64 }
  let c := { c with evseq := c.evseq + 1 }
  if c.sh.evq.length < 64 then { c with sh := { c.sh with evq := c.sh.evq ++ [r] } }
  else { c with sh := { c.sh with evOvf := true, evLost := if c.sh.evLost = 255 then 255 else c.sh.evLost + 1 } }

/-- EVQSTAT (R41). -/
def Shared.evqstat (h : Shared) : Word :=
  at' 16 h.evLost.toNat ||| bitAt 15 h.evOvf ||| at' 0 h.evq.length

/-- A record's 32 bytes as a number, DW0 lowest. -/
def EvRec.nat (r : EvRec) : Nat :=
  r.dw0.toNat + r.dw1.toNat * 2 ^ 64 + r.dw2.toNat * 2 ^ 128 + r.dw3.toNat * 2 ^ 192

/-! ### Poison -/

/-- The poison word (R351). -/
def poisonWord (cause : Nat) (spec der : Bool) (index : Nat) : Word :=
  at' 56 cause ||| bitAt 55 spec ||| bitAt 54 der ||| at' 0 index

/-- INDEX of a poison word that names no ring entry (R351). -/
def noIndex : Nat := 0xFFFFFFFF

/-- A poisoned value that holds its word in bytes [7:0] (R351). -/
def poisonedSlot (w : Word) : Slot := ⟨w.setWidth 8192, true, false⟩

/-- A value lost to an error (R361). -/
def lostSlot : Slot := poisonedSlot (poisonWord 0x41 false false noIndex)

/-! ### Traps -/

/-- The trap record of R344. -/
def trapRecord (k p : Nat) (c : Core) (cause : BitVec 8) (i1 i2 : Word) (pc : Pc) : EvRec :=
  ⟨at' 60 0xF ||| at' 56 p ||| at' 48 cause.toNat ||| at' 44 (corOf k) ||| at' 40 (cluOf k) |||
      bitAt 39 (c.isLocked p) ||| c.jobId.setWidth 64,
    i1, i2, at' 32 (fld c.sh.scnt 0 32) ||| at' 2 pc.toNat⟩

/-- The partition leaves its section for a header at a target: the section counts as having issued
its last word (R37, R175). A loop engine that still runs stops (log 20). -/
def Partition.leaveTo (q : Partition) (target : Pc) : Partition :=
  { q with
    pc := target, left := 0, transfer := none, idle := 0,
    loop := { q.loop with active := false },
    secs := q.secs.map fun e => if e.no + 1 = q.secNo ∧ e.done = false then { e with done := true, next := target } else e }

/-- The run-ahead helper dies (R47). It stays dead for as long as the stall that spawned it lasts. -/
def Core.killHelper (c : Core) : Core := { c with helper := c.helper.map fun h => { h with dead := true } }

/-- Results in flight come one cycle nearer (R61). -/
def Partition.countDown (q : Partition) : Partition := { q with fly := q.fly.map fun f => { f with rem := f.rem - 1 } }

/-- The acceptance intervals that a partition counts, of the macros in a mask (R228). -/
def Shared.countIntervals (h : Shared) (p : Nat) (mask : BitVec 8) : Shared :=
  let dec (i : Interval) : Interval := if i.prt = p then { i with left := i.left - 1 } else i
  { h with cims := h.cims.mapIdx fun m c => if mask.getLsbD m then { c with ivl := dec c.ivl, bivl := dec c.bivl } else c }

/-- Taking a trap (R342 to R344): nothing of the group takes effect, the partition stops with its
group's PC, the record waits in the core for room, and a run-ahead helper dies. It no longer waits on a queue
(R408), and what failed for its accesses is looked for anew (R103). -/
def Core.trap (c : Core) (k p : Nat) (cause : BitVec 8) (i1 i2 : Word) (pc : Pc) : Core :=
  let r := trapRecord k p c cause i1 i2 pc
  let c := c.modPrt p fun q =>
    { q with
      trap := some ⟨cause, i1, i2, pc⟩, swtrap := none, stalled := true, refused := 0, qwait := none, probed := false,
      spill := match q.spill with | .failed _ _ => .idle | x => x }
  { c.killHelper with trapOut := c.trapOut ++ [r], refillFault := c.refillFault.filter fun f => f.1 != p }

/-- A partition begins a transfer that a trap makes, in the cycle of the trap (R175, R363): no word of the section
issues after it, so its three delay cycles are idle ones. `turn` tells whether the partition's turn of that cycle
is passing, and counts in it; else the turn is still to come (log 66). -/
def Partition.trapTo (q : Partition) (target : Pc) (turn : Bool) : Partition :=
  let q : Partition := if turn then q.countDown else q
  { q with
    left := 0, idle := 0, transfer := some ⟨target, if turn then 3 else 4⟩, far := none, swtrap := none, spill := .idle,
    stalled := false, refused := 0, qwait := none, probed := false, loop := { q.loop with active := false } }

/-- Taking a trap on the firmware core (R363): a run-ahead helper dies, the partition transfers to FWTVEC and FWTREC
takes the record; with FWTVEC = 0, or with a record of the same partition not yet cleared, the firmware core
halts. -/
def State.fwTrap (s : State) (p : Nat) (cause : BitVec 8) (i1 i2 : Word) (pc : Pc) : State :=
  let c := s.core 0
  let r := trapRecord 0 p c cause i1 i2 pc
  let s : State := s.modCore 0 fun c => { c.killHelper with refillFault := c.refillFault.filter fun f => f.1 != p }
  let turn : Bool := match s.phase with | .prt _ _ => true | _ => false
  let f := if turn then s.fw0 else s.fw
  if f.fwtvec = 0 ∨ (fld f.rec0 60 4 = 0xF ∧ fld f.rec0 56 4 = p) then
    { s.modPrt 0 p (fun q => { q with trap := some ⟨cause, i1, i2, pc⟩, swtrap := none, stalled := true, qwait := none, probed := false, spill := .idle }) with
      dev := { s.dev with fwhalt := true } }
  else
    let s : State := s.modCore 0 fun c =>
      let c := c.modPrt p fun q => q.trapTo (BitVec.ofNat 13 (fld f.fwtvec 2 13)) turn
      if turn then c.modSh fun h => h.countIntervals p 0xFF else c
    { s with fw := { s.fw with rec0 := r.dw0, rec1 := r.dw1, rec2 := r.dw2, rec3 := r.dw3 } }

/-- Taking a trap in partition p of core k, at the group at pc. -/
def State.takeTrap (s : State) (k p : Nat) (cause : BitVec 8) (i1 i2 : Word) (pc : Pc) : State :=
  if isFwCore k then s.fwTrap p cause i1 i2 pc
  else s.modCore k fun c => c.trap k p cause i1 i2 pc

/-- Return from a trap by reissue (R347, R358): the trapped group issues next, and everything that
drained continues from its kept counts. -/
def Partition.reissue (q : Partition) : Partition := { q with trap := none, stalled := false }

/-- The number of open sections before the one that RGNADDR lies in (R187). -/
def Partition.skippedSecs (q : Partition) : Nat := (q.secs.filter fun e => decide (e.no < q.rgnSec)).length

/-- Return from a trap by restart at RGNADDR (R187, R358, R361): results in flight, a pending
transfer and a stop are dropped, and the sections before RGNADDR's count as retired. -/
def Partition.restart (q : Partition) : Partition :=
  let inSec := q.rgnWrem != 0
  { q with
    trap := none, swtrap := none, stop := none, stalled := false, refused := 0, spill := .idle,
    fly := [], transfer := none, far := none, idle := 0, qwait := none, probed := false, loop := { q.loop with active := false },
    pc := q.rgnPc, left := q.rgnWrem.toNat,
    secs := if inSec then [⟨q.rgnSec, false, q.rgnPc⟩] else [],
    secNo := if inSec then q.rgnSec + 1 else q.rgnSec }

/-- Restart partition p of a core: RSC advances by the sections that count as retired, and a member
of the locked group leaves it (R370). -/
def Core.restart (c : Core) (p : Nat) : Core :=
  let n := (c.prt p).skippedSecs
  let c := c.modPrt p Partition.restart
  { c with
    sh := { c.sh with rsc := c.sh.rsc.set p (c.sh.rsc.getD p 0 + BitVec.ofNat 32 n) },
    locked := putBit c.locked p false, lwait := putBit c.lwait p false }

end Sys2Proof.Machine
end

