-- ==== Sys2Proof/Machine/Fp.lean ====
section
/-! DEFINITION. Floating-point formats and exact arithmetic (R83 to R92): values as m x 2^e, one
rounding, and the flags that it raises. -/

namespace Sys2Proof.Machine

/-! ### Formats -/

/-- A format of R83: exponent bits, fraction bits, bias, and whether its all-ones exponent code holds
infinities and NaNs (0), numbers and one NaN (1, E4M3) or numbers only (2, E2M1). -/
structure Fmt where
  eb : Nat
  mb : Nat
  bias : Nat
  kind : Nat
deriving DecidableEq, Repr

/-- FP32 (R83). -/
def fp32 : Fmt := ⟨8, 23, 127, 0⟩
/-- FP16 (R83). -/
def fp16 : Fmt := ⟨5, 10, 15, 0⟩
/-- BF16 (R83). -/
def bf16 : Fmt := ⟨8, 7, 127, 0⟩
/-- FP8 E5M2 (R83). -/
def e5m2 : Fmt := ⟨5, 2, 15, 0⟩
/-- FP8 E4M3 (R83). -/
def e4m3 : Fmt := ⟨4, 3, 7, 1⟩
/-- FP4 E2M1 (R83). -/
def e2m1 : Fmt := ⟨2, 1, 1, 2⟩

/-- Bits of a format's element. -/
def Fmt.bits (f : Fmt) : Nat := 1 + f.eb + f.mb

/-- The exponent of one unit of the smallest subnormal. -/
def Fmt.qmin (f : Fmt) : Int := 1 - (f.bias : Int) - f.mb

/-- The code of the largest finite magnitude (R83). -/
def Fmt.maxCode (f : Fmt) : Nat :=
  if f.kind = 0 then (2 ^ f.eb - 1) * 2 ^ f.mb - 1
  else if f.kind = 1 then 2 ^ (f.eb + f.mb) - 2
  else 2 ^ (f.eb + f.mb) - 1

/-- The canonical NaN (R85). E2M1 has none. -/
def Fmt.nan (f : Fmt) : Nat :=
  if f.kind = 0 then (2 ^ f.eb - 1) * 2 ^ f.mb + 2 ^ (f.mb - 1) else 2 ^ (f.eb + f.mb) - 1

/-- The sign bit. -/
def Fmt.sign (f : Fmt) (neg : Bool) : Nat := if neg then 2 ^ (f.eb + f.mb) else 0

/-- An infinity (R83). -/
def Fmt.inf (f : Fmt) (neg : Bool) : Nat := f.sign neg + (2 ^ f.eb - 1) * 2 ^ f.mb

/-- A value: a NaN, signalling or quiet; an infinity; or ± m x 2^e. -/
inductive FNum where
  | nan (sig : Bool)
  | inf (neg : Bool)
  | fin (neg : Bool) (m : Nat) (e : Int)
deriving DecidableEq, Repr

/-- The value of a code (R83, R84). -/
def Fmt.unpack (f : Fmt) (x : Nat) : FNum :=
  let neg := x / 2 ^ (f.eb + f.mb) % 2 == 1
  let e := x / 2 ^ f.mb % 2 ^ f.eb
  let m := x % 2 ^ f.mb
  if f.kind = 0 ∧ e = 2 ^ f.eb - 1 then
    if m = 0 then .inf neg else .nan (m < 2 ^ (f.mb - 1))
  else if f.kind = 1 ∧ e = 2 ^ f.eb - 1 ∧ m = 2 ^ f.mb - 1 then .nan false
  else if e = 0 then .fin neg m f.qmin
  else .fin neg (m + 2 ^ f.mb) (f.qmin + (e : Int) - 1)

/-! ### Flags -/

/-- Flags as FPCSR holds them (R93): NX, UF, OF, DZ, NV from bit 4 to bit 0. -/
abbrev FFlags := BitVec 5

/-- NX. -/
def fNX : FFlags := 16
/-- UF. -/
def fUF : FFlags := 8
/-- OF. -/
def fOF : FFlags := 4
/-- DZ. -/
def fDZ : FFlags := 2
/-- NV. -/
def fNV : FFlags := 1

/-- A flag that is raised when a condition holds. -/
def flagIf (b : Bool) (f : FFlags) : FFlags := if b then f else 0

/-! ### Rounding -/

/-- A rounding mode, coded as in R87. -/
abbrev RMode := BitVec 2

/-- The integer that |x| = (m + st) x 2^(-sh) rounds to, st standing for a non-zero rest below m,
and whether that is inexact (R87). -/
def roundShift (md : RMode) (neg : Bool) (m : Nat) (st : Bool) (sh : Int) : Nat × Bool :=
  if sh ≤ 0 then
    let v := m * 2 ^ (-sh).toNat
    (if st && ((md == 2 && neg) || (md == 3 && !neg)) then v + 1 else v, st)
  else
    let n := sh.toNat
    let fl := m / 2 ^ n
    let r := m % 2 ^ n
    let half := 2 ^ (n - 1)
    let inex := r != 0 || st
    let up :=
      if md = 0 then decide (half < r) || (r == half && (st || fl % 2 == 1))
      else if md = 1 then false
      else if md = 2 then neg && inex
      else !neg && inex
    (if up then fl + 1 else fl, inex)

/-- A rounded result: code without sign, flags, and whether it overflowed, in which case the code is
the largest finite one. -/
structure Rounded where
  code : Nat
  flags : FFlags
  ovf : Bool
deriving DecidableEq, Repr

/-- Rounding of ± (m + st) x 2^e to a format (R87, R88), st standing for a non-zero rest below m. A tiny inexact value
raises UF in every format, and a value is beyond the largest finite one when it is so after rounding with an unbounded
exponent (log 105). -/
def Fmt.round (f : Fmt) (md : RMode) (neg : Bool) (m : Nat) (e : Int) (st : Bool) : Rounded :=
  if m = 0 ∧ st = false then ⟨0, 0, false⟩
  else
    let l : Int := e + Nat.log2 m
    let q0 : Int := l - f.mb
    let r0 := (roundShift md neg m st (q0 - e)).1
    let tiny := decide (l + (if 2 ^ (f.mb + 1) ≤ r0 then 1 else 0) < f.qmin + f.mb)
    let q : Int := max q0 f.qmin
    let (r, inex) := roundShift md neg m st (q - e)
    let code := (q - f.qmin).toNat * 2 ^ f.mb + r
    if f.maxCode < code then ⟨f.maxCode, fOF ||| fNX, true⟩
    else ⟨code, flagIf inex fNX ||| flagIf (tiny && inex) fUF, false⟩

/-- The overflow rows of R88, for a format with infinities. -/
def Fmt.overflow (f : Fmt) (md : RMode) (neg : Bool) : Nat :=
  let toInf := md == 0 || (md == 2 && neg) || (md == 3 && !neg)
  if toInf then f.inf neg else f.sign neg + f.maxCode

/-- The result of an operation before rounding: an exact number with what lies below it, a NaN, an
infinity, and the flags raised so far. -/
inductive Exact where
  | num (neg : Bool) (m : Nat) (e : Int) (st : Bool)
  | nan (nv : Bool)
  | inf (neg : Bool) (flags : FFlags)
deriving DecidableEq, Repr

/-- The code and flags of a result in a format (R85, R88, R89). -/
def Fmt.pack (f : Fmt) (md : RMode) : Exact → Nat × FFlags
  | .nan nv => (f.nan, flagIf nv fNV)
  | .inf neg fl => (f.inf neg, fl)
  | .num neg m e st =>
    let r := f.round md neg m e st
    if r.ovf then (f.overflow md neg, r.flags) else (f.sign neg + r.code, r.flags)

/-! ### Exact operations -/

/-- The product of two values as a term of a sum (R89): none for an invalid product. -/
def mulNum (a b : FNum) : Option FNum :=
  match a, b with
  | .nan s, .nan t => some (.nan (s || t))
  | .nan s, _ => some (.nan s)
  | _, .nan t => some (.nan t)
  | .inf n, .inf k => some (.inf (n != k))
  | .inf n, .fin k m _ => if m = 0 then none else some (.inf (n != k))
  | .fin k m _, .inf n => if m = 0 then none else some (.inf (n != k))
  | .fin n m e, .fin k l d => some (.fin (n != k) (m * l) (e + d))

/-- A value with its sign inverted. -/
def FNum.negate : FNum → FNum
  | .nan s => .nan s
  | .inf n => .inf (!n)
  | .fin n m e => .fin (!n) m e

/-- The sign bit of a value. -/
def FNum.isNeg : FNum → Bool
  | .nan _ => false
  | .inf n => n
  | .fin n _ _ => n

/-- A NaN. -/
def FNum.isNan : FNum → Bool
  | .nan _ => true
  | _ => false

/-- A signalling NaN. -/
def FNum.isSig : FNum → Bool
  | .nan s => s
  | _ => false

/-- Least exponent of the terms. -/
def minExp (ts : List FNum) : Int :=
  ts.foldl (fun a t => match t with | .fin _ m e => if m = 0 then a else min a e | _ => a) 100000

/-- The integer that a term is, in units of 2^e0. -/
def FNum.scaled (e0 : Int) : FNum → Int
  | .fin n m e => if m = 0 then 0 else (if n then -1 else 1) * ((m * 2 ^ (e - e0).toNat : Nat) : Int)
  | _ => 0

/-- The exact sum of terms, a term being none when it is an invalid product (R88, R89, R199). -/
def sumNum (md : RMode) (ts : List (Option FNum)) : Exact :=
  let xs := ts.filterMap id
  let pInf := xs.any fun t => match t with | .inf false => true | _ => false
  let nInf := xs.any fun t => match t with | .inf true => true | _ => false
  if ts.any (· == none) || xs.any FNum.isSig || (pInf && nInf) then .nan true
  else if xs.any FNum.isNan then .nan false
  else if pInf then .inf false 0
  else if nInf then .inf true 0
  else
    let e0 := minExp xs
    let s := (xs.map (FNum.scaled e0)).sum
    if s = 0 then
      let neg := if xs.all FNum.isNeg then true else if xs.all (fun t => !t.isNeg) then false else md == 2
      .num neg 0 0 false
    else .num (s < 0) s.natAbs e0 false

/-- a + c. -/
def addExact (md : RMode) (a c : FNum) : Exact := sumNum md [some a, some c]

/-- a x b + c. A signalling NaN, or 0 x infinity, is invalid whatever c is (R199). -/
def fmaExact (md : RMode) (a b c : FNum) : Exact := sumNum md [mulNum a b, some c]

/-- a x b as a result. -/
def mulExact (a b : FNum) : Exact :=
  match mulNum a b with
  | none => .nan true
  | some (.nan s) => .nan s
  | some (.inf n) => .inf n 0
  | some (.fin n m e) => .num n m e false

/-- a / c (R89). -/
def divExact (a c : FNum) : Exact :=
  match a, c with
  | .nan s, .nan t => .nan (s || t)
  | .nan s, _ => .nan s
  | _, .nan t => .nan t
  | .inf _, .inf _ => .nan true
  | .inf n, .fin k _ _ => .inf (n != k) 0
  | .fin n _ _, .inf k => .num (n != k) 0 0 false
  | .fin n m e, .fin k l d =>
    if l = 0 then (if m = 0 then .nan true else .inf (n != k) fDZ)
    else
      let sh := 96 + Nat.log2 l
      .num (n != k) (m * 2 ^ sh / l) (e - d - sh) (m * 2 ^ sh % l != 0)

/-- The integer square root, one bit a step. -/
def isqrtAux : Nat → Nat → Nat → Nat
  | 0, _, r => r
  | k + 1, x, r =>
    let c := r + 2 ^ k
    isqrtAux k x (if c * c ≤ x then c else r)

/-- The integer square root. -/
def isqrt (x : Nat) : Nat := isqrtAux (Nat.log2 x / 2 + 1) x 0

/-- √c (R89, R204). -/
def sqrtExact (c : FNum) : Exact :=
  match c with
  | .nan s => .nan s
  | .inf n => if n then .nan true else .inf false 0
  | .fin n m e =>
    if m = 0 then .num n 0 0 false
    else if n then .nan true
    else
      let odd := e % 2 != 0
      let m' := (if odd then 2 * m else m) * 2 ^ 96
      let e' := ((if odd then e - 1 else e) - 96) / 2
      let r := isqrt m'
      .num false r e' (r * r != m')

/-- 1 / √c (R89, R204). -/
def rsqrtExact (c : FNum) : Exact :=
  match c with
  | .nan s => .nan s
  | .inf n => if n then .nan true else .num false 0 0 false
  | .fin n m e =>
    if m = 0 then .inf n fDZ
    else if n then .nan true
    else
      let odd := e % 2 != 0
      let m' := if odd then 2 * m else m
      let e' := (if odd then e - 1 else e) / 2
      let k := 96 + Nat.log2 m'
      let r := isqrt (2 ^ (2 * k) / m')
      .num false r (-e' - k) (r * r * m' != 2 ^ (2 * k))

/-! ### Transcendental functions, in fixed point with 640 fraction bits (log 21) -/

/-- Fraction bits of the fixed-point evaluation. -/
def tp : Nat := 640

/-- 1 in fixed point. -/
def tOne : Nat := 2 ^ tp

/-- Σ over k ≥ 0 of z^(2k+1)/(2k+1), with alternating signs when asked: atanh z or atan z. -/
def atanSeries (alt : Bool) (z : Nat) : Nat → Nat → Nat → Int → Int
  | 0, _, _, acc => acc
  | n + 1, k, pw, acc =>
    let t : Int := ((pw / (2 * k + 1) : Nat) : Int)
    atanSeries alt z n (k + 1) (pw * z / tOne * z / tOne) (if alt && k % 2 == 1 then acc - t else acc + t)

/-- 2 atanh z: the logarithm of (1 + z)/(1 - z). -/
def lnOf (z : Nat) : Nat := (2 * atanSeries false z 220 0 z 0).toNat

/-- ln 2 = 2 atanh(1/3). -/
def ln2 : Nat := lnOf (tOne / 3)

/-- 2π = 8 (4 atan(1/5) - atan(1/239)). -/
def twoPi : Nat :=
  (8 * (4 * atanSeries true (tOne / 5) 150 0 (tOne / 5) 0 - atanSeries true (tOne / 239) 60 0 (tOne / 239) 0)).toNat

/-- Σ x^k / k!. -/
def expSeries (x : Nat) : Nat → Nat → Nat → Nat → Nat
  | 0, _, _, acc => acc
  | n + 1, k, t, acc => expSeries x n (k + 1) (t * x / tOne / (k + 1)) (acc + t)

/-- Σ (-1)^k x^(2k+j) / (2k+j)!, from the term t of index j on. -/
def trigSeries (x2 : Nat) : Nat → Nat → Nat → Bool → Int → Int
  | 0, _, _, _, acc => acc
  | n + 1, j, t, neg, acc =>
    trigSeries x2 n (j + 2) (t * x2 / tOne / ((j + 1) * (j + 2))) (!neg) (if neg then acc - t else acc + t)

/-- A magnitude m x 2^e in fixed point. -/
def toFixed (m : Nat) (e : Int) : Nat :=
  let s := e + tp
  if 0 ≤ s then m * 2 ^ s.toNat else m / 2 ^ (-s).toNat

/-- 2^c (R204). -/
def exp2Exact (c : FNum) : Exact :=
  match c with
  | .nan s => .nan s
  | .inf n => if n then .num false 0 0 false else .inf false 0
  | .fin n m e =>
    if m = 0 then .num false 1 0 false
    else if 0 ≤ e ∧ m * 2 ^ e.toNat < 2 ^ 20 then
      let k : Int := ((m * 2 ^ e.toNat : Nat) : Int)
      .num false 1 (if n then -k else k) false
    else if 10 ≤ e + Nat.log2 m then
      .num false (2 ^ 64) (if n then -2000 else 2000) true
    else
      let x := toFixed m e
      let ip := x / tOne
      let fp := x % tOne
      let neg := n && fp != 0
      let k : Int := if n then (if fp = 0 then -(ip : Int) else -(ip : Int) - 1) else ip
      let f := if neg then tOne - fp else fp
      .num false (expSeries (f * ln2 / tOne) 130 0 tOne 0) (k - tp) (fp != 0)

/-- log2 c (R204). -/
def log2Exact (c : FNum) : Exact :=
  match c with
  | .nan s => .nan s
  | .inf n => if n then .nan true else .inf false 0
  | .fin n m e =>
    if m = 0 then .inf true fDZ
    else if n then .nan true
    else
      let l := Nat.log2 m
      let k : Int := e + l
      if m = 2 ^ l then .num (k < 0) k.natAbs 0 false
      else
        let z := (m - 2 ^ l) * tOne / (m + 2 ^ l)
        let f : Int := ((lnOf z * tOne / ln2 : Nat) : Int)
        let v := k * (tOne : Int) + f
        .num (v < 0) v.natAbs (-(tp : Int)) true

/-- sin 2πx for x in units of 2^-tp turn, 0 ≤ x ≤ 1/4. -/
def sinQuarter (x : Nat) : Nat :=
  let a := x * twoPi / tOne
  (trigSeries (a * a / tOne) 110 1 a false 0).toNat

/-- sin 2πc, or cos 2πc (R204). Where 4c is an integer the result is exact. -/
def sincosExact (cosine : Bool) (c : FNum) : Exact :=
  match c with
  | .nan s => .nan s
  | .inf _ => .nan true
  | .fin n m e =>
    if m = 0 then (if cosine then .num false 1 0 false else .num n 0 0 false)
    else
      let x := toFixed m e % tOne
      let x := if n then (tOne - x) % tOne else x
      let x := if cosine then (x + tOne / 4) % tOne else x
      let q := x / (tOne / 4)
      let r := x % (tOne / 4)
      let neg := decide (2 ≤ q)
      if r = 0 then
        if q % 2 = 1 then .num neg 1 0 false else .num false 0 0 false
      else
        let y := if q % 2 = 1 then tOne / 4 - r else r
        .num neg (sinQuarter y) (-(tp : Int)) true

/-! ### Comparison, minimum and maximum (R200) -/

/-- -1, 0 or 1 as a is less than, equal to or greater than c; both are numbers. -/
def cmpNum (a c : FNum) : Int :=
  match a, c with
  | .inf n, .inf k => if n = k then 0 else if n then -1 else 1
  | .inf n, _ => if n then -1 else 1
  | _, .inf k => if k then 1 else -1
  | .fin n m e, .fin k l d =>
    let e0 := min e d
    let x := FNum.scaled e0 (.fin n m e)
    let y := FNum.scaled e0 (.fin k l d)
    if x < y then -1 else if x = y then 0 else 1
  | _, _ => 0

/-- A comparison and the flags it raises (R200). -/
def fcompare (cnd : FCond) (a c : FNum) : Bool × FFlags :=
  let un := a.isNan || c.isNan
  let sig := a.isSig || c.isSig
  let r := cmpNum a c
  match cnd with
  | .eq => (!un && r == 0, flagIf sig fNV)
  | .ne => (un || r != 0, flagIf sig fNV)
  | .un => (un, flagIf sig fNV)
  | .lt => (!un && r == -1, flagIf un fNV)
  | .le => (!un && r != 1, flagIf un fNV)
  | .gt => (!un && r == 1, flagIf un fNV)
  | .ge => (!un && r != -1, flagIf un fNV)

/-- min or max of two codes, with -0 below +0 (R200). -/
def fminmax (f : Fmt) (wantMax : Bool) (x y : Nat) : Nat × FFlags :=
  let a := f.unpack x
  let c := f.unpack y
  let fl := flagIf (a.isSig || c.isSig) fNV
  if a.isNan && c.isNan then (f.nan, fl)
  else if a.isNan then (y, fl)
  else if c.isNan then (x, fl)
  else
    let r := cmpNum a c
    let aLess := r == -1 || (r == 0 && a.isNeg && !c.isNeg)
    ((if aLess == wantMax then y else x), fl)

/-- Rounding of a number to an integral value (R201). -/
def rndIntegral (f : Fmt) (md : RMode) (x : Nat) : Nat × FFlags :=
  match f.unpack x with
  | .nan s => (f.nan, flagIf s fNV)
  | .inf n => (f.inf n, 0)
  | .fin n m e =>
    if m = 0 ∨ 0 ≤ e then (x, 0)
    else
      let (r, inex) := roundShift md n m false (-e)
      (f.sign n + (f.round md n r 0 false).code, flagIf inex fNX)

/-- The class of a value, as a bit number (R211). -/
def classBit (f : Fmt) (x : Nat) : Nat :=
  match f.unpack x with
  | .nan s => if s then 8 else 9
  | .inf n => if n then 0 else 7
  | .fin n m _ =>
    if m = 0 then (if n then 3 else 4)
    else if m < 2 ^ f.mb then (if n then 2 else 5)
    else (if n then 1 else 6)

/-! ### Conversions (R90, R91, R92) -/

/-- The floating format of a conversion, none for an integer. -/
def cvtFmt : CvtF → Option Fmt
  | .f32 => some fp32
  | .f16 => some fp16
  | .bf16 => some bf16
  | .e4m3 => some e4m3
  | .e5m2 => some e5m2
  | .e2m1 => some e2m1
  | .int32 | .uint32 => none

/-- Bits of an element of a conversion (R202). -/
def cvtBits : CvtF → Nat
  | .f32 | .int32 | .uint32 => 32
  | .f16 | .bf16 => 16
  | .e4m3 | .e5m2 => 8
  | .e2m1 => 4

/-- Whether every number of s is one of d, so that the conversion is exact (R90); every other conversion is narrowing,
also between formats of one size (log 105). -/
def widening (d s : Fmt) : Bool :=
  s.mb ≤ d.mb && d.qmin ≤ s.qmin && (s.kind != 0 || d.kind == 0) &&
    decide (s.bias ≤ d.bias)

/-- The value of an element of a conversion. -/
def cvtValue (s : CvtF) (x : Nat) : FNum :=
  match cvtFmt s with
  | some f => f.unpack x
  | none =>
    if s = .int32 then let v := signed 32 x; .fin (v < 0) v.natAbs 0 else .fin false x 0

/-- The outcome of a finite value that exceeds the target (R88, R91). -/
def cvtOverflow (d : Fmt) (sat : Bool) (md : RMode) (neg : Bool) : Nat :=
  if d.kind = 2 then d.sign neg + d.maxCode
  else if sat then d.sign neg + d.maxCode
  else if d.kind = 1 then d.nan
  else d.overflow md neg

/-- A conversion to a floating format (R90, R91). `exact` says that the target is wider, so that .sat
has nothing to act on. -/
def cvtToFloat (d : Fmt) (exact sat : Bool) (md : RMode) (v : FNum) : Nat × FFlags :=
  match v with
  | .nan s => if d.kind = 2 then (0, fNV) else (d.nan, flagIf s fNV)
  | .inf n =>
    if d.kind = 0 then (if sat && !exact then (d.sign n + d.maxCode, 0) else (d.inf n, 0))
    else if sat then (d.sign n + d.maxCode, 0)
    else if d.kind = 1 then (d.nan, fNV)
    else (d.sign n + d.maxCode, fNV)
  | .fin n m e =>
    let r := d.round md n m e false
    if r.ovf then (cvtOverflow d sat md n, r.flags) else (d.sign n + r.code, r.flags)

/-- A conversion to a 32-bit integer (R90). -/
def cvtToInt (isSigned : Bool) (md : RMode) (v : FNum) : Nat × FFlags :=
  let lo : Int := if isSigned then -(2 ^ 31) else 0
  let hi : Int := if isSigned then 2 ^ 31 - 1 else 2 ^ 32 - 1
  match v with
  | .nan _ => (0, fNV)
  | .inf n => (unsigned 32 (if n then lo else hi), fNV)
  | .fin n m e =>
    let (r, inex) := roundShift md n m false (-e)
    let x : Int := if n then -(r : Int) else r
    if x < lo then (unsigned 32 lo, fNV)
    else if hi < x then (unsigned 32 hi, fNV)
    else (unsigned 32 x, flagIf inex fNX)

/-- A conversion of one element (R202). -/
def cvtElem (d s : CvtF) (sat : Bool) (md : RMode) (x : Nat) : Nat × FFlags :=
  let v := cvtValue s x
  match cvtFmt d with
  | some f =>
    let exact := match cvtFmt s with | some g => widening f g | none => false
    cvtToFloat f exact sat md v
  | none => cvtToInt (d == .int32) md v

/-- A conversion to E8M0 (R92). -/
def toE8m0 (v : FNum) : Nat × FFlags :=
  match v with
  | .nan _ | .inf _ => (0xFF, fNV)
  | .fin _ m e =>
    if m = 0 then (0, 0)
    else
      let x : Int := e + Nat.log2 m + 127
      if x < 0 then (0, fNX) else if 254 < x then (0xFE, fNX) else (x.toNat, 0)

/-- A conversion of an E8M0 byte to FP32 (R92). -/
def fromE8m0 (x : Nat) : Nat :=
  if x = 255 then fp32.nan else if x = 0 then 2 ^ 22 else x * 2 ^ 23

/-! ### FP32 arithmetic under rne, for the macros and the fixed formulas -/

/-- rne(x + y, FP32) with flags. -/
def addRne (x y : Nat) : Nat × FFlags := fp32.pack 0 (addExact 0 (fp32.unpack x) (fp32.unpack y))

/-- A BF16 code as an FP32 code. -/
def bf16To32 (x : Nat) : Nat := x % 65536 * 65536

/-- rne_int of a value (R14). -/
def rneInt (v : FNum) : Int :=
  match v with
  | .fin n m e =>
    let r := (roundShift 0 n m false (-e)).1
    if n then -(r : Int) else r
  | _ => 0

end Sys2Proof.Machine
end

