-- ==== Sys2Proof/Machine/Flags.lean ====
section
/-! DEFINITION. Flags and status: FPCSR and its rounding modes, PSTAT, the flag latches of imd and
fd. -/

namespace Sys2Proof.Machine

/-- FPCSR as a control register (R93). -/
def Partition.fpcsr (q : Partition) : Word := at' 8 q.rm.toNat ||| at' 0 q.fpf.toNat

/-- A write of FPCSR replaces the whole register (R93, R94). -/
def Partition.setFpcsr (q : Partition) (x : Word) : Partition :=
  { q with rm := BitVec.ofNat 2 (fld x 8 2), fpf := BitVec.ofNat 5 (fld x 0 5) }

/-- Flags are ORed in (R94). -/
def Partition.raise (q : Partition) (f : FFlags) : Partition := { q with fpf := q.fpf ||| f }

/-- The mode that RC selects (R87, R159). -/
def Partition.rcMode (q : Partition) : Rc → RMode
  | .csr => q.rm
  | .rne => 0
  | .rtz => 1
  | .rdn => 2
  | .rup => 3

/-- The mode that a conversion's modifier selects (R87, R159). -/
def Partition.cvtMode (q : Partition) : CvtRnd → RMode
  | .csr => q.rm
  | .rne => 0
  | .rtz => 1
  | .rdn => 2

/-- PSTAT of partition p of a core (R81). HELPER is set in mem only. -/
def pstatOf (c : Core) (p : Nat) (q : Partition) : Word :=
  bitAt 15 q.lcol ||| bitAt 14 q.xcol ||| bitAt 3 (p == 11 && c.helper.any fun h => !h.dead) |||
    bitAt 2 q.loop.active ||| bitAt 1 (c.isLocked p) ||| bitAt 0 c.dbg

/-- A write of PSTAT clears the sticky bits written as 1 (R81). -/
def Partition.clearPstat (q : Partition) (x : Word) : Partition :=
  { q with lcol := q.lcol && !bit x 15, xcol := q.xcol && !bit x 14 }

/-- imd.flag: 1 for a zero divisor, 2 for -2^(n-1) ÷ -1, else 0 (R192). -/
def imdFlag (isSigned : Bool) (n a c : Nat) : Nat :=
  if c = 0 then 1 else if isSigned ∧ a = 2 ^ (n - 1) ∧ c = 2 ^ n - 1 then 2 else 0

/-- fd.flag: t ≤ 0 or t a NaN (R212). -/
def fdFlag (t : Nat) : Nat :=
  match fp32.unpack t with
  | .nan _ => 1
  | .inf n => if n then 1 else 0
  | .fin n m _ => if n ∨ m = 0 then 1 else 0

end Sys2Proof.Machine
end

