-- ==== Sys2Proof/Machine/Operands.lean ====
section
/-! DEFINITION. Every operand form: sources with their widths, the extension of a value to a wider
destination, views, control registers, and every destination but a trigger (R65 to R81, R141 to
R146). -/

namespace Sys2Proof.Machine

/-- What an issue group works on: its core and its cluster's queues as they change, and the partition
as it stood at the start of the cycle. -/
structure Env where
  k : Nat
  p : Nat
  core : Core
  q0 : Partition
  hq : List Handoff
  /-- Registers of the firmware core as writes of the ACLK leave them, and as it began (R79). -/
  fw : Firmware
  fw0 : Firmware
deriving DecidableEq, Repr

/-- The issuing partition as it changes. -/
def Env.q (e : Env) : Partition := e.core.prt e.p

/-- Change the issuing partition. -/
def Env.modQ (e : Env) (f : Partition → Partition) : Env := { e with core := e.core.modPrt e.p f }

/-- Change the shared storage. -/
def Env.modSh (e : Env) (f : Shared → Shared) : Env := { e with core := e.core.modSh f }

/-- Shared storage at the start of the ACLK (R68). -/
def Env.sh0 (e : Env) : Shared := e.core.sh0

/-! ### Values of moves -/

/-- How a value widens (R65, R146). -/
inductive Ext where
  | zero (ws : Nat)
  | sign (ws : Nat)
  | imm21
  | imm64
deriving DecidableEq, Repr

/-- A value that a move carries: its bytes, its poison bit and word, and how it widens. -/
structure Read where
  bits : Wide
  psn : Bool
  pw : Word
  ext : Ext
deriving DecidableEq, Repr

/-- The low n bytes of a number. -/
def lowBytes (n x : Nat) : Nat := x % 2 ^ (8 * n)

/-- A number of n bits repeated m times. -/
def replicateNat (n m x : Nat) : Nat := (List.range m).foldl (fun acc i => acc + x * 2 ^ (n * i)) 0

/-- The value at a destination of wd bytes (R65, R146). -/
def Read.at (r : Read) (wd : Nat) : Wide :=
  let x := r.bits.toNat
  match r.ext with
  | .zero ws => BitVec.ofNat 8192 (lowBytes (min ws wd) x)
  | .sign ws =>
    BitVec.ofNat 8192 (if wd ≤ ws then lowBytes wd x else unsigned (8 * wd) (signed (8 * ws) x))
  | .imm21 =>
    let v := signed 21 x
    BitVec.ofNat 8192 (if wd ≤ 8 then lowBytes wd (unsigned 64 v) else replicateNat 32 (wd / 4) (unsigned 32 v))
  | .imm64 => BitVec.ofNat 8192 (if wd ≤ 8 then lowBytes wd x else replicateNat 64 (wd / 8) (x % 2 ^ 64))

/-- The poison word of a main-file read (R352). -/
def regWord : Word := poisonWord 0x40 false false noIndex

/-- The slot that a value becomes at a destination of wd bytes; the poison bit travels, and with it the
poison word of a main-file read (R352, R420). -/
def Read.slot (r : Read) (wd : Nat) : Slot := ⟨r.at wd, r.psn, r.psn && r.pw == regWord⟩

/-- A clean value of ws bytes. -/
def Read.clean (ws x : Nat) : Read := ⟨BitVec.ofNat 8192 x, false, 0, .zero ws⟩

/-- The poison word of a slot: in its bytes [7:0] (R351), but for a value read from the register space
(R352). -/
def Slot.word (s : Slot) : Word := if s.reg then regWord else s.bits.setWidth 64

/-- The value of a slot of ws bytes. -/
def Read.ofSlot (ws : Nat) (s : Slot) : Read := ⟨s.bits, s.psn, s.word, .zero ws⟩

/-! ### Views (R69, R70, R72) -/

/-- Entry width of a view in bytes. -/
def viewWidth (v : Word) : Nat :=
  match fld v 62 2 with
  | 0 => 4
  | 1 => 8
  | 2 => 128
  | _ => 1024

/-- Whether ETYPE extends by sign (R72). -/
def etypeSigned (t : Nat) : Bool := t == 1 || t == 3 || t == 5 || t == 7 || t == 15

/-- Byte address of entry i (R70). -/
def viewAddr (v : Word) (i : Nat) : Nat := fld v 0 18 + 4 * fld v 26 16 * i

/-- Whether entry i is in bounds (R70). -/
def viewOk (v : Word) (i : Nat) : Bool :=
  let w := viewWidth v
  let al := min w 128
  decide (i < fld v 42 14) && decide (viewAddr v i + w ≤ 196608) && fld v 0 18 % al == 0 &&
    4 * fld v 26 16 % al == 0

/-- View v of a partition. -/
def Partition.view (q : Partition) (v : BitVec 3) : Word := q.views.getD v.toNat 0

/-- A main-file entry (R65, R68, R70, R352). -/
def readMain (h : Shared) (view : Word) (i : Nat) : Read :=
  let w := viewWidth view
  let a := viewAddr view i
  let psn := Cells.anyIn h.regPsn a w
  ⟨Cells.read h.reg a w, psn, if psn then regWord else 0,
    if etypeSigned (fld view 58 4) then .sign w else .zero w⟩

/-! ### Control registers (R79, R80) -/

/-- RSCALL (R37). -/
def rscAll (h : Shared) : Word :=
  (List.range 12).foldl (fun acc p => acc ||| at' (4 * p) ((h.rsc.getD p 0).toNat % 16)) 0

/-- RGNADDR (R187). -/
def Partition.rgnaddr (q : Partition) : Word := at' 32 q.rgnWrem.toNat ||| at' 2 q.rgnPc.toNat

/-- The word of an FTB entry (R101). -/
def FtbEntry.dw (e : FtbEntry) : Nat → Word
  | 0 => e.vabase
  | 1 => e.valimit
  | 2 => e.iabase
  | _ => e.attr

/-- Control registers 0x400 to 0xFFF on the firmware core (R317, R354, R362, R363). -/
def fwRead (f : Firmware) (i : Nat) : Word :=
  match i with
  | 0x400 => f.rrbase
  | 0x401 => f.rrcfg.setWidth 64
  | 0x402 => f.rrtail.setWidth 64
  | 0x403 => f.rrhead.setWidth 64
  | 0x404 => bitAt 0 f.rrovf
  | 0x408 => f.dbg0
  | 0x409 => f.dbg1
  | 0x40A => f.fwtvec
  | 0x40C => f.rec0
  | 0x40D => f.rec1
  | 0x40E => f.rec2
  | 0x40F => f.rec3
  | i => Config.firmwareRegister i

/-- A control register as a partition reads it at the start of its cycle. -/
def Env.cregRead (e : Env) (i : Nat) : Word :=
  let h := e.sh0
  if i < 0x100 then
    let s := h.semaAt i
    bitAt 16 s.ovf ||| s.val.setWidth 64
  else if i < 0x108 then e.q0.views.getD (i - 0x100) 0
  else if i < 0x10C then at' 2 (e.q0.bt.getD (i - 0x108) 0).toNat
  else if 0x200 ≤ i ∧ i < 0x400 then FtbEntry.dw (h.ftb.getD ((i - 0x200) / 4) ⟨0, 0, 0, 0⟩) (i % 4)
  else if 0x400 ≤ i then (if isFwCore e.k then fwRead e.fw0 i else 0)
  else if 0x130 ≤ i ∧ i < 0x140 then
    let n := i - 0x130
    if n = 7 ∨ 10 ≤ n then 0 else (h.gap.getD n 0).setWidth 64
  else
    match i with
    | 0x10C => e.q0.rgnaddr
    | 0x10D => at' 2 e.q0.rah.toNat
    | 0x10E => e.q0.fpcsr
    | 0x10F => pstatOf e.core e.p e.q0
    | 0x110 => h.scnt
    | 0x111 => (h.rsc.getD e.p 0).setWidth 64
    | 0x112 => rscAll h
    | 0x118 => coordOf e.k e.p e.core
    | 0x120 => e.q0.padv
    | 0x121 => e.q0.mxpad
    | 0x122 => e.q0.kvpad
    | 0x123 => e.q0.kvpos
    | 0x140 => h.evqstat
    | _ => 0

/-- Fields of VIEWn that hold what is written; the reserved bits read 0 (R69). -/
def viewMask : Word := 0xFCFFFFFFFC03FFFF

/-- The fields of DW0 and of DW3 of a trap record (R344). -/
def recMask0 : Word := 0xFFFFFF80FFFFFFFF
/-- DW3. -/
def recMask3 : Word := 0xFFFFFFFF00007FFC

/-- A firmware register written (R317, R354, R362, R363). The low 12 bits of a RRBASE that is not aligned to 4 KiB are
dropped (log 127). All four of FWTREC take what firmware writes, whatever R344 codes the record's fields, and read zero in
its reserved bits (log 136). -/
def fwWrite (f : Firmware) (i : Nat) (x : Word) : Firmware :=
  match i with
  | 0x400 => { f with rrbase := x &&& 0x0000FFFFFFFFF000#64 }
  | 0x401 => { f with rrcfg := BitVec.ofNat 4 (fld x 0 4) }
  | 0x403 => { f with rrhead := BitVec.ofNat 32 (fld x 0 32) }
  | 0x404 => { f with rrovf := f.rrovf && !bit x 0 }
  | 0x408 => { f with dbg0 := x }
  | 0x409 => { f with dbg1 := x }
  | 0x40A => { f with fwtvec := x }
  | 0x40C => { f with rec0 := x &&& recMask0 }
  | 0x40D => { f with rec1 := x }
  | 0x40E => { f with rec2 := x }
  | 0x40F => { f with rec3 := x &&& recMask3 }
  | _ => f

/-- PADV, MXPAD and KVPAD keep the fields that R136 gives them, KVPOS those of R127. -/
def padvMask : Word := 0xFFFFFFFFFFFFFFFF
/-- MXPAD (R136). -/
def mxpadMask : Word := 0xFFFF0001FFFFFFFF
/-- KVPAD (R136). -/
def kvpadMask : Word := 0x00000001FFFFFFFF
/-- KVPOS (R127). -/
def kvposMask : Word := 0x00000003FFFFFFFF

/-- A word of an FTB entry written by firmware (R101). -/
def FtbEntry.put (t : FtbEntry) (i : Nat) (x : Word) : FtbEntry :=
  match i with
  | 0 => { t with vabase := x &&& 0x0000FFFFFFFFF000#64 }
  | 1 => { t with valimit := x &&& 0x0000FFFFFFFFF000#64 }
  | 2 => { t with iabase := x &&& 0x0000FFFFFFFFF000#64 }
  | _ => { t with attr := x &&& 0xFE00000000000000#64 }

/-- A control register written at the end of a cycle (R79, R80). RO registers and fields ignore it;
FTB entries and PACE are written by firmware only (R101, R318). -/
def Env.cregWrite (e : Env) (i : Nat) (x : Word) : Env :=
  if i < 0x100 then
    { e with core := { e.core with semWrs := e.core.semWrs ++ [⟨i, e.p, BitVec.ofNat 16 (fld x 0 16), bit x 16⟩] } }
  else if i < 0x108 then e.modQ fun q => { q with views := q.views.set (i - 0x100) (x &&& viewMask) }
  else if i < 0x10C then e.modQ fun q => { q with bt := q.bt.set (i - 0x108) (BitVec.ofNat 13 (fld x 2 13)) }
  else if 0x200 ≤ i ∧ i < 0x400 then
    if isFwCore e.k then
      e.modSh fun h => { h with ftb := h.ftb.set ((i - 0x200) / 4) (FtbEntry.put (h.ftb.getD ((i - 0x200) / 4) ⟨0, 0, 0, 0⟩) (i % 4) x) }
    else e
  else if 0x400 ≤ i then (if isFwCore e.k then { e with fw := fwWrite e.fw i x } else e)
  else if 0x130 ≤ i ∧ i < 0x140 then
    let n := i - 0x130
    if isFwCore e.k ∧ n ≠ 7 ∧ n < 10 then e.modSh fun h => { h with gap := h.gap.set n (BitVec.ofNat 16 (fld x 0 16)) }
    else e
  else
    match i with
    | 0x10C => e.modQ fun q => { q with rgnPc := BitVec.ofNat 13 (fld x 2 13), rgnWrem := BitVec.ofNat 9 (fld x 32 9) }
    | 0x10D => e.modQ fun q => { q with rah := BitVec.ofNat 13 (fld x 2 13) }
    | 0x10E => e.modQ fun q => q.setFpcsr x
    | 0x10F => e.modQ fun q => q.clearPstat x
    | 0x120 => e.modQ fun q => { q with padv := x &&& padvMask }
    | 0x121 => e.modQ fun q => { q with mxpad := x &&& mxpadMask }
    | 0x122 => e.modQ fun q => { q with kvpad := x &&& kvpadMask }
    | 0x123 => e.modQ fun q => { q with kvpos := x &&& kvposMask }
    | 0x140 => if bit x 15 then e.modSh fun h => { h with evOvf := false, evLost := 0 } else e
    | _ => e

/-! ### Handoff queues (R25, R74, R75) -/

/-- The cluster's queue that port n of core k names (R25). -/
def hqIndex (k : Nat) (n : BitVec 4) : Nat := if isFcore k then n.toNat else 2 * corOf k + n.toNat

/-- Queue i of a cluster. -/
def hqAt (l : List Handoff) (i : Nat) : Handoff := l.getD i ⟨[], false, false, none⟩

/-- Entries that the reader sees: visible ones at the front (R75). -/
def Handoff.visible (h : Handoff) : Nat := (h.ents.takeWhile HqEntry.vis).length

/-- Free entries for a push: 64, and a granted reserve entry (R75, R409). -/
def Handoff.room (h : Handoff) : Nat := 64 + (if h.granted then 1 else 0) - h.ents.length

/-- Append an entry (R75). The FCLK that begins next is the first after the push. -/
def Handoff.push (h : Handoff) (x : BitVec 1024) : Handoff :=
  { h with ents := h.ents ++ [⟨x, 1, false⟩], granted := false, reserve := h.reserve || h.granted }

/-- Remove the oldest entry; the reserve entry is free again at 63 entries, and a grant that no push has used is void
(R75, R409). -/
def Handoff.pop (h : Handoff) : Handoff :=
  let es := h.ents.drop 1
  let more := decide (63 < es.length)
  { h with ents := es, reserve := h.reserve && more, granted := h.granted && more }

/-! ### Sources -/

/-- Width of a unit's latches in bytes (R65, R193, R214, R225). -/
def latchWidth (w : Nat) : UnitName → Nat
  | .br | .lp | .sy | .ix0 | .ix1 | .cmp | .imd | .fs | .fd | .rw | .tg => 8
  | .gm0 | .gm1 => 128
  | .mx | .kv => 1024
  | _ => w

/-- The latch that a source names: those of mx stand in the macros (R56, R226). -/
def Env.latch (e : Env) (u : UnitName) (sel : LatchSel) (m : BitVec 3) : Slot :=
  if u = .mx then (e.sh0.cim m).latch sel else (e.q0.unit u).latch sel

/-- A source that a move names beside a queue pop, read at the start of the cycle. -/
def Env.readPlain (e : Env) : Src → Read
  | .main v i => readMain e.sh0 (e.q0.view v) i.toNat
  | .latch u sel m => .ofSlot (latchWidth (prtWidth e.p) u) (e.latch u sel m)
  | .ofile j => .ofSlot (prtWidth e.p) (e.q0.ofile.getD j.toNat .zero)
  | .pred k =>
    let b := if e.q0.pred k then 1 else 0
    ⟨BitVec.ofNat 8192 b, e.q0.predPoison k, BitVec.ofNat 64 b, .zero 1⟩
  | .xi j => .ofSlot (prtWidth e.p) (e.q0.xi.getD j.toNat .zero)
  | .hq n =>
    match (hqAt e.hq (hqIndex e.k n)).ents with
    | x :: _ => .clean 128 x.data.toNat
    | [] => .clean 128 0
  | .creg i => .clean 8 (e.cregRead i.toNat).toNat
  | .scnt => .clean 8 e.sh0.scnt.toNat
  | .coord => .clean 8 (coordOf e.k e.p e.core).toNat
  | .imm x => ⟨x.setWidth 8192, false, 0, .imm21⟩

/-- Reading a source; a pop removes the entry it delivers (R75, R78). -/
def Env.readSrc (e : Env) (s : Src) : Env × Read :=
  match s with
  | .hq n =>
    let i := hqIndex e.k n
    ({ e with hq := e.hq.set i (hqAt e.hq i).pop }, e.readPlain s)
  | _ => (e, e.readPlain s)

/-! ### Destinations -/

/-- Width of an operand port in bytes (R66, R193, R214). -/
def portWidth (w : Nat) (u : UnitName) (o : PortSel) : Nat :=
  match u, o with
  | .gm0, .o1 | .gm1, .o1 => 128
  | .gm0, _ | .gm1, _ => 8
  | .mx, _ | .kv, _ => 1024
  | .br, _ | .lp, _ | .sy, _ | .ix0, _ | .ix1, _ | .cmp, _ | .imd, _ | .fs, _ | .fd, _ | .rw, _ | .tg, _ => 8
  | _, _ => w

/-- Width of a trigger port in bytes (R66, R193, R214). -/
def trigWidth (w : Nat) : UnitName → Nat
  | .ks0 | .ks1 | .gm0 | .gm1 | .br | .lp | .sy | .ix0 | .ix1 | .cmp | .imd | .fs | .fd | .rw | .tg => 8
  | .mx | .kv => 1024
  | _ => w

/-- An exchange is sent (R73): two SCNT steps within one locked group, else two ACLK. -/
def Env.sendExchange (e : Env) (q : BitVec 4) (j : BitVec 3) (x : Slot) : Env :=
  let l := e.core.isLocked e.p && e.core.isLocked q.toNat
  { e with core := { e.core with xfly := e.core.xfly ++ [⟨e.p, q.toNat, j, x, 2, l⟩] } }

/-- Writing a destination that is not a trigger (R66, R78). Views are those of the cycle's start
(R71). -/
def Env.writeDst (e : Env) (r : Read) : Dst → Env
  | .main v i =>
    let view := e.q0.view v
    let w := viewWidth view
    e.modSh fun h => regWrite h (viewAddr view i.toNat) w (r.at w).toNat r.psn
  | .ofile j => e.modQ fun q => { q with ofile := q.ofile.set j.toNat (r.slot (prtWidth e.p)) }
  | .pred k => e.modQ fun q => q.setPred k ((r.at 1).getLsbD 0) r.psn
  | .xo q j => e.sendExchange q j (r.slot (prtWidth q.toNat))
  | .hq n =>
    let i := hqIndex e.k n
    { e with hq := e.hq.set i ((hqAt e.hq i).push ((r.at 128).setWidth 1024)) }
  | .creg i => e.cregWrite i.toNat ((r.at 8).setWidth 64)
  | .sink => e
  | .port u o =>
    e.modQ fun q => q.setUnit u ((q.unit u).setPort o (r.slot (portWidth (prtWidth e.p) u o)))
  | .trig _ => e

end Sys2Proof.Machine
end

