-- ==== Sys2Proof/Machine/Scalar.lean ====
section
/-! DEFINITION. What the integer, compare, multiply and divide units and the core-store ports compute
(R190 to R195). -/

namespace Sys2Proof.Machine

/-- Bits of class W (R155). -/
def wBits : IntW → Nat
  | .d => 64
  | .w => 32
  | .h => 16
  | .b => 8

/-- Bits of the .d and .w modifiers. -/
def dwBits (w32 : Bool) : Nat := if w32 then 32 else 64

/-- Leading zeros of n bits, 0 giving n. -/
def clzNat (n x : Nat) : Nat := if x = 0 then n else n - 1 - Nat.log2 x

/-- Trailing zeros of n bits, 0 giving n. -/
def ctzNat : Nat → Nat → Nat
  | 0, _ => 0
  | n + 1, x => if x % 2 = 1 then 0 else 1 + ctzNat n (x / 2)

/-- Set bits of n bits. -/
def popcNat : Nat → Nat → Nat
  | 0, _ => 0
  | n + 1, x => x % 2 + popcNat n (x / 2)

/-- The bytes of m bytes reversed. -/
def bswapNat (m x : Nat) : Nat :=
  (List.range m).foldl (fun acc i => acc + x / 2 ^ (8 * i) % 256 * 2 ^ (8 * (m - 1 - i))) 0

/-- Bits kept where the mask is 0. -/
def andNot (n a c : Nat) : Nat := a &&& (2 ^ n - 1 - c % 2 ^ n)

/-- The position of a field operand (R190). -/
def fieldPos (t : Nat) : Nat := t % 64

/-- The length of a field operand, above 64 taken as 64 (R190). -/
def fieldLen (t : Nat) : Nat := min (t / 256 % 128) 64

/-- The value of ix (R190): a = o1, b = o2, t the trigger datum, at n bits. -/
def ixValue (op : IxOp) (n o1 o2 t : Nat) : Nat :=
  let a := o1 % 2 ^ n
  let b := o2 % 2 ^ n
  let c := t % 2 ^ n
  let sh := c % n
  let x := match op with
    | .add => a + c
    | .sub => a + (2 ^ n - c)
    | .and => a &&& c
    | .or => a ||| c
    | .xor => a ^^^ c
    | .andn => andNot n a c
    | .shl => a * 2 ^ sh
    | .shr => a / 2 ^ sh
    | .sar => unsigned n (signed n a / 2 ^ sh)
    | .rol => a * 2 ^ sh ||| a / 2 ^ (n - sh)
    | .min => if signed n a < signed n c then a else c
    | .max => if signed n a < signed n c then c else a
    | .minu => min a c
    | .maxu => max a c
    | .clz => clzNat n c
    | .ctz => ctzNat n c
    | .popc => popcNat n c
    | .bswap => bswapNat (n / 8) c
    | .bext => a / 2 ^ fieldPos t &&& (2 ^ fieldLen t - 1)
    | .bins =>
      let m := 2 ^ fieldLen t - 1
      andNot n a (m * 2 ^ fieldPos t) ||| (b &&& m) * 2 ^ fieldPos t
    | .sel => if t % 2 = 1 then a else b
    | .mov => c
  x % 2 ^ n

/-- Whether ix reads o1 (R58, R190). -/
def ixUsesO1 : IxOp → Bool
  | .clz | .ctz | .popc | .bswap | .mov => false
  | _ => true

/-- Whether ix reads o2 (R58, R190). -/
def ixUsesO2 : IxOp → Bool
  | .bins | .sel => true
  | _ => false

/-- A condition on n bits (R191). -/
def condHolds (c : Cond) (n x y : Nat) : Bool :=
  let a := x % 2 ^ n
  let b := y % 2 ^ n
  match c with
  | .eq => a == b
  | .ne => a != b
  | .lt => decide (signed n a < signed n b)
  | .le => decide (signed n a ≤ signed n b)
  | .gt => decide (signed n b < signed n a)
  | .ge => decide (signed n b ≤ signed n a)
  | .ltu => decide (a < b)
  | .leu => decide (a ≤ b)
  | .gtu => decide (b < a)
  | .geu => decide (b ≤ a)

/-- The predicate operations of cmp (R191). -/
def predValue (op : PredOp) (o1 t : Nat) : Nat :=
  let a := o1 % 2 == 1
  let c := t % 2 == 1
  let x := match op with
    | .pand => a && c
    | .por => a || c
    | .pxor => a != c
    | .pandn => a && !c
  if x then 1 else 0

/-- Whether an imd operation is signed. -/
def imdSigned : ImdOp → Bool
  | .mulh | .div | .rem => true
  | _ => false

/-- Whether an imd operation is a division, which writes flag and has latency 20. -/
def imdDivides : ImdOp → Bool
  | .div | .divu | .rem | .remu => true
  | _ => false

/-- Quotient and remainder (R192): the rows for a zero divisor and for -2^(n-1) ÷ -1 first. -/
def imdDivRem (isSigned : Bool) (n a c : Nat) : Nat × Nat :=
  if c = 0 then (2 ^ n - 1, a)
  else if imdFlag isSigned n a c = 2 then (a, 0)
  else if isSigned then
    (unsigned n ((signed n a).tdiv (signed n c)), unsigned n ((signed n a).tmod (signed n c)))
  else (a / c, a % c)

/-- res of imd (R192). -/
def imdValue (op : ImdOp) (n o1 t : Nat) : Nat :=
  let a := o1 % 2 ^ n
  let c := t % 2 ^ n
  match op with
  | .mul => a * c % 2 ^ n
  | .mulh => unsigned n (signed n a * signed n c / 2 ^ n)
  | .mulhu => a * c / 2 ^ n
  | .div => (imdDivRem true n a c).1
  | .divu => (imdDivRem false n a c).1
  | .rem => (imdDivRem true n a c).2
  | .remu => (imdDivRem false n a c).2

/-! ### Core-store ports -/

/-- An address with its low bits cleared to a size (R193). -/
def alignTo (z a : Nat) : Nat := a / z * z

/-- A ks address: t[19:0] (R193). -/
def ksAddr (t : Nat) : Nat := t % 1048576

/-- ks ld: the W bytes at the aligned address (R193). -/
def ksLoad (h : Shared) (w t : Nat) : Nat × Bool :=
  let a := alignTo w (ksAddr t)
  (csRead h a w, csPoisoned h a w)

/-- ks ldb: one element in every element of res (R193). -/
def ksLoadB (h : Shared) (w e t : Nat) : Nat × Bool :=
  let a := alignTo e (ksAddr t)
  (replicateNat (8 * e) (w / e) (csRead h a e), csPoisoned h a e)

/-- Bytes of a lane of ldx and stx (R194). -/
def ksLaneBytes (e : Nat) : Nat := max e 4

/-- The address of lane l of ldx and stx (R194). -/
def ksLaneAddr (e t offs l : Nat) : Nat :=
  alignTo e (csWrap (ksAddr t + offs / 2 ^ (8 * ksLaneBytes e * l) % 1048576))

/-- ks ldx (R194). -/
def ksGather (h : Shared) (w e t offs : Nat) : Nat × Bool :=
  let la := ksLaneBytes e
  (List.range (w / la)).foldl (fun (acc : Nat × Bool) l =>
    let a := ksLaneAddr e t offs l
    (acc.1 + csRead h a e * 2 ^ (8 * la * l), acc.2 || csPoisoned h a e)) (0, false)

/-- ks st: the W bytes of o1 (R193, R195). -/
def ksStore (h : Shared) (w t x : Nat) : Shared := csStore h (alignTo w (ksAddr t)) w (lowBytes w x)

/-- ks stx: lanes in ascending order, so that the highest wins (R194). -/
def ksScatter (h : Shared) (w e t offs x : Nat) : Shared :=
  let la := ksLaneBytes e
  (List.range (w / la)).foldl (fun h l =>
    csStore h (ksLaneAddr e t offs l) e (x / 2 ^ (8 * la * l) % 2 ^ (8 * e))) h

end Sys2Proof.Machine
end

