-- ==== Sys2Proof/Machine/Vector.lean ====
section
/-! DEFINITION. What the vector integer, permute and condition units compute, lane by lane (R197,
R198, R205 to R211). -/

namespace Sys2Proof.Machine

/-- Lane l of k bits (R197). -/
def lane (k x l : Nat) : Nat := x / 2 ^ (k * l) % 2 ^ k

/-- Lanes of k bits put together, lane 0 lowest. -/
def ofLanes (k : Nat) (xs : List Nat) : Nat := xs.foldr (fun x acc => x % 2 ^ k + 2 ^ k * acc) 0

/-- The first m lanes of k bits. -/
def lanesOf (k m x : Nat) : List Nat := (List.range m).map (lane k x)

/-- A value computed lane by lane. -/
def mapLanes (k m : Nat) (f : Nat → Nat) : Nat := ofLanes k ((List.range m).map f)

/-- A signed value held to n bits (R198). -/
def satSigned (n : Nat) (x : Int) : Nat :=
  let hi : Int := 2 ^ (n - 1)
  unsigned n (if x < -hi then -hi else if hi ≤ x then hi - 1 else x)

/-- One lane of va (R198). -/
def vaLane (op : VaOp) (k a b c : Nat) : Nat :=
  match op with
  | .add => a + c
  | .sub => a + (2 ^ k - c)
  | .mul => a * c
  | .mulh => unsigned k (signed k a * signed k c / 2 ^ k)
  | .and => a &&& c
  | .or => a ||| c
  | .xor => a ^^^ c
  | .andn => andNot k a c
  | .shl => a * 2 ^ (c % k)
  | .shr => a / 2 ^ (c % k)
  | .sar => unsigned k (signed k a / 2 ^ (c % k))
  | .min => if signed k a < signed k c then a else c
  | .max => if signed k a < signed k c then c else a
  | .minu => min a c
  | .maxu => max a c
  | .abs => unsigned k (signed k c).natAbs
  | .sel => if c % 2 = 1 then a else b
  | .popc => popcNat k c
  | .clz => clzNat k c
  | .adds => satSigned k (signed k a + signed k c)
  | .subs => satSigned k (signed k a - signed k c)

/-- va over w bytes (R198). -/
def vaValue (op : VaOp) (w k o1 o2 t : Nat) : Nat :=
  mapLanes k (8 * w / k) fun l => vaLane op k (lane k o1 l) (lane k o2 l) (lane k t l)

/-- Whether va reads o1 (R58). -/
def vaUsesO1 : VaOp → Bool
  | .abs | .popc | .clz => false
  | _ => true

/-- Whether va reads o2 (R58). -/
def vaUsesO2 : VaOp → Bool
  | .sel => true
  | _ => false

/-- The permutes, integer reductions and scans of vp: res, and res1 where it is written (R205,
R206). -/
def vpValue (op : VpOp) (w k o1 t : Nat) : Nat × Option Nat :=
  let m := 8 * w / k
  let a := lane k o1
  let c := lane k t
  match op with
  | .perm => (mapLanes k m fun l => a (c l % m), none)
  | .bcast => (mapLanes k m fun _ => a (c 0 % m), none)
  | .rot => (mapLanes k m fun l => a ((l + (m - c 0 % m)) % m), none)
  | .pack =>
    (mapLanes k m fun l => if l < m / 2 then lane (2 * k) o1 l else lane (2 * k) t (l - m / 2), none)
  | .unpk =>
    let h := o1 % 2
    let sx := o1 / 2 % 2 == 1
    (mapLanes k m fun l =>
      let e := lane (k / 2) t (h * m + l)
      if sx then unsigned k (signed (k / 2) e) else e, none)
  | .cmprs =>
    let xs := ((List.range m).filter fun l => c l % 2 == 1).map a
    (ofLanes k xs, some xs.length)
  | .redadd => ((lanesOf k m t).sum % 2 ^ k, none)
  | .redmax => ((lanesOf k m t).foldl (fun x y => if signed k x < signed k y then y else x) (c 0), none)
  | .redmin => ((lanesOf k m t).foldl (fun x y => if signed k y < signed k x then y else x) (c 0), none)
  | .scan =>
    (ofLanes k ((lanesOf k m t).foldl (fun (acc : List Nat × Nat) x => (acc.1 ++ [acc.2 + x], acc.2 + x)) ([], 0)).1, none)
  | .xscan =>
    (ofLanes k ((lanesOf k m t).foldl (fun (acc : List Nat × Nat) x => (acc.1 ++ [acc.2 ^^^ x], acc.2 ^^^ x)) ([], 0)).1, none)

/-- Whether vp reads o1 (R58). -/
def vpUsesO1 : VpOp → Bool
  | .perm | .bcast | .rot | .pack | .unpk | .cmprs => true
  | _ => false

/-- Latency of a vp operation (R60). -/
def vpLatency (op : VpOp) : Nat := if vpUsesO1 op then 2 else 6

/-- The carry-less product of two k-bit lanes, 2k bits (R208). -/
def clmulLane : Nat → Nat → Nat → Nat
  | 0, _, _ => 0
  | n + 1, a, c => (if c % 2 = 1 then a else 0) ^^^ 2 * clmulLane n a (c / 2)

/-- vp clmul: res and res1 (R208). -/
def clmulValue (w k o1 t : Nat) : Nat × Nat :=
  let m := 8 * w / k
  (mapLanes k m fun l => clmulLane k (lane k o1 l) (lane k t l),
    mapLanes k m fun l => clmulLane k (lane k o1 l) (lane k t l) / 2 ^ k)

/-- All ones or zero (R209). -/
def ones (k : Nat) (b : Bool) : Nat := if b then 2 ^ k - 1 else 0

/-- vc.cmp (R209). -/
def vcCmpValue (c : Cond) (w k o1 t : Nat) : Nat :=
  mapLanes k (8 * w / k) fun l => ones k (condHolds c k (lane k o1 l) (lane k t l))

/-- The votes and counts of vc over w bytes (R210). -/
def voteValue (op : VoteOp) (w t : Nat) : Nat :=
  let x := lowBytes w t
  match op with
  | .any => if x = 0 then 0 else 1
  | .all => if x + 1 = 2 ^ (8 * w) then 1 else 0
  | .cnt => popcNat (8 * w) x

end Sys2Proof.Machine
end

