-- ==== Sys2Proof/Machine/Float.lean ====
section
/-! DEFINITION. What the floating-point units compute: vf, fs, vx, fd, the floating reductions of vp,
the floating conditions of vc and the pixel unit (R199 to R204, R207, R209, R211, R212, R243,
R244). -/

namespace Sys2Proof.Machine

/-- The format of class F (R155). -/
def fFmt : FpF → Fmt
  | .f32 => fp32
  | .f16 => fp16
  | .bf16 => bf16

/-- Codes with the OR of their flags (R94), k bits each. -/
def joinLanes (k : Nat) (xs : List (Nat × FFlags)) : Nat × FFlags :=
  (ofLanes k (xs.map Prod.fst), xs.foldl (fun f x => f ||| x.2) 0)

/-- A value computed lane by lane with flags. -/
def mapLanesF (k m : Nat) (f : Nat → Nat × FFlags) : Nat × FFlags := joinLanes k ((List.range m).map f)

/-- One element of vf (R199 to R201). -/
def vfElem (op : VfOp) (f : Fmt) (md : RMode) (a b c : Nat) : Nat × FFlags :=
  let x := f.unpack a
  let y := f.unpack b
  let z := f.unpack c
  match op with
  | .add => f.pack md (addExact md x z)
  | .sub => f.pack md (addExact md x z.negate)
  | .mul => f.pack md (mulExact x z)
  | .fma => f.pack md (fmaExact md x y z)
  | .nma => f.pack md (fmaExact md x.negate y z)
  | .min => fminmax f false a c
  | .max => fminmax f true a c
  | .abs => if z.isNan then (f.nan, flagIf z.isSig fNV) else (c % 2 ^ (f.eb + f.mb), 0)
  | .neg => if z.isNan then (f.nan, flagIf z.isSig fNV) else ((c + 2 ^ (f.eb + f.mb)) % 2 ^ f.bits, 0)
  | .rnd => rndIntegral f md c

/-- Whether vf reads o1 (R58). -/
def vfUsesO1 : VfOp → Bool
  | .abs | .neg | .rnd => false
  | _ => true

/-- Whether vf reads o2 (R58). -/
def vfUsesO2 : VfOp → Bool
  | .fma | .nma => true
  | _ => false

/-- vf over w bytes (R197, R199). -/
def vfValue (op : VfOp) (f : Fmt) (md : RMode) (w o1 o2 t : Nat) : Nat × FFlags :=
  mapLanesF f.bits (8 * w / f.bits) fun l =>
    vfElem op f md (lane f.bits o1 l) (lane f.bits o2 l) (lane f.bits t l)

/-- The operation of vf that an fs operation is (R199). -/
def fsAsVf : FsOp → VfOp
  | .add => .add
  | .sub => .sub
  | .mul => .mul
  | .fma => .fma
  | .min => .min
  | .max => .max

/-- fs arithmetic on the low element (R199). -/
def fsValue (op : FsOp) (f : Fmt) (md : RMode) (o1 o2 t : Nat) : Nat × FFlags :=
  vfElem (fsAsVf op) f md (o1 % 2 ^ f.bits) (o2 % 2 ^ f.bits) (t % 2 ^ f.bits)

/-- A condition of fs.fcmp as one of R200. -/
def fsCondOf : FsCond → FCond
  | .eq => .eq
  | .lt => .lt
  | .le => .le
  | .un => .un

/-- fs.fcmp (R199, R200). -/
def fsCmpValue (c : FsCond) (f : Fmt) (o1 t : Nat) : Nat × FFlags :=
  let r := fcompare (fsCondOf c) (f.unpack (o1 % 2 ^ f.bits)) (f.unpack (t % 2 ^ f.bits))
  (if r.1 then 1 else 0, r.2)

/-- vf conversions: lanes of the larger size, packed elements (R202). -/
def vfCvtValue (d s : CvtF) (sat : Bool) (md : RMode) (w t : Nat) : Nat × FFlags :=
  let m := 8 * w / max (cvtBits s) (cvtBits d)
  mapLanesF (cvtBits d) m fun l => cvtElem d s sat md (lane (cvtBits s) t l)

/-- fs conversions (R202). -/
def fsCvtValue (d s : CvtF) (sat : Bool) (md : RMode) (t : Nat) : Nat × FFlags :=
  cvtElem d s sat md (t % 2 ^ cvtBits s)

/-- vf to E8M0 (R203). -/
def vfToE8m0Value (f : Fmt) (w t : Nat) : Nat × FFlags :=
  mapLanesF 8 (8 * w / f.bits) fun l => toE8m0 (f.unpack (lane f.bits t l))

/-- vf from E8M0 (R203). -/
def vfFromE8m0Value (w t : Nat) : Nat := mapLanes 32 (w / 4) fun l => fromE8m0 (lane 8 t l)

/-- One element of vx, and the second result of sincos (R204). -/
def vxElem (op : VxOp) (a c : FNum) : Exact :=
  match op with
  | .exp2 => exp2Exact c
  | .log2 => log2Exact c
  | .rcp => divExact (.fin false 1 0) c
  | .rsqrt => rsqrtExact c
  | .div => divExact a c
  | .sqrt => sqrtExact c
  | .sincos => sincosExact false c

/-- vx over w bytes: res, res1 for sincos, and flags (R204). -/
def vxValue (op : VxOp) (f : Fmt) (md : RMode) (w o1 t : Nat) : Nat × Option Nat × FFlags :=
  let m := 8 * w / f.bits
  let r := mapLanesF f.bits m fun l =>
    f.pack md (vxElem op (f.unpack (lane f.bits o1 l)) (f.unpack (lane f.bits t l)))
  if op = .sincos then
    let c := mapLanesF f.bits m fun l => f.pack md (sincosExact true (f.unpack (lane f.bits t l)))
    (r.1, some c.1, r.2 ||| c.2)
  else (r.1, none, r.2)

/-- Latency of a vx operation (R60). -/
def vxLatency : VxOp → Nat
  | .div | .sqrt => 14
  | _ => 8

/-- fd (R212). -/
def fdValue (op : FdOp) (md : RMode) (o1 t : Nat) : Nat × FFlags :=
  let a := fp32.unpack (o1 % 2 ^ 32)
  let c := fp32.unpack (t % 2 ^ 32)
  fp32.pack md (match op with | .div => divExact a c | .sqrt => sqrtExact c | .rsqrt => rsqrtExact c)

/-- One level of the tree of R207. -/
def reduceLevel (op : Nat → Nat → Nat × FFlags) : List Nat → List Nat × FFlags
  | x :: y :: rest =>
    let r := op x y
    let s := reduceLevel op rest
    (r.1 :: s.1, r.2 ||| s.2)
  | xs => (xs, 0)

/-- The fixed tree of R207, level by level. -/
def reduceTree (op : Nat → Nat → Nat × FFlags) : Nat → List Nat → Nat × FFlags
  | 0, xs => (xs.headD 0, 0)
  | n + 1, xs =>
    match xs with
    | [] => (0, 0)
    | [x] => (x, 0)
    | _ =>
      let r := reduceLevel op xs
      let s := reduceTree op n r.1
      (s.1, r.2 ||| s.2)

/-- The floating reductions of vp (R207). -/
def vpFValue (op : VpFOp) (f : Fmt) (md : RMode) (w t : Nat) : Nat × FFlags :=
  let g : Nat → Nat → Nat × FFlags := match op with
    | .redadd => fun x y => f.pack md (addExact md (f.unpack x) (f.unpack y))
    | .redmax => fminmax f true
    | .redmin => fminmax f false
  reduceTree g 12 (lanesOf f.bits (8 * w / f.bits) t)

/-- vc.fcmp (R209). -/
def vcFcmpValue (c : FCond) (f : Fmt) (w o1 t : Nat) : Nat × FFlags :=
  mapLanesF f.bits (8 * w / f.bits) fun l =>
    let r := fcompare c (f.unpack (lane f.bits o1 l)) (f.unpack (lane f.bits t l))
    (ones f.bits r.1, r.2)

/-- vc.class (R211). -/
def vcClassValue (f : Fmt) (w t : Nat) : Nat :=
  mapLanes f.bits (8 * w / f.bits) fun l => 2 ^ classBit f (lane f.bits t l)

/-- px.csc (R243): matrix set n at o1 bytes [64n+47:64n]. -/
def cscValue (n o1 t : Nat) : Nat × FFlags :=
  let mat (i : Nat) : FNum := fp32.unpack (lane 32 (o1 / 2 ^ (512 * n)) i)
  let inp (i j : Nat) : FNum := fp32.unpack (lane 32 t (3 * i + j))
  joinLanes 32 ((List.range 192).map fun x =>
    let i := x / 3
    let c := x % 3
    fp32.pack 0 (sumNum 0 [mulNum (mat (3 * c)) (inp i 0), mulNum (mat (3 * c + 1)) (inp i 1),
      mulNum (mat (3 * c + 2)) (inp i 2), some (mat (9 + c))]))

/-- One sample of px.pack (R244). -/
def packSample (p10 : Bool) (x : Nat) : Nat :=
  let hi : Nat := if p10 then 1023 else 255
  match fp32.unpack x with
  | .nan _ => 0
  | .inf n => if n then 0 else hi
  | v => let q := rneInt v; if q < 0 then 0 else min q.toNat hi

/-- px.pack (R244). -/
def packValue (p10 : Bool) (t : Nat) : Nat :=
  mapLanes (if p10 then 16 else 8) 256 fun i => packSample p10 (lane 32 t i)

end Sys2Proof.Machine
end

