-- ==== Sys2Proof/Machine/Matrix.lean ====
section
/-! DEFINITION. What the CIM macros and the key-value unit compute: alignment of blocks, the fixed
sum, masks, fills, adapters, and the rotation of keys on load (R96 to R99, R120 to R128, R225 to
R241). -/

namespace Sys2Proof.Machine

/-! ### Formats of the macros (R227) -/

/-- W_A of an A format; a reserved code counts as 16 (R228). -/
def mxWa (f : Nat) : Nat :=
  match f with
  | 0 | 2 | 3 => 8
  | 1 => 4
  | 4 => 5
  | _ => 16

/-- Columns per macro. -/
def mxCb (f : Nat) : Nat :=
  match f with
  | 1 | 4 => 512
  | 5 => 128
  | _ => 256

/-- Bits of an element, which are W of B too (R96). -/
def mxBits (f : Nat) : Nat :=
  match f with
  | 1 | 4 => 4
  | 5 => 16
  | _ => 8

/-- Block-scaled formats. -/
def mxScaled (f : Nat) : Bool := f == 2 || f == 3 || f == 4

/-- Integer formats. -/
def mxInteger (f : Nat) : Bool := f == 0 || f == 1

/-- A format code that R227 does not define. -/
def mxReserved (f : Nat) : Bool := decide (5 < f)

/-- The pairs (AFMT, BFMT) that a compute trigger accepts. -/
def mxPairOk (a b : Nat) : Bool :=
  [(0, 0), (0, 1), (1, 1), (2, 2), (2, 3), (3, 2), (3, 3), (2, 4), (3, 4), (4, 4), (5, 5)].contains (a, b)

/-- The value of an element code. -/
def mxElem (f x : Nat) : FNum :=
  match f with
  | 0 => let v := signed 8 x; .fin (v < 0) v.natAbs 0
  | 1 => let v := signed 4 x; .fin (v < 0) v.natAbs 0
  | 2 => e4m3.unpack x
  | 3 => e5m2.unpack x
  | 4 => e2m1.unpack x
  | _ => bf16.unpack x

/-- Fields of CFG (R226). -/
def cfgAfmt (w : Word) : Nat := fld w 0 4
/-- The bits of CFG that are not reserved: [15:10] read as zero (R11, R226). -/
def cfgMask : Word := 0xFFFFFFFFFFFF03FF#64
/-- BFMT of CFG. -/
def cfgBfmt (w : Word) : Nat := fld w 4 4
/-- TAX of CFG. -/
def cfgTax (w : Word) : Nat := fld w 8 2
/-- TFILL of CFG. -/
def cfgTfill (w : Word) : Nat := fld w 16 16
/-- DIAG of CFG. -/
def cfgDiag (w : Word) : Int := signed 32 (fld w 32 32)

/-! ### Alignment (R96) -/

/-- An aligned block: its 32 integers and eq, none where the block is invalid. -/
structure Aligned where
  q : List Int
  eq : Option Int
deriving DecidableEq, Repr

/-- floor(log2 |v|) of a non-zero number, none otherwise. -/
def FNum.log2 : FNum → Option Int
  | .fin _ m e => if m = 0 then none else some (e + Nat.log2 m)
  | _ => none

/-- v x 2^k. -/
def FNum.scale (k : Int) : FNum → FNum
  | .fin n m e => .fin n m (e + k)
  | v => v

/-- Alignment of a block of elements of format f to W bits, with the scale byte x. A masked element aligns
to 0 and has no part in emax; a NaN or an infinity makes the block invalid even where it is masked (log 30). The integers of
an invalid block are 0 (log 135). -/
def alignBlock (f w x : Nat) (codes : List Nat) (masked : List Bool) : Aligned :=
  let vs := (codes.zip masked).map fun (c, m) => if m then (.fin false 0 0 : FNum) else mxElem f c
  if mxInteger f then ⟨vs.map rneInt, some 0⟩
  else if codes.any (fun c => match mxElem f c with | .fin _ _ _ => false | _ => true) || (mxScaled f && x == 255) then
    ⟨vs.map fun _ => 0, none⟩
  else
    let s : Int := if mxScaled f then (x : Int) - 127 else 0
    let ls := vs.filterMap FNum.log2
    let emax := match ls with | [] => 0 | l :: r => r.foldl max l
    ⟨vs.map fun v => rneInt (v.scale ((w : Int) - 2 - emax)), some (s + emax - ((w : Int) - 2))⟩

/-- eq as it stands in a plane: signed 16 bits, 0x8000 marking an invalid block (R96, R229). -/
def eqCode (e : Option Int) : Nat := match e with | some x => unsigned 16 x | none => 0x8000

/-- eq that two bytes of a plane hold. -/
def eqOf (x : Nat) : Option Int := if x % 65536 = 0x8000 then none else some (signed 16 x)

/-! ### bld (R232) -/

/-- The 32 rows that a bld reads, and whether one of them met a poisoned piece. -/
def bldRows (h : Shared) (t o1 : Nat) : List Nat × Bool :=
  let ca := t / 64 % 16384 * 64
  let rp := o1 / 64 % 1024 * 64
  let nb := min (o1 / 65536 % 512) 256
  ((List.range 32).map fun k => if nb = 0 then 0 else csRead h (ca + k * rp) nb,
    (List.range 32).any fun k => csPoisoned h (ca + k * rp) nb)

/-- The block that a bld loads: cells of 32 rows and eq of 512 columns. -/
def bldBlock (f t o1 o2 : Nat) (h : Shared) : List Byte × List Byte × Bool :=
  let w := mxBits f
  let rows := bldRows h t o1
  let usc := o1 / 2 ^ 35 % 2 == 1
  let sc := o1 / 2 ^ 40 % 256
  let cols := (List.range (mxCb f)).map fun n =>
    alignBlock f w (if usc then sc else lane 8 o2 n) (rows.1.map fun r => lane w r n) (List.replicate 32 false)
  let cells := (List.range 32).flatMap fun k =>
    natBytes 256 (ofLanes w (cols.map fun c => unsigned w (c.q.getD k 0)))
  let eqs := natBytes 1024 (ofLanes 16 (cols.map fun c => eqCode c.eq))
  (cells, eqs, rows.2)

/-- J of a bld's control word. -/
def bldJ (o1 : Nat) : BitVec 3 := BitVec.ofNat 3 (o1 / 2 ^ 32)

/-- A block lands in a plane (R232). A change of BFMT clears the plane and its poison bits. -/
def Cim.bldLand (c : Cim) (pl : Bool) (j : BitVec 3) (fmt : BitVec 4) (cells eqs : List Byte) (psn : Bool) : Cim :=
  let p := c.plane pl
  let base := if pl then 8 else 0
  let same := p.fmt == fmt
  let cs := if same then p.cells else []
  let es := if same then p.eq else []
  let pb := if same then c.pblk else c.pblk &&& ~~~(0xFF#16 <<< base)
  { c.setPlane pl ⟨fmt, Cells.writeBytes cs (8192 * j.toNat) cells, Cells.writeBytes es (1024 * j.toNat) eqs⟩ with
    pblk := putBit pb (base + j.toNat) psn }

/-! ### Compute triggers (R234, R235) -/

/-- What a compute trigger works on (R234, R235): operation, zero accumulators, CFG, plane, MXPAD,
A row with u and row tag, accumulators, scales. -/
structure MxIn where
  op : MxOp
  z : Bool
  cfg : Word
  plane : Plane
  mxpad : Word
  t : Nat
  o1 : Nat
  o2 : Nat
  o3 : Nat
  /-- DIAG and fill of mmt: CFG's, or the command's (R252). -/
  diag : Int
  tfill : Nat
  /-- Adapter term of mad for each column, none for none (R237). -/
  ad : Option (Nat → Nat × FFlags)

/-- res, res1, flag and flags of a compute trigger. -/
structure MxOut where
  res : Nat
  res1 : Nat
  flag : Nat
  fl : FFlags
deriving DecidableEq, Repr

/-- TIDX of a row tag. -/
def tagTidx (rt : Nat) : Nat := rt / 2 ^ 32 % 2 ^ 32
/-- ADID of a row tag. -/
def tagAdid (rt : Nat) : Nat := rt / 2 ^ 20 % 4096
/-- MSK of a row tag. -/
def tagMsk (rt : Nat) : Bool := rt % 2 == 1

/-- The row tag of a 1 KiB value (R234). -/
def rowTag (t : Nat) : Nat := t / 2 ^ 8128 % 2 ^ 64

/-- EN of MXPAD and KVPAD (R136). -/
def padEn (p : Word) : Bool := bit p 32
/-- LIM of MXPAD and KVPAD. -/
def padLim (p : Word) : Nat := fld p 0 32

/-- fill(x): a BF16 value in a float pair, -2^31 in an integer pair (R235). -/
def mxFill (integer : Bool) (x : Nat) : Nat :=
  -- R85, R90: the conversion of a NaN gives the canonical one.
  if integer then 2 ^ 31 else if 0x7F80 < x % 2 ^ 15 then 0x7FC00000 else bf16To32 x

/-- A flag set reduced to OF and NV (R95). -/
def ofNv (f : FFlags) : FFlags := f &&& (fOF ||| fNV)

/-- The tree of R97 over eight partials, then the accumulator. -/
def mxTree (ps : List Nat) (acc : Nat) : Nat × FFlags :=
  let r := reduceTree addRne 4 ps
  let s := addRne acc r.1
  (s.1, ofNv (r.2 ||| s.2))

/-- One partial of R97: NaN with NV for an invalid block. -/
def mxPartial (qa qb : List Int) (ea eb : Option Int) : Nat × FFlags :=
  match ea, eb with
  | some a, some b =>
    let s : Int := ((qa.zip qb).map fun (x, y) => x * y).sum
    let r := fp32.pack 0 (.num (s < 0) s.natAbs (a + b) false)
    (r.1, ofNv r.2)
  | _, _ => (fp32.nan, fNV)

/-- Column n of block j of a plane, from its rows as numbers. -/
def planeColumn (w : Nat) (rows : List Nat) (j n : Nat) : List Int :=
  ((rows.drop (32 * j)).take 32).map fun r => signed w (lane w r n)

/-- The rows of a plane, as numbers of 256 bytes. -/
def Plane.rows (p : Plane) : List Nat := (List.range 256).map fun k => Cells.nat p.cells (256 * k) 256

/-- eq of block j and column n. -/
def Plane.eqAt (p : Plane) (j n : Nat) : Option Int := eqOf (Cells.nat p.eq (2 * (512 * j + n)) 2)

/-- The aligned blocks of the A row (R96, R234), with the elements that depth masking excludes. -/
def mxRowA (i : MxIn) : List Aligned :=
  let f := cfgAfmt i.cfg
  let rt := rowTag i.t
  let depth := cfgTax i.cfg == 2
  let masked (k : Nat) : Bool := depth && (tagMsk rt || (padEn i.mxpad && decide (padLim i.mxpad ≤ tagTidx rt + k)))
  (List.range 8).map fun j =>
    alignBlock f (mxWa f) (lane 8 i.o3 j) ((List.range 32).map fun k => lane (mxBits f) i.t (32 * j + k))
      ((List.range 32).map fun k => masked (32 * j + k))

/-- Whether the whole row is masked (R235). -/
def mxRowMasked (i : MxIn) : Bool :=
  let rt := rowTag i.t
  cfgTax i.cfg == 1 && (tagMsk rt || (padEn i.mxpad && decide (padLim i.mxpad ≤ tagTidx rt)))

/-- Output n of a compute trigger (R235). -/
def mxColumn (i : MxIn) (as : List Aligned) (rows : List Nat) (rowm : Bool) (n : Nat) : Nat × FFlags :=
  let bf := i.plane.fmt.toNat
  let integer := mxInteger (cfgAfmt i.cfg)
  let rt := rowTag i.t
  let w := mxBits bf
  let colm := cfgTax i.cfg == 3 && padEn i.mxpad && decide (padLim i.mxpad ≤ tagTidx rt + n)
  if rowm || colm then (mxFill integer (fld i.mxpad 48 16), 0)
  else if i.op = .mmt ∧ (tagTidx rt : Int) + i.diag < (n : Int) then (mxFill integer i.tfill, 0)
  else
    let acc := if i.z then 0 else if n < 256 then lane 32 i.o1 n else lane 32 i.o2 (n - 256)
    if integer then
      let s : Int := ((List.range 8).map fun j =>
        (((as.getD j ⟨[], none⟩).q.zip (planeColumn w rows j n)).map fun (x, y) => x * y).sum).sum
      (unsigned 32 (signed 32 acc + s), 0)
    else
      let ps := (List.range 8).map fun j =>
        let a := as.getD j ⟨[], none⟩
        mxPartial a.q (planeColumn w rows j n) a.eq (i.plane.eqAt j n)
      let v := mxTree (ps.map Prod.fst) acc
      let fl := ps.foldl (fun f p => f ||| p.2) v.2
      match i.ad with
      | none => (v.1, fl)
      | some ad =>
        let a := ad n
        let r := addRne v.1 a.1
        (r.1, fl ||| ofNv a.2 ||| ofNv r.2)

/-- mma, mmt and mad (R235). -/
def mxCompute (i : MxIn) : MxOut :=
  let as := mxRowA i
  let rows := i.plane.rows
  let rowm := mxRowMasked i
  let cb := mxCb i.plane.fmt.toNat
  let cols := (List.range cb).map (mxColumn i as rows rowm)
  let fl := cols.foldl (fun f c => f ||| c.2) 0
  let outs := cols.map Prod.fst
  ⟨ofLanes 32 (outs.take 256), ofLanes 32 (outs.drop 256),
    tagTidx (rowTag i.t) * 2 ^ 32 + (if fl &&& fOF = 0 then 0 else 4) + (if fl &&& fNV = 0 then 0 else 2) +
      (if rowm then 1 else 0), fl⟩

/-- The adapter path of mad (R237): for each column the term, or none, and whether a core-store piece
that it reads is poisoned. -/
def adapterTerm (h : Shared) (t o2 : Nat) : Option (Nat → Nat × FFlags) × Bool :=
  let ma := o2 / 128 % 8192 * 128 + 4 * tagAdid (rowTag t)
  let ent := csRead h ma 4
  let rank := min (ent / 2 ^ 24 % 128) 64
  if ent / 2 ^ 31 = 0 ∨ rank = 0 then (none, csPoisoned h ma 4)
  else
    let upa := ent % 2 ^ 20 / 128 * 128
    let rows := (List.range rank).map fun r => csRead h (upa + 512 * r) 512
    let us := (List.range rank).map fun r => fp32.unpack (lane 32 (t / 2 ^ 4096) r)
    (some fun n => fp32.pack 0 (sumNum 0 ((us.zip rows).map fun (u, row) => mulNum u (bf16.unpack (lane 16 row n)))),
      csPoisoned h ma 4 || (List.range rank).any fun r => csPoisoned h (upa + 512 * r) 512)

/-! ### The key-value unit (R120 to R128, R238 to R241) -/

/-- Fields of a page descriptor that the kv unit uses (R121, R238). -/
structure KvDesc where
  bf : Bool
  dh : Nat
  half : Bool
  fset : Nat
  wrap : Bool
  vcnt : Nat
  kscale : Nat
  vscale : Nat
deriving DecidableEq, Repr

/-- The descriptor in o1 bytes [63:0], none when malformed (R238). -/
def kvDesc (o1 : Nat) : Option KvDesc :=
  let d := o1 / 2 ^ 128 % 2 ^ 32
  let fmt := d / 2 ^ 14 % 4
  let vcnt := d % 128
  if 2 ≤ fmt ∨ 64 < vcnt ∨ o1 / 2 ^ 192 % 2 ^ 320 ≠ 0 then none
  else some ⟨fmt == 1, if d / 2 ^ 13 % 2 = 1 then 128 else 64, d / 2 ^ 12 % 2 == 1, d / 2 ^ 10 % 4,
    d / 2 ^ 7 % 2 == 1, vcnt, d / 2 ^ 24 % 256, d / 2 ^ 16 % 256⟩

/-- RB: bytes of a row (R120). -/
def KvDesc.rb (d : KvDesc) : Nat := if d.bf then 2 * d.dh else d.dh

/-- KBASE (R238). -/
def kvBase (o2 : Nat) : Nat := o2 / 64 % 16384 * 64

/-- Entry i of a frequency table that stands at an offset of a byte list (R125). -/
def freqAt (fr : List Host.Cell) (n i : Nat) : Nat := Cells.nat fr (512 * n + 8 * i) 8 % 2 ^ 48

/-- Entries of a frequency table as memory holds them: bits [63:48] zero (R125). -/
def freqBytes (bs : List Byte) : List Byte := bs.mapIdx fun i x => if i % 8 < 6 then x else 0

/-- cos or sin of 2πk / 4,096 in FP32 (R124). -/
def kvRom (cosine : Bool) (k : Nat) : Nat := (fp32.pack 0 (sincosExact cosine (.fin false (k % 4096) (-12)))).1

/-- DC[k] or DS[k] (R124). -/
def kvRomD (cosine : Bool) (k : Nat) : Nat :=
  (fp32.pack 0 (addExact 0 (fp32.unpack (kvRom cosine (k + 1))) (fp32.unpack (kvRom cosine k)).negate)).1

/-- c or s of R124: one rounding of ROM[k] + u x D[k]. -/
def kvInterp (cosine : Bool) (phase : Nat) : Nat :=
  let k := phase / 2 ^ 36
  let u : FNum := .fin false (phase / 2 ^ 12 % 2 ^ 24) (-24)
  (fp32.pack 0 (fmaExact 0 u (fp32.unpack (kvRomD cosine k)) (fp32.unpack (kvRom cosine k)))).1

/-- Rotation of a pair (R124). Of its flags NV stands for a NaN element alone, and OF for an overflow (R397). -/
def kvRotate (x y : FNum) (pos f : Nat) : Nat × Nat × FFlags :=
  if x.isNan || y.isNan then (fp32.nan, fp32.nan, fNV)
  else
    let phase := pos * f % 2 ^ 48
    let c := fp32.unpack (kvInterp true phase)
    let s := fp32.unpack (kvInterp false phase)
    let ys := fp32.pack 0 (mulExact y s)
    let yc := fp32.pack 0 (mulExact y c)
    let a := fp32.pack 0 (fmaExact 0 x c (fp32.unpack ys.1).negate)
    let b := fp32.pack 0 (fmaExact 0 x s (fp32.unpack yc.1))
    (a.1, b.1, ofNv (ys.2 ||| yc.2 ||| a.2 ||| b.2) &&& fOF)

/-- The format of a destination D (R239). -/
def kvFmt : KvD → CvtF
  | .e4m3 => .e4m3
  | .bf16 => .bf16
  | .f32 => .f32

/-- The stored format of a page. -/
def KvDesc.cvt (d : KvDesc) : CvtF := if d.bf then .bf16 else .e4m3

/-- An element of a page as FP32, exactly (R124). -/
def KvDesc.elem (d : KvDesc) (row i : Nat) : FNum :=
  if d.bf then bf16.unpack (lane 16 row i) else e4m3.unpack (lane 8 row i)

/-- The two elements of pair i (R126). -/
def KvDesc.pair (d : KvDesc) (i : Nat) : Nat × Nat := if d.half then (i, i + d.dh / 2) else (2 * i, 2 * i + 1)

/-- Conversion of a stored element to D; a same-format conversion copies bits (R239). -/
def kvConvert (dst src : CvtF) (x : Nat) : Nat × FFlags :=
  if dst = src then (x, 0)
  else let r := cvtElem dst src (dst == .e4m3) 0 x; (r.1, ofNv r.2)

/-- A value row converted (R239). -/
def kvValueRow (d : KvDesc) (dst : KvD) (row : Nat) : Nat × FFlags :=
  let b := cvtBits d.cvt
  mapLanesF (cvtBits (kvFmt dst)) d.dh fun i => kvConvert (kvFmt dst) d.cvt (lane b row i)

/-- A key row rotated and converted (R124, R126, R239): it raises NV for a NaN element, and OF for a destination that is
not FP32 (R397). -/
def kvKeyRow (d : KvDesc) (dst : KvD) (fr : List Host.Cell) (pos row : Nat) : Nat × FFlags :=
  let rot := (List.range (d.dh / 2)).map fun i =>
    let e := d.pair i
    kvRotate (d.elem row e.1) (d.elem row e.2) pos (freqAt fr d.fset i)
  mapLanesF (cvtBits (kvFmt dst)) d.dh fun n =>
    let i := if d.half then n % (d.dh / 2) else n / 2
    let second := if d.half then decide (d.dh / 2 ≤ n) else n % 2 == 1
    let r := rot.getD i (0, 0, 0)
    let v := kvConvert (kvFmt dst) .f32 (if second then r.2.1 else r.1)
    (v.1, if dst = .f32 then r.2.2 &&& fNV else r.2.2 ||| (v.2 &&& fOF))

/-- The position of slot s, none for KPOS (R128). -/
def kvPosition (kvpos : Word) (wrap : Bool) (s : Nat) : Option Nat :=
  let sum := fld kvpos 0 32 + s
  if bit kvpos 33 = false ∧ sum < 2 ^ 32 then some sum
  else if bit kvpos 32 || wrap then some (sum % 2 ^ 32)
  else none

/-- The result of a kv load: the latch, whether it is poisoned, and flags. -/
structure KvOut where
  res : Nat
  psn : Bool
  fl : FFlags
deriving DecidableEq, Repr

/-- A poisoned kv result with its word, over the bytes that stand above it. -/
def kvPoisoned (cause above : Nat) : KvOut := ⟨(poisonWord cause false false noIndex).toNat + above, true, 0⟩

/-- kvk and kvv (R238, R239). Core-store bytes that are poisoned poison the row with cause ECC (R387), which is looked at
before the position of a key (log 134). -/
def kvLoad (key : Bool) (dst : KvD) (h : Shared) (fr : List Host.Cell) (kvpos kvpad : Word) (t o1 o2 : Nat) : KvOut :=
  match kvDesc o1 with
  | none => kvPoisoned 0x21 0
  | some d =>
    let s := t % 64
    let tid := t / 2 ^ 32 % 2 ^ 32 + s
    let msk := decide (d.vcnt ≤ s) || (padEn kvpad && decide (padLim kvpad ≤ tid))
    let scl := if d.bf then 0x7F else if key then d.kscale else d.vscale
    let tag := (tid % 2 ^ 32 * 2 ^ 32 + scl * 2 ^ 8 + (if msk then 1 else 0)) * 2 ^ 8128
    let a := kvBase o2 + (if key then 0 else 64 * d.rb) + s * d.rb
    if msk then ⟨tag, false, 0⟩
    else if csPoisoned h a d.rb then kvPoisoned 0x0C tag
    else if key then
      match kvPosition kvpos d.wrap s with
      | none => kvPoisoned 0x20 tag
      | some pos => let r := kvKeyRow d dst fr pos (csRead h a d.rb); ⟨r.1 + tag, false, r.2⟩
    else let r := kvValueRow d dst (csRead h a d.rb); ⟨r.1 + tag, false, r.2⟩

/-- An element that kvap stores (R240). -/
def kvStoreElem (d : KvDesc) (scale : Nat) (md : RMode) (x : Nat) : Nat × FFlags :=
  if d.bf then let r := cvtElem .bf16 .f32 false md x; (r.1, ofNv r.2)
  else let r := cvtToFloat e4m3 false true md ((fp32.unpack x).scale (127 - (scale : Int))); (r.1, ofNv r.2)

/-- What kvap writes: addresses, rows, res and flags; none for a malformed descriptor (R240). -/
structure KvApOut where
  ka : BitVec 20
  va : BitVec 20
  key : List Byte
  val : List Byte
  res : Nat
  fl : FFlags
deriving DecidableEq, Repr

/-- kvap (R240). -/
def kvAppend (md : RMode) (t o1 o2 : Nat) : Option KvApOut :=
  (kvDesc o1).map fun d =>
    let s := o2 / 2 ^ 32 % 64
    let b := cvtBits d.cvt
    let k := mapLanesF b d.dh fun i => kvStoreElem d d.kscale md (lane 32 t i)
    let v := mapLanesF b d.dh fun i => kvStoreElem d d.vscale md (lane 32 (t / 2 ^ 4096) i)
    let fl := k.2 ||| v.2
    let ka := kvBase o2 + s * d.rb
    ⟨BitVec.ofNat 20 ka, BitVec.ofNat 20 (ka + 64 * d.rb), natBytes d.rb k.1, natBytes d.rb v.1,
      s + 1 + (if fl &&& fOF = 0 then 0 else 2 ^ 8) + (if fl &&& fNV = 0 then 0 else 2 ^ 9), fl⟩

/-- The core-store address of a kvfrq table (R241). -/
def kvFreqAddr (t : Nat) : Nat := t / 128 % 8192 * 128

/-- A kvap row lands as a ks store does, wrapping modulo 2^20 (R238, R240). -/
def csStoreBytes (h : Shared) (a : Nat) (bs : List Byte) : Shared :=
  let a := csWrap a
  let n := min bs.length (1048576 - a)
  let h := csStore h a n (bytesNat (bs.take n))
  csStore h 0 (bs.length - n) (bytesNat (bs.drop n))

end Sys2Proof.Machine
end

