-- ==== Sys2Proof/Machine/Mem.lean ====
section
/-! DEFINITION. The memory system: translation at the core and at the homes, page tables, Cairn
entries, the LLC, the L1, and single reads and writes at the point of coherence (R100 to R117, R384,
R386, R387). -/

namespace Sys2Proof.Machine

/-! ### Statuses (R247) -/

/-- OK. -/
def stOk : BitVec 8 := 0
/-- FPERM. -/
def stFperm : BitVec 8 := 1
/-- FMISS. -/
def stFmiss : BitVec 8 := 2
/-- IARSV. -/
def stIarsv : BitVec 8 := 3
/-- HNOPG. -/
def stHnopg : BitVec 8 := 4
/-- HPERM. -/
def stHperm : BitVec 8 := 5
/-- HBAD. -/
def stHbad : BitVec 8 := 6
/-- HATOM. -/
def stHatom : BitVec 8 := 7
/-- BOUND. -/
def stBound : BitVec 8 := 8
/-- RINGFULL. -/
def stRingfull : BitVec 8 := 9
/-- BITSTREAM. -/
def stBitstream : BitVec 8 := 0x0A
/-- GANG. -/
def stGang : BitVec 8 := 0x0B
/-- ECC. -/
def stEcc : BitVec 8 := 0x0C

/-! ### Translation at the core (R101 to R104) -/

/-- What the FTB answers. -/
inductive FtbAns where
  | ok (ia : Addr) (l1p : BitVec 2)
  | fault (st : BitVec 8)
  | miss
deriving DecidableEq, Repr

/-- Whether an entry covers a page (R102). -/
def FtbEntry.covers (e : FtbEntry) (pg : Nat) : Bool :=
  bit e.attr 63 && decide (fld e.vabase 12 36 ≤ pg) && decide (pg ≤ fld e.valimit 12 36)

/-- Whether an entry denies a kind of access (R102). -/
def FtbEntry.denies (e : FtbEntry) (kind : AccKind) : Bool :=
  match kind with
  | .rd => !bit e.attr 61
  | .wr => !bit e.attr 60
  | .at => !bit e.attr 61 || !bit e.attr 60 || !bit e.attr 59

/-- The IA that an entry gives (R102). -/
def FtbEntry.map (e : FtbEntry) (va : Addr) : Addr :=
  BitVec.ofNat 48 ((fld e.iabase 12 36 + 2 ^ 36 + va.toNat / 4096 - fld e.vabase 12 36) % 2 ^ 36 * 4096 + va.toNat % 4096)

/-- An IA in the reserved space (R105). -/
def iaReserved (ia : Addr) : Bool := decide (12 ≤ ia.toNat / 2 ^ 44)

/-- Translation through a list of entries, the lowest match winning (R102, R105). -/
def ftbLookup (es : List FtbEntry) (va : Addr) (kind : AccKind) : FtbAns :=
  match es.find? (fun e => e.covers (va.toNat / 4096)) with
  | none => .miss
  | some e =>
    if e.denies kind then .fault stFperm
    else if iaReserved (e.map va) then .fault stIarsv
    else .ok (e.map va) (BitVec.ofNat 2 (fld e.attr 57 2))

/-! ### Homes (R105 to R115) -/

/-- The home of an IA (R105). -/
def homeOf (ia : Addr) : Nat :=
  let s := ia.toNat / 2 ^ 44
  if s < 8 then ia.toNat / 128 % 32 else 32 + (s - 8)

/-- The LLC slice of a line (R106). -/
def llcSlice (ia : Nat) : Nat :=
  (ia / 2 ^ 7 % 512) ^^^ (ia / 2 ^ 16 % 512) ^^^ (ia / 2 ^ 25 % 512) ^^^ (ia / 2 ^ 34 % 512) ^^^ (ia / 2 ^ 43 % 32)

/-- n bytes at a place. -/
def Memory.get (m : Memory) (p : Place) (n : Nat) : Nat :=
  match p with
  | .loc la => Cells.nat m.gddr la n
  | .own 0 b => Cells.nat m.own0 b n
  | .own 1 b => Cells.nat m.own1 b n
  | .own 2 b => Cells.nat m.own2 b n
  | .own _ b => Cells.nat m.own3 b n
  | .llc ia => Cells.nat m.lines ia n

/-- Write n bytes at a place. -/
def Memory.put (m : Memory) (p : Place) (n x : Nat) : Memory :=
  match p with
  | .loc la => { m with gddr := Cells.write m.gddr la n x }
  | .own 0 b => { m with own0 := Cells.write m.own0 b n x }
  | .own 1 b => { m with own1 := Cells.write m.own1 b n x }
  | .own 2 b => { m with own2 := Cells.write m.own2 b n x }
  | .own _ b => { m with own3 := Cells.write m.own3 b n x }
  | .llc ia => { m with lines := Cells.write m.lines ia n x }

/-- The address of a place among poisoned pieces, in bytes. -/
def Place.key : Place → Nat
  | .loc la => la
  | .own p b => 2 ^ 64 * (min p 3 + 1) + b
  | .llc ia => 2 ^ 64 * 5 + ia

/-- A place a number of bytes further. -/
def Place.add : Place → Nat → Place
  | .loc a, n => .loc (a + n)
  | .own p b, n => .own p (b + n)
  | .llc ia, n => .llc (ia + n)

/-- Whether n bytes at a place include a poisoned piece (R386). -/
def Memory.poisoned (m : Memory) (p : Place) (n : Nat) : Bool :=
  if n = 0 then false else Cells.anyIn m.psn (p.key / 16) ((p.key + n - 1) / 16 + 1 - p.key / 16)

/-- The pieces that n bytes cover whole come clean (R387). -/
def Memory.cleanPieces (m : Memory) (p : Place) (n : Nat) : Memory :=
  let w := wholePieces p.key n
  { m with psn := Cells.mark m.psn w.1 w.2 false }

/-- Poison every piece that n bytes touch (R386). -/
def Memory.poisonPieces (m : Memory) (p : Place) (n : Nat) : Memory :=
  if n = 0 then m else { m with psn := Cells.mark m.psn (p.key / 16) ((p.key + n - 1) / 16 + 1 - p.key / 16) true }

/-- Every byte list of the memory system is in canonical form. -/
def Memory.wf (m : Memory) : Bool :=
  Cells.wf m.gddr && Cells.wf m.psn && Cells.wf m.own0 && Cells.wf m.own1 && Cells.wf m.own2 && Cells.wf m.own3 &&
    Cells.wf m.lines

/-- What a home answers to a request. -/
inductive Req where
  | go (p : Place) (c : Bool)
  | fault (st : BitVec 8)
  | wait
deriving DecidableEq, Repr

/-- What a translation gives: the place, C, WR, AT, and the page's Cairn index (R107). -/
structure Xlat where
  place : Place
  c : Bool
  wr : Bool
  atm : Bool
  /-- The page-TLB entry that gave it, none for a range entry. -/
  page : Option PageEntry
deriving DecidableEq, Repr

/-- A range entry hit (R107). -/
def RangeEntry.covers (e : RangeEntry) (pg : Nat) : Bool :=
  bit e.dw3 63 && decide (fld e.dw0 12 36 ≤ pg) && decide (pg ≤ fld e.dw1 12 36)

/-- The location of an IA in a range entry (R107). -/
def RangeEntry.place (e : RangeEntry) (h : Nat) (ia : Addr) : Place :=
  let off := ia.toNat - fld e.dw0 12 36 * 4096
  let base := fld e.dw2 12 52 * 4096
  if h < 32 then .loc (base + off) else .own (h - 32) ((base + off) % 2 ^ 64)

/-- The bytes of a leaf, none for a reserved size (R108). -/
def pteSize (pte : Word) : Option Nat :=
  match fld pte 60 3 with
  | 0 => some (2 ^ 12)
  | 1 => some (2 ^ 16)
  | 2 => some (2 ^ 21)
  | 3 => some (2 ^ 30)
  | 4 => some (2 ^ 34)
  | _ => none

/-- Whether a leaf of this size may stand at a level (R109). -/
def pteLevelOk (lvl : Nat) (pte : Word) : Bool :=
  let z := fld pte 60 3
  (lvl == 0 && (z == 0 || z == 1)) || (lvl == 1 && z == 2) || (lvl == 2 && (z == 3 || z == 4))

/-- The outcome of a page-table walk: the leaf, where it stands, and its LA (R109). -/
inductive WalkAns where
  | leaf (pte : Word) (pteLa la : Nat)
  | fault (st : BitVec 8)
deriving DecidableEq, Repr

/-- Where the home finds a doubleword of local memory: in the LLC line that was filled from there, or in
GDDR7 (R109, R110). -/
def Memory.laPlace (m : Memory) (la : Nat) : Place :=
  let from? (l : LlcLine) : Option Nat :=
    match l.back with
    | .loc b => if b ≤ la ∧ la < b + 128 then some (l.line + (la - b)) else none
    | _ => none
  match m.llc.findSome? from? with
  | some ia => .llc ia
  | none => .loc la

/-- A doubleword of local memory as the home reads it. -/
def Memory.laDw (m : Memory) (la : Nat) : Word := BitVec.ofNat 64 (m.get (m.laPlace la) 8)

/-- The home writes a doubleword of local memory. -/
def Memory.laPut (m : Memory) (la : Nat) (x : Word) : Memory :=
  let m' := m.put (m.laPlace la) 8 x.toNat
  match m.laPlace la with
  | .llc ia => { m' with llc := m'.llc.map fun l => if l.line = ia / 128 * 128 then { l with dirty := true } else l }
  | _ => m'

/-- The page-table walk from level lvl, its table at t (R109), through the LLC (R110). A poisoned entry
faults with ECC (log 32). -/
def pageWalk (m : Memory) (ia : Addr) : Nat → Nat → WalkAns
  | lvl, t =>
    let a := t + 8 * (ia.toNat / 2 ^ (12 + 9 * lvl) % (if lvl = 3 then 256 else 512))
    let pte := m.laDw a
    if m.poisoned (m.laPlace a) 8 then .fault stEcc
    else if bit pte 63 = false then .fault stHnopg
    else
      match lvl with
      | l + 1 =>
        if fld pte 60 3 = 7 then pageWalk m ia l (fld pte 12 26 * 4096)
        else leafOf (l + 1) a pte
      | 0 => leafOf 0 a pte
where
  /-- The leaf checks of R109. -/
  leafOf (lvl a : Nat) (pte : Word) : WalkAns :=
    match pteSize pte with
    | none => .fault stHbad
    | some z =>
      if !pteLevelOk lvl pte then .fault stHbad
      else
        let la := fld pte 12 26 * 4096 / z * z + ia.toNat % z
        if 2 ^ 38 ≤ la then .fault stHbad else .leaf pte a la

/-- The home sets bits of a page-table entry: by an atomic OR in memory, and in the page-TLB entries that
hold it (R109). -/
def Memory.setPte (m : Memory) (h : Nat) (pteLa : Nat) (bits : Word) : Memory :=
  (m.laPut pteLa (m.laDw pteLa ||| bits)).modHome h fun x =>
    { x with pages := x.pages.map fun e => if e.pteLa.toNat = pteLa then { e with pte := e.pte ||| bits } else e }

/-- The page-TLB entry of a page: 2,048 entries. An entry serves one page of 4 KiB, of a larger leaf too (R107, log
33). -/
def Memory.tlbFind (m : Memory) (h : Nat) (ia : Addr) : Option PageEntry :=
  (m.home h).pages.find? fun e => e.page.toNat == ia.toNat / 4096

/-- The entry of a full page TLB that leaves for a new one (log 33). -/
def tlbVictim (es : List PageEntry) (e : PageEntry) : Nat := Config.victim (es.map fun x => x.page.toNat) e.page.toNat % es.length

/-- LA of a page's Cairn entry (R111). -/
def Memory.cairnLa (m : Memory) (h : Nat) (pte : Word) : Nat := fld (m.home h).cairnbase 0 38 + 32 * fld pte 40 20

/-- Translation of a memory-space IA by the page TLB or a walk that fills it (R107 to R109). A Cairn entry that lies in a
poisoned piece is taken as its bytes say (log 116). -/
def Memory.pageXlat (m : Memory) (h : Nat) (ia : Addr) : Memory × (Xlat ⊕ BitVec 8) :=
  let xl (e : PageEntry) : Xlat :=
    ⟨.loc (e.la.toNat + ia.toNat % 4096), bit e.pte 38, bit e.pte 7, bit e.pte 6, some e⟩
  match m.tlbFind h ia with
  | some e => (m, .inl (xl e))
  | none =>
    let root := (m.home h).hptbase
    if root = 0 then (m, .inr stHnopg)
    else
      match pageWalk m ia 3 (fld root 12 26 * 4096) with
      | .fault st => (m, .inr st)
      | .leaf pte a la =>
        let m := if bit pte 4 then m else m.setPte h a (bitAt 4 true)
        let dw (i : Nat) : Word := if bit pte 39 then m.laDw (m.cairnLa h pte + 8 * i) else 0
        let e : PageEntry :=
          ⟨BitVec.ofNat 36 (ia.toNat / 4096), pte ||| bitAt 4 true, BitVec.ofNat 38 (la / 4096 * 4096), BitVec.ofNat 38 a, dw 0, dw 1⟩
        let m := m.modHome h fun x =>
          { x with pages := (if x.pages.length < 2048 then x.pages else x.pages.eraseIdx (tlbVictim x.pages e)) ++ [e] }
        (m, .inl (xl e))

/-- A translation, a status, or a hold by a range entry that has lost its parity (R385 code 0x0A). -/
inductive XlatAns where
  | ok (x : Xlat)
  | fault (st : BitVec 8)
  | wait
deriving DecidableEq, Repr

/-- Translation of an IA at its home: the range entries first (R107), of several that cover it the one of the lowest index
(log 115). An LA beyond 2^38 is HBAD (log 34). -/
def Memory.xlate (m : Memory) (ia : Addr) : Memory × XlatAns :=
  let h := homeOf ia
  match (m.home h).ranges.find? (fun e => e.covers (ia.toNat / 4096)) with
  | some e =>
    if e.bad then (m, .wait)
    else
      match e.place h ia with
      | .loc la =>
        if 2 ^ 38 ≤ la then (m, .fault stHbad)
        else (m, .ok ⟨.loc la, bit e.dw3 62, bit e.dw3 61, bit e.dw3 60, none⟩)
      | p => (m, .ok ⟨p, bit e.dw3 62, bit e.dw3 61, bit e.dw3 60, none⟩)
  | none =>
    if 32 ≤ h then (m, .fault stHnopg)
    else
      match m.pageXlat h ia with
      | (m, .inl x) => (m, .ok x)
      | (m, .inr st) => (m, .fault st)

/-- A memory record of R384. -/
def memRecord (kind : Nat) (cause : BitVec 8) (src : Nat) (job : BitVec 32) (addr : Nat) (info : Word) (seq : BitVec 32) : EvRec :=
  ⟨at' 60 0xE ||| at' 56 kind ||| at' 48 cause.toNat ||| at' 40 src ||| job.setWidth 64,
    BitVec.ofNat 64 (addr % 2 ^ 48), info, seq.setWidth 64⟩

/-- A home makes a record (R384). -/
def Memory.postHome (m : Memory) (h : Nat) (kind : Nat) (cause : BitVec 8) (job : BitVec 32) (addr : Nat) (info : Word) : Memory :=
  m.modHome h fun x =>
    { x with recs := x.recs ++ [memRecord kind cause h job addr info x.recSeq], recSeq := x.recSeq + 1 }

/-- A request that reaches the home of a Cairn page is counted, and may post a hint (R114). -/
def Memory.cairnCount (m : Memory) (h : Nat) (a : Nat) (kind : AccKind) (ia : Addr) (job : BitVec 32) : Memory :=
  let d0 := m.laDw a
  let d2 := m.laDw (a + 16)
  let r := if kind = .rd then min (fld d2 16 16 + 1) 65535 else fld d2 16 16
  let w := if kind = .rd then fld d2 0 16 else min (fld d2 0 16 + 1) 65535
  let thr := fld d2 48 16
  let m := m.laPut (a + 16) (at' 48 thr ||| at' 32 (fld d2 32 16) ||| at' 16 r ||| at' 0 w)
  if thr ≠ 0 ∧ thr ≤ r + w ∧ bit d0 57 = false then
    (m.laPut a (m.laDw a ||| bitAt 57 true)).postHome h 2 0 job (ia.toNat / 128 * 128) (at' 16 r ||| at' 0 w)
  else m

/-- The line of an IA. -/
def lineOf (ia : Addr) : Nat := ia.toNat / 128 * 128

/-- Whether a translation has a Cairn entry. -/
def Xlat.crn (x : Xlat) : Bool := match x.page with | some e => bit e.pte 39 | none => false

/-- The STATE of a page's Cairn entry is MOVING (R111, R115). -/
def PageEntry.moving (e : PageEntry) : Bool := bit e.pte 39 && fld e.cairn0 58 2 == 1

/-- The place of an IA by its Cairn entry: at FRAME or at an owner, or a malformed entry (R111, R112). A peer of PORT 0 is
taken as the owner behind port 0 (log 138). The page-TLB entry gives both, so an access uses one translation whole (R110). -/
def Xlat.owner (x : Xlat) (ia : Addr) : XlatAns :=
  match x.page with
  | none => .ok x
  | some e =>
    let z := (pteSize e.pte).getD 4096
    let own := fld e.cairn0 62 2
    if bit e.pte 39 = false then .ok x
    else if own = 3 ∨ 2 ≤ fld e.cairn0 58 2 ∨ fld e.cairn0 0 36 ≠ ia.toNat / z * z / 4096 then .fault stHbad
    else if own = 0 then .ok x
    else .ok { x with place := .own (if own = 1 then 0 else fld e.cairn0 60 2) ((e.cairn1.toNat + ia.toNat % z) % 2 ^ 64) }

/-- A request that reaches the home is counted if its page has a Cairn entry, a held one as it comes to be held (R114,
R115). -/
def Memory.counted (m : Memory) (x : Xlat) (kind : AccKind) (ia : Addr) (job : BitVec 32) : Memory :=
  match x.page with
  | some e => if m.proceeds = some (ia.toNat / 128) then m else if bit e.pte 39 then m.cairnCount (homeOf ia) (m.cairnLa (homeOf ia) e.pte) kind ia job else m
  | none => m

/-- The IDE stream of a port that carries an address is Insecure, and its TLPs are dropped (R413, log 56). -/
def Memory.rekeys (m : Memory) (port a : Nat) : Bool := (m.insecure.getD port 0).getLsbD (Config.ideStream port a % 5)

/-- A TLP of a port with an address does not pass: the link is down, or the stream is Insecure (R413, R414). -/
def Memory.shut (m : Memory) (port a : Nat) : Bool := m.down.getLsbD port || m.rekeys port a

/-- A place that accesses do not reach: its link is down, or its IDE stream drops them (R413, R414, log 56). -/
def Memory.cut (m : Memory) (p : Place) : Bool :=
  match p with
  | .own n b => m.shut n b
  | _ => false

/-! ### The LLC (R117) -/

/-- A line of the LLC set of a line: slice and IA[22:16] (R117). -/
def llcSameSet (a b : Nat) : Bool := llcSlice a == llcSlice b && a / 2 ^ 16 % 128 == b / 2 ^ 16 % 128

/-- Whether the LLC holds a line. -/
def Memory.llcHas (m : Memory) (line : Nat) : Bool := m.llc.any fun x => x.line == line

/-- Copy a line from a place to another, with the poison of its pieces (R386). -/
def Memory.copyLine (m : Memory) (src dst : Place) : Memory :=
  (List.range 8).foldl (fun m i =>
    let d := dst.add (16 * i)
    if m.poisoned (src.add (16 * i)) 16 then m.poisonPieces d 16 else m.cleanPieces d 16) (m.put dst 128 (m.get src 128))

/-- A line leaves the LLC. -/
def Memory.llcDrop (m : Memory) (line : Nat) : Memory :=
  { (m.put (.llc line) 128 0).cleanPieces (.llc line) 128 with llc := m.llc.filter fun x => x.line != line }

/-- The home permits a kind of access (R109). -/
def Xlat.permits (x : Xlat) (kind : AccKind) : Bool :=
  match kind with
  | .rd => true
  | .wr => x.wr
  | .at => x.wr && x.atm

/-- The first write or atomic through a TLB entry whose D is 0 sets D (R109). -/
def Memory.setDirty (m : Memory) (h : Nat) (x : Xlat) (kind : AccKind) : Memory :=
  match x.page with
  | some e => if kind ≠ .rd ∧ bit e.pte 5 = false then m.setPte h e.pteLa.toNat (bitAt 5 true) else m
  | none => m

/-- The home's buffer is full: it takes nothing that could post a record (R384). -/
def Memory.recFull (m : Memory) (h : Nat) : Bool := decide (16 ≤ (m.home h).recs.length)

/-- The home would hold more records than it has room for (R384). -/
def Memory.overfull (m : Memory) (h more : Nat) : Bool := decide (16 < (m.home h).recs.length + more)

/-- A dirty line is written back to where its home now translates it, as a write is (R109, R114). A writeback that
faults at the home is lost, and recorded as a dropped store is (R383, R414, log 119). -/
def Memory.writeBack (m : Memory) (line : Nat) : Option Memory :=
  let ia : Addr := BitVec.ofNat 48 line
  let lost (m : Memory) (st : BitVec 8) : Option Memory := some (m.postHome (homeOf ia) 0 st 0 line 128)
  match m.xlate ia with
  | (_, .wait) => none
  | (m, .fault st) => lost m st
  | (m, .ok x) =>
    let m := m.counted x .wr ia 0
    match x.owner ia with
    | .wait => none
    | .fault st => lost m st
    | .ok y =>
      if x.permits .wr = false then lost m stHperm
      else if m.cut y.place then lost m stHnopg
      else some ((m.setDirty (homeOf ia) x .wr).copyLine (.llc line) y.place)

/-- A writeback, none while the home has no room for the records that it posts (R384). -/
def Memory.writeLine (m : Memory) (line : Nat) : Option Memory :=
  let h := homeOf (BitVec.ofNat 48 line)
  if m.recFull h then none else (m.writeBack line).filter fun m => !m.overfull h 0

/-- A line is written back if it is dirty, and leaves (R115, R117). -/
def Memory.evictLine (m : Memory) (line : Nat) : Option Memory :=
  match m.llc.find? fun x => x.line == line with
  | none => some m
  | some x => if x.dirty then (m.writeLine line).map fun m => m.llcDrop line else some (m.llcDrop line)

/-- Room for a line: 16 ways, and which of them leaves a full set is not architectural (R117, log 11). -/
def Memory.llcRoom (m : Memory) (line : Nat) : Option Memory :=
  let same := m.llc.filter fun x => llcSameSet x.line line
  if same.length < 16 then some m
  else m.evictLine ((same.map LlcLine.line).getD (Config.victim (same.map LlcLine.line) line % same.length) 0)

/-- A line is filled from the place of its first byte. -/
def Memory.llcFill (m : Memory) (line : Nat) (p : Place) (dirty : Bool) : Memory :=
  { m.copyLine p (.llc line) with llc := m.llc ++ [⟨line, dirty, p⟩] }

/-- A line that is present is written. -/
def Memory.llcDirty (m : Memory) (line : Nat) : Memory :=
  { m with llc := m.llc.map fun x => if x.line = line then { x with dirty := true } else x }

/-- The first byte of the line of a place. -/
def Place.lineAt (p : Place) (off : Nat) : Place :=
  match p with
  | .loc a => .loc (a - off)
  | .own n b => .own n (b - off)
  | .llc a => .llc (a - off)

/-! ### Requests (R107 to R117) -/

/-- The bytes of a request of a job that a memory-space home serves are charged to it (R296, log 35). -/
def Memory.charge (m : Memory) (job : BitVec 32) (n : Nat) : Memory :=
  { m with traffic :=
      if m.traffic.any fun t => t.1 == job then m.traffic.map fun t => if t.1 = job then (t.1, t.2 + n) else t
      else m.traffic ++ [(job, n)] }

/-- Whether a request is held: a write or an atomic to a page that is MOVING, and any request to a line for
which an earlier one is held (R115). -/
def Memory.mustHold (m : Memory) (h : Nat) (x : Xlat) (kind : AccKind) (ia : Addr) : Bool :=
  (kind != .rd && (match x.page with | some e => e.moving | none => false)) || (m.home h).held.any fun r => lineOf r.ia == lineOf ia

/-- A permitted request for n bytes of one line is served: in the LLC, which a line with C = 1 enters, or at
the place itself. A line that the LLC holds is not bound across a link (R112, R117, R413, R414). -/
def Memory.served (m : Memory) (y : Xlat) (ia : Addr) (kind : AccKind) (n : Nat) (job : BitVec 32) : Option (Memory × Req) :=
  let line := lineOf ia
  let hit := y.c && m.llcHas line
  if !hit && m.cut y.place then some (m, .fault stHnopg)
  else
    let m := m.setDirty (homeOf ia) y kind
    let m := if homeOf ia < 32 then m.charge job n else m
    if y.c = false then some (m, .go y.place false)
    else if hit then some (if kind = .rd then m else m.llcDirty line, .go (.llc ia.toNat) true)
    else (m.llcRoom line).map fun m => (m.llcFill line (y.place.lineAt (ia.toNat - line)) (kind != .rd), .go (.llc ia.toNat) true)

/-- What a home answers to a request for n bytes of one line (R107 to R117): translation, the counts, permissions,
holds, and the LLC or the place. A malformed Cairn entry is found before the home's permissions are asked, and both
before a hold (log 125). A request that waits changes nothing. -/
def Memory.answer (m : Memory) (ia : Addr) (kind : AccKind) (n : Nat) (job : BitVec 32) : Memory × Req :=
  match m.xlate ia with
  | (_, .wait) => (m, .wait)
  | (m1, .fault st) => (m1, .fault st)
  | (m1, .ok x) =>
    if m.recFull (homeOf ia) && x.crn then (m, .wait)
    else
      let m2 := if x.c && m1.llcHas (lineOf ia) then m1 else m1.counted x kind ia job
      match x.owner ia with
      | .wait => (m, .wait)
      | .fault st => (m2, .fault st)
      | .ok y =>
        if x.permits kind = false then (m2, .fault stHperm)
        else if m1.mustHold (homeOf ia) x kind ia then (m, .wait)
        else
          match m2.served y ia kind n job with
          | some r => r
          | none => (m, .wait)

/-- The records that a store's fault has its home make (R383). -/
def Req.recs (r : Req) (kind : AccKind) : Nat :=
  match r with
  | .fault _ => if kind = .wr then 1 else 0
  | _ => 0

/-- A request for n bytes of one line that reaches memory. While the home's record buffer has no room for what the
request could post or does post, it waits (R384). -/
def Memory.request (m : Memory) (ia : Addr) (kind : AccKind) (n : Nat) (job : BitVec 32) : Memory × Req :=
  let h := homeOf ia
  if iaReserved ia then (m, .fault stIarsv)
  else if m.recFull h && kind != .rd then (m, .wait)
  else
    let r := m.answer ia kind n job
    if r.1.overfull h (r.2.recs kind) then (m, .wait) else r

/-- The outcome of a read: the bytes and whether a piece of them is poisoned, a status, or a hold. -/
inductive Acc where
  | ok (x : Nat) (psn : Bool)
  | fault (st : BitVec 8)
  | wait
deriving DecidableEq, Repr

/-- A read of n bytes of one line at the point of coherence. -/
def Memory.readIa (m : Memory) (ia : Addr) (n : Nat) (job : BitVec 32) : Memory × Acc :=
  match m.request ia .rd n job with
  | (m, .go p _) => (m, .ok (m.get p n) (m.poisoned p n))
  | (m, .fault st) => (m, .fault st)
  | (m, .wait) => (m, .wait)

/-- A write of n bytes of one line at the point of coherence. -/
def Memory.writeIa (m : Memory) (ia : Addr) (n x : Nat) (job : BitVec 32) : Memory × Req :=
  match m.request ia .wr n job with
  | (m, .go p c) => ((m.put p n x).cleanPieces p n, .go p c)
  | r => r

/-- A store that faults at its home is dropped and recorded (R383). -/
def Memory.storeIa (m : Memory) (ia : Addr) (n x : Nat) (job : BitVec 32) : Memory × Req :=
  match m.writeIa ia n x job with
  | (m, .fault st) => (m.postHome (homeOf ia) 0 st job (lineOf ia) (BitVec.ofNat 64 n), .fault st)
  | r => r

/-! ### Reads and writes of several lines, by IA -/

/-- The cut of n bytes at a into the pieces of at most z bytes that lie in aligned blocks of z:
address and size. -/
def cutAt (z : Nat) : Nat → Nat → Nat → List (Nat × Nat)
  | 0, _, _ => []
  | _, _, 0 => []
  | f + 1, a, n =>
    let k := min n (z - a % z)
    (a, k) :: cutAt z f (a + k) (n - k)

/-- Pieces of one line each. -/
def cutLines (a n : Nat) : List (Nat × Nat) := cutAt 128 (n / 128 + 2) a n

/-- A read of n bytes that may span lines. -/
def Memory.readBytes (m : Memory) (ia : Addr) (n : Nat) (job : BitVec 32) : Memory × Acc :=
  (cutLines ia.toNat n).foldl (fun (acc : Memory × Acc) (a, k) =>
    match acc with
    | (m, .ok x p) =>
      match m.readIa (BitVec.ofNat 48 a) k job with
      | (m, .ok y q) => (m, .ok (x + y * 2 ^ (8 * (a - ia.toNat))) (p || q))
      | r => r
    | r => r) (m, .ok 0 false)

/-- A write of n bytes that may span lines; it ends at the first line that faults or waits. -/
def Memory.writeBytes (m : Memory) (ia : Addr) (n x : Nat) (job : BitVec 32) : Memory × Req :=
  (cutLines ia.toNat n).foldl (fun (acc : Memory × Req) (a, k) =>
    match acc with
    | (m, .go _ _) => m.writeIa (BitVec.ofNat 48 a) k (x / 2 ^ (8 * (a - ia.toNat)) % 2 ^ (8 * k)) job
    | r => r) (m, .go (.loc 0) false)

/-! ### The L1 (R116) -/

/-- The L1 line of an IA that may serve a load. -/
def Core.l1Find (c : Core) (ia : Addr) : Option (BitVec 1024) :=
  if c.l1Old.contains (lineOf ia) then none else (c.l1.find? fun x => x.1 == lineOf ia).map Prod.snd

/-- Invalidate the L1 (R267, R276). -/
def Core.l1Clear (c : Core) : Core := { c with l1 := [], l1Old := [] }

/-- Invalidate one line of the L1. -/
def Core.l1Drop (c : Core) (line : Nat) : Core :=
  { c with l1 := c.l1.filter fun x => x.1 != line, l1Old := c.l1Old.filter fun x => x != line }

/-- n bytes at an IA have been returned by memory, past the L1: a line of the L1 that holds other bytes there
serves no load from then on (R280, log 101). -/
def Core.l1Pass (c : Core) (ia n x : Nat) : Core :=
  (cutAt 128 (n / 128 + 2) ia n).foldl (fun c (a, k) =>
    let line := a / 128 * 128
    match c.l1.find? fun y => y.1 == line with
    | some y =>
      if y.2.toNat / 2 ^ (8 * (a - line)) % 2 ^ (8 * k) = x / 2 ^ (8 * (a - ia)) % 2 ^ (8 * k) || c.l1Old.contains line then c
      else { c with l1Old := line :: c.l1Old }
    | none => c) c

/-- Fill a line: 4 ways of the set IA[13:7]; which of them leaves a full set is not said (R116, log 11). -/
def Core.l1Fill (c : Core) (line : Nat) (x : BitVec 1024) : Core :=
  let c := c.l1Drop line
  let same := c.l1.filter fun y => y.1 / 128 % 128 == line / 128 % 128
  if same.length < 4 then { c with l1 := c.l1 ++ [(line, x)] }
  else
    let v := (same.map Prod.fst).getD (Config.victim (same.map Prod.fst) line % same.length) 0
    let c := c.l1Drop v
    { c with l1 := c.l1 ++ [(line, x)] }

/-- A performed store updates a hitting line (R262). -/
def Core.l1Store (c : Core) (ia : Addr) (n x : Nat) : Core :=
  let off := ia.toNat % 128
  let mask := (2 ^ (8 * n) - 1) * 2 ^ (8 * off)
  { c with l1 := c.l1.map fun y =>
      if y.1 = lineOf ia then (y.1, BitVec.ofNat 1024 (andNot 1024 y.2.toNat mask ||| (x % 2 ^ (8 * n)) * 2 ^ (8 * off))) else y }

end Sys2Proof.Machine
end

