-- ==== Sys2Proof/Machine/Gm.lean ====
section
/-! DEFINITION. The queues of a partition and what performing their entries does: loads, stores,
atomics, walks, marks, forks and spill accesses, with the retry ring (R129 to R132, R176, R215 to
R220, R242, R261 to R274, R354, R355, R382 to R389, R393). -/

namespace Sys2Proof.Machine

/-! ### The retry ring (R354, R355) -/

/-- Fields of a retry-ring entry that its maker gives. -/
structure RingIn where
  kind : Nat
  unit : Nat
  cause : Nat
  nib : Bool
  md : Nat
  va : Nat
  opa : Word
  opb : Word
  opc : Nat
deriving DecidableEq, Repr

/-- The 64 bytes of a retry-ring entry as a number (R355). -/
def ringNat (k p : Nat) (job : BitVec 32) (ria : Addr) (r : RingIn) (seq : BitVec 32) : Nat :=
  let d0 := bitAt 63 true ||| at' 60 r.kind ||| at' 56 p ||| at' 50 r.unit ||| at' 40 r.cause ||| at' 36 (corOf k) |||
    at' 32 (cluOf k) ||| job.setWidth 64
  let d1 := bitAt 52 r.nib ||| at' 48 r.md ||| at' 0 (r.va % 2 ^ 48)
  d0.toNat + d1.toNat * 2 ^ 64 + ria.toNat * 2 ^ 128 + r.opa.toNat * 2 ^ 192 + r.opb.toNat * 2 ^ 256 +
    seq.toNat * 2 ^ 320 + r.opc * 2 ^ 384

/-- A fault places an entry on the retry ring and answers its INDEX; on a full ring it sets OVF and
answers none (R354). No answer at all when the home holds the write. -/
def State.ringPut (s : State) (k p : Nat) (r : RingIn) : Option (State × Nat) :=
  let n := 2 ^ s.fw.rrcfg.toNat
  if (s.fw.rrtail - s.fw.rrhead).toNat = n then some ({ s with fw := { s.fw with rrovf := true } }, noIndex)
  else
    let c := s.core k
    let ria := match c.job with | some j => j.ria | none => 0
    let a := (fld s.fw.rrbase 0 48 + 64 * (s.fw.rrtail.toNat % n)) % 2 ^ 48
    match s.mem.storeIa (BitVec.ofNat 48 a) 64 (ringNat k p c.jobId ria r s.fw.rrtail) c.jobId with
    | (_, .wait) => none
    | (m, _) =>
      some ({ s.modCore k (fun c => { c with ringValid := c.ringValid + 1 }) with
        mem := m, fw := { s.fw with rrtail := s.fw.rrtail + 1 } }, s.fw.rrtail.toNat)

/-! ### Returning a value to a latch -/

/-- The data or poison of a scoreboarded access returns to its latches (R64, R215). -/
def Partition.returnFly (q : Partition) (id : Nat) (res res1 flag : Option Slot) : Partition :=
  { q with fly := q.fly.map fun f => if f.seq = id then { f with ready := true, res := res, res1 := res1, flag := flag } else f }

/-- Remove an entry from the queues. -/
def Partition.dropMop (q : Partition) (id : Nat) : Partition := { q with mops := q.mops.filter fun o => o.id != id }

/-- An entry returns its latches and leaves the queues. -/
def State.finishMop (s : State) (k p id : Nat) (res res1 flag : Option Slot) : State :=
  s.modPrt k p fun q => (q.returnFly id res res1 flag).dropMop id

/-! ### Store forwarding (R265) -/

/-- A form that reads or writes a nibble (R214). -/
def MemOp.isNibble (o : MemOp) : Bool :=
  (o.opc == 0x1B) || ((o.opc == 4 || o.opc == 5 || o.opc == 6) && o.md == 0)

/-- The bytes of a byte with a nibble replaced (R214). -/
def putNibble (old : Nat) (hi : Bool) (x : Nat) : Nat :=
  if hi then old % 16 + 16 * (x % 16) else old / 16 * 16 + x % 16

/-- A nibble of a byte. -/
def getNibble (x : Nat) (hi : Bool) : Nat := if hi then x / 16 % 16 else x % 16

/-- Whether two byte ranges overlap. -/
def rangesMeet (a n b m : Nat) : Bool := decide (a < b + m) && decide (b < a + n)

/-- n bytes at an IA with the bytes of an earlier queued store laid over them. -/
def overlayStore (ia n : Nat) (x : Nat) (o : MemOp) : Nat :=
  let b := o.ia.toNat
  if o.kind ≠ .store ∨ rangesMeet ia n b o.size = false then x
  else if o.isNibble then
    let sh := 8 * (b - ia)
    andNot (8 * n) x (255 * 2 ^ sh) + putNibble (x / 2 ^ sh % 256) o.nib o.a.toNat * 2 ^ sh
  else
    let lo := max ia b
    let hi := min (ia + n) (b + o.size)
    let w := 8 * (hi - lo)
    let sh := 8 * (lo - ia)
    andNot (8 * n) x ((2 ^ w - 1) * 2 ^ sh) + (o.a.toNat / 2 ^ (8 * (lo - b)) % 2 ^ w) * 2 ^ sh

/-- Entries of a partition's queues before one. -/
def Partition.mopsBefore (q : Partition) (id : Nat) : List MemOp := q.mops.takeWhile fun o => o.id != id

/-- n bytes at an IA as an entry sees them over memory's (R265). -/
def Partition.overlay (q : Partition) (id : Nat) (ia n x : Nat) : Nat :=
  (q.mopsBefore id).foldl (overlayStore ia n) x

/-- An earlier store of the partition covers a whole piece, and a load is bound to see it (R387, R388). -/
def Partition.coversPiece (q : Partition) (id piece : Nat) : Bool :=
  (q.mopsBefore id).any fun o =>
    o.kind == .store && !o.isNibble && decide (o.ia.toNat ≤ 16 * piece) && decide (16 * piece + 16 ≤ o.ia.toNat + o.size)

/-- Whether n bytes at an IA, which stand at a place, include a poisoned piece that the entry is to see (R386,
R388). -/
def Partition.meetsPoison (q : Partition) (id : Nat) (m : Memory) (pl : Place) (ia n : Nat) : Bool :=
  (List.range (n / 16 + 2)).any fun i =>
    let piece := ia / 16 + i
    let a := max ia (16 * piece)
    decide (a < ia + n) && m.poisoned (pl.add (a - ia)) 1 && !q.coversPiece id piece

/-- The stores that supply bytes to an entry are marked: their values have been returned (R280). -/
def Partition.markSeen (q : Partition) (id ia n : Nat) : Partition :=
  let ids := ((q.mopsBefore id).filter fun o => o.kind == .store && rangesMeet ia n o.ia.toNat o.size).map MemOp.id
  { q with mops := q.mops.map fun o => if ids.contains o.id then { o with seen := true } else o }

/-- Another partition of the core has had the value of a store that is not performed yet: a read of those bytes
waits for that store, since it may not return an older value (R280). -/
def Core.seenElsewhere (c : Core) (p ia n : Nat) : Bool :=
  (List.range 12).any fun r => r != p && (c.prt r).mops.any fun o => o.kind == .store && o.seen && rangesMeet ia n o.ia.toNat o.size

/-! ### When an entry may be performed (R264 to R267) -/

/-- An entry that orders every later one. -/
def MemOp.isBarrier (o : MemOp) : Bool :=
  match o.kind with
  | .amo | .mark _ => true
  | _ => false

/-- A walk. -/
def MemOp.isWalk (o : MemOp) : Bool :=
  match o.kind with
  | .walk _ => true
  | _ => false

/-- The place of a command. -/
def MemOp.isFork (o : MemOp) : Bool :=
  match o.kind with
  | .fork _ => true
  | _ => false

/-- An entry that counts as a load. -/
def MemOp.isLoad (o : MemOp) : Bool :=
  match o.kind with
  | .load _ | .walk _ => true
  | _ => false

/-- Whether an earlier entry keeps a later one from being performed (R264, R265, R267, R273). A walk counts as a
load. What a walk reads is not known before it reads, so a store waits for an earlier walk; walks keep their
order (log 102). -/
def mopBlocks (e o : MemOp) : Bool :=
  match o.kind with
  | .load _ | .walk _ => e.isLoad || e.isBarrier
  | .store => e.kind == .store || e.isBarrier || e.isWalk || (e.isLoad && rangesMeet e.ia.toNat e.size o.ia.toNat o.size)
  | .amo => e.isLoad || e.kind == .store || e.isBarrier
  | .mark .prt => e.isLoad || e.isBarrier
  | .mark _ => e.isLoad || e.kind == .store || e.isBarrier
  | .fork _ => e.kind == .store || e.isBarrier

/-- Whether an entry may be performed now. -/
def Partition.mopReady (q : Partition) (o : MemOp) : Bool :=
  !o.held && (q.mopsBefore o.id).all fun e => !mopBlocks e o

/-! ### Poison of a fault (R351) -/

/-- The value that a faulting load leaves: the poison word and its VA, modifier and forms. -/
def loadPoison (o : MemOp) (cause : Nat) (spec : Bool) (index : Nat) : Slot :=
  let d1 := at' 0 o.va.toNat ||| at' 48 o.md.toNat ||| bitAt 50 o.nib ||| bitAt 51 (o.opc == 5 || o.opc == 6)
  ⟨BitVec.ofNat 8192 ((poisonWord cause spec false index).toNat + d1.toNat * 2 ^ 64), true, false⟩

/-- Unit id of a gm or rw unit (R154). -/
def mopUnitId (u : UnitName) : Nat :=
  match u with
  | .gm0 => 0x10
  | .gm1 => 0x11
  | .rw => 0x12
  | _ => 0

/-- A load or atomic that faulted poisons res, with a ring entry unless it was speculative (R215,
R216, R219, R354). -/
def State.faultMop (s : State) (k p : Nat) (o : MemOp) (st : BitVec 8) : Option State :=
  let isAmo := o.kind == .amo
  let spec := o.kind == .load true
  if spec then
    some (s.finishMop k p o.id (some (loadPoison o st.toNat true noIndex)) none none)
  else
    let kd := if isAmo then 2 else if o.opc = 5 then 1 else 0
    let r : RingIn :=
      ⟨kd, mopUnitId o.unit, st.toNat, o.nib && o.isNibble, o.md.toNat, o.va.toNat,
        if isAmo then o.a.setWidth 64 else 0, if isAmo then o.b else 0, o.opc.toNat⟩
    (s.ringPut k p r).map fun (s, ix) =>
      let v := if isAmo then poisonedSlot (poisonWord st.toNat false false ix) else loadPoison o st.toNat false ix
      s.finishMop k p o.id (some v) none none

/-! ### Requests to MOVING pages (R115) -/

/-- Whether an IA lies in a Cairn page that is MOVING. -/
def Memory.isMoving (m : Memory) (ia : Addr) : Bool :=
  match m.xlate ia with
  | (_, .ok x) => match x.page with | some e => e.moving | none => false
  | _ => false

/-- A home holds a request, which has reached it and is counted now (R114, R115); not while it has no room for a record
that the count may post (R384). -/
def Memory.hold (m : Memory) (r : HeldReq) : Option Memory :=
  let h := homeOf r.ia
  match m.xlate r.ia with
  | (m, .ok x) => if m.recFull h then none else some ((m.counted x r.kind r.ia r.job).modHome h fun y => { y with held := y.held ++ [r] })
  | _ => none

/-- A request that cannot proceed, of an entry and for an IA: to a MOVING page it is held, up to 64 requests a
home, and a further one waits in the mesh (R115, R390); otherwise, and while the home could not post what the count may
post (R384), it waits where it is. -/
def State.holdAt (s : State) (k p : Nat) (o : MemOp) (kind : AccKind) (ia : Addr) : Option State :=
  let h := homeOf ia
  let mark (f : MemOp → MemOp) : State := s.modPrt k p fun q => { q with mops := q.mops.map fun x => if x.id = o.id then f x else x }
  if s.mem.isMoving ia = false then none
  else if (s.mem.home h).held.length < 64 then
    (s.mem.hold ⟨kind, ia, natBytes o.size o.a.toNat, (s.core k).jobId, some (k, p, o.id)⟩).map fun m =>
      { mark (fun x => { x with held := true, mesh := false }) with mem := m }
  else some (mark fun x => { x with mesh := true })

/-- A request that cannot proceed, for the entry's own IA. -/
def State.holdMop (s : State) (k p : Nat) (o : MemOp) (kind : AccKind) : Option State := s.holdAt k p o kind o.ia

/-! ### Loads (R215, R280) -/

/-- The line of an IA as the core obtains it: from the L1, or by a request that may fill it. -/
inductive LineAns where
  | line (x : Nat) (p : Option Place)
  | fault (st : BitVec 8)
  | wait
deriving DecidableEq, Repr

/-- A load's line (R116, R215). A line with a poisoned piece does not enter the L1, which has no place for
poison (R388, log 103). -/
def State.loadLine (s : State) (k : Nat) (ia : Addr) (l1p : BitVec 2) : State × LineAns :=
  let c := s.core k
  match (if l1p.toNat < 2 then c.l1Find ia else none) with
  | some x => (s, .line x.toNat none)
  | none =>
    let base : Addr := BitVec.ofNat 48 (lineOf ia)
    match s.mem.request base .rd 128 c.jobId with
    | (m, .go pl _) =>
      let x := m.get pl 128
      let s := { s with mem := m }
      let s := if l1p = 0 ∧ m.poisoned pl 128 = false then s.modCore k (fun c => c.l1Fill (lineOf ia) (BitVec.ofNat 1024 x)) else s
      (s, .line x (some pl))
    | (m, .fault st) => ({ s with mem := m }, .fault st)
    | (_, .wait) => (s, .wait)

/-- Ports to which stores of the core's partitions have been forwarded and not yet released. -/
def Core.storeFwd (c : Core) : BitVec 4 := c.prts.foldl (fun n q => n ||| q.fwd) 0

/-- A gm load is performed. One that the L1 serves may return a forwarded store of another partition of the core, which
a later mark.sys is to release too; one that goes to an owner follows such stores there (R268, R279). -/
def State.performLoad (s : State) (k p : Nat) (o : MemOp) : Option State :=
  if o.fault ≠ 0 then s.faultMop k p o o.fault
  else if (s.core k).seenElsewhere p o.ia.toNat o.size then none
  else
    match s.loadLine k o.ia o.l1p with
    | (_, .wait) => s.holdMop k p o .rd
    | (s, .fault st) => s.faultMop k p o st
    | (s, .line x pl) =>
      let q := (s.core k).prt p
      let a := o.ia.toNat
      let off := a % 128
      let psn := match pl with | some l => q.meetsPoison o.id s.mem (l.add off) a o.size | none => false
      if psn then s.faultMop k p o stEcc
      else
        let raw := x / 2 ^ (8 * off) % 2 ^ (8 * o.size)
        let v := q.overlay o.id a o.size raw
        let v := if o.isNibble then getNibble v o.nib else v
        let s := if pl.isSome then s.modCore k fun c => c.l1Pass a o.size raw else s.modPrt k p fun q => { q with fwd := q.fwd ||| (s.core k).storeFwd }
        let s := s.modPrt k p fun q => q.markSeen o.id a o.size
        some (s.finishMop k p o.id (some ⟨BitVec.ofNat 8192 v, false, false⟩) none none)

/-! ### Stores (R217, R262, R383) -/

/-- A store is performed. -/
def State.performStore (s : State) (k p : Nat) (o : MemOp) : Option State :=
  let job := (s.core k).jobId
  match s.mem.request o.ia .wr o.size job with
  | (_, .wait) => s.holdMop k p o .wr
  | (m, .fault st) =>
    some { s.modPrt k p (fun q => q.dropMop o.id) with
      mem := m.postHome (homeOf o.ia) 0 st job (lineOf o.ia) (BitVec.ofNat 64 o.size) }
  | (m, .go pl c) =>
    let x := if o.isNibble then putNibble (m.get pl 1) o.nib o.a.toNat else o.a.toNat % 2 ^ (8 * o.size)
    let m := (m.put pl o.size x).cleanPieces pl o.size
    let s := { s with mem := m }
    let s := s.modCore k fun c => c.l1Store o.ia o.size x
    some (s.modPrt k p fun q =>
      { q.dropMop o.id with fwd := match pl, c with | .own n _, false => putBit q.fwd n true | _, _ => q.fwd })

/-! ### Atomics (R113, R219) -/

/-- The new value of an atomic; none when a failed cas writes nothing (R219). -/
def amoNew (opc : Nat) (z : Nat) (nib : Bool) (old a b : Nat) : Option Nat :=
  let n := 8 * z
  match opc with
  | 0x10 => some ((old + a) % 2 ^ n)
  | 0x11 => some (old &&& a)
  | 0x12 => some (old ||| a)
  | 0x13 => some (old ^^^ a)
  | 0x14 => some (if signed n a < signed n old then a else old)
  | 0x15 => some (if signed n old < signed n a then a else old)
  | 0x16 => some (min old a)
  | 0x17 => some (max old a)
  | 0x18 => some a
  | 0x19 => if old = a then some b else none
  | 0x1A => some (addRne old a).1
  | _ => some (putNibble old nib a)

/-- Atomics that PCIe performs at an owner (R113). -/
def amoAtOwner (opc : Nat) : Bool := opc == 0x10 || opc == 0x18 || opc == 0x19

/-- An atomic is performed. -/
def State.performAmo (s : State) (k p : Nat) (o : MemOp) : Option State :=
  if o.fault ≠ 0 then s.faultMop k p o o.fault
  else if (s.core k).seenElsewhere p o.ia.toNat o.size then none
  else
    match s.mem.request o.ia .at o.size (s.core k).jobId with
    | (_, .wait) => s.holdMop k p o .at
    | (m, .fault st) => { s with mem := m }.faultMop k p o st
    | (m, .go pl c) =>
      let owned := match pl with | .own _ _ => true | _ => false
      if owned && !c && !amoAtOwner o.opc.toNat then { s with mem := m }.faultMop k p o stHatom
      else if m.poisoned pl o.size then { s with mem := m }.faultMop k p o stEcc
      else
        let old := m.get pl o.size
        let n := 8 * o.size
        let m := match amoNew o.opc.toNat o.size o.nib old (o.a.toNat % 2 ^ n) (o.b.toNat % 2 ^ n) with
          | some x => (m.put pl o.size x).cleanPieces pl o.size
          | none => m
        let s := { s with mem := m }
        let s := s.modCore k fun c => c.l1Drop (lineOf o.ia)
        let v := if o.isNibble then getNibble old o.nib else old
        some (s.finishMop k p o.id (some ⟨BitVec.ofNat 8192 v, false, false⟩) none none)

/-! ### Walks (R129 to R132, R242) -/

/-- A reader of n bytes at an IA, threading memory and what else it notes. -/
abbrev IaReader (σ : Type) := σ → Addr → Nat → σ × Acc

/-- A walk from a node, with the depth that is left and the path (R131). A read that faults or meets
a poisoned piece gives WFAULT (R387). ROOT, CHILD and PLIST are taken as they stand, aligned or not (log 128). -/
def walkNode {σ : Type} (rd : IaReader σ) (p : Nat) : Nat → σ → Addr → Word → σ × WalkOut
  | 0, m, _, _ => (m, .bad 2)
  | d + 1, m, n, path =>
    if iaReserved n then (m, .bad 4)
    else
      match rd m n 64 with
      | (m, .wait) => (m, .wait n)
      | (m, .fault _) => (m, .bad 4)
      | (m, .ok x psn) =>
        let dw (i : Nat) : Word := BitVec.ofNat 64 (x / 2 ^ (64 * i))
        let start := fld (dw 0) 32 32
        if psn then (m, .bad 4)
        else if bit (dw 1) 6 = false then (m, .bad 1)
        else if start ≤ p ∧ p - start < fld (dw 0) 0 32 then
          let j := (p - start) / 64
          let pl : Addr := (dw 6).setWidth 48
          let ea : Addr := BitVec.ofNat 48 (pl.toNat + 8 * j)
          if iaReserved ea then (m, .bad 4)
          else
            match rd m ea 8 with
            | (m, .wait) => (m, .wait ea)
            | (m, .fault _) => (m, .bad 4)
            | (m, .ok y psn) =>
              let base := fld (dw 1) 32 32 + 64 * j
              if psn then (m, .bad 4)
              else
                (m, .ok (BitVec.ofNat 48 y)
                  (bitAt 33 (decide (2 ^ 32 ≤ base)) ||| bitAt 32 (bit (dw 1) 5) ||| at' 0 (base % 2 ^ 32)) j ((p - start) % 64) pl)
        else
          let ch := fld path 0 2
          if d = 0 ∨ bit (dw 1) ch = false then (m, .bad 2)
          else walkNode rd p d m ((dw (2 + ch)).setWidth 48) (path >>> 2)

/-- A walk from a handle of 16 bytes (R130, R131, R242). -/
def walkHandle {σ : Type} (rd : IaReader σ) (p : Nat) (m : σ) (hdl : Nat) : σ × WalkOut :=
  let d0 : Word := BitVec.ofNat 64 hdl
  let depth := fld d0 52 6
  if depth = 0 ∨ 32 < depth ∨ fld d0 58 6 ≠ 0 ∨ fld d0 48 4 ≠ 0 then (m, .bad 3)
  else walkNode rd p depth m (d0.setWidth 48) (BitVec.ofNat 64 (hdl / 2 ^ 64))

/-- flag of a walk (R242). -/
def walkFlag : WalkOut → Word
  | .ok _ _ j sl _ => at' 32 (j % 65536) ||| at' 0 sl
  | .bad st => at' 56 st
  | .wait _ => 0

/-- What an rw walk has read: addresses, sizes and bytes. -/
abbrev WalkLog := Memory × List (Nat × Nat × Nat)

/-- The reads of an rw walk: at the point of coherence, over the earlier stores of its partition (R265, R280,
R388). -/
def Core.walkReader (c : Core) (p : Nat) (o : MemOp) : IaReader WalkLog := fun (m, l) ia n =>
  let q := c.prt p
  let a := ia.toNat
  if c.seenElsewhere p a n then ((m, l), .wait)
  else
    match m.request ia .rd n c.jobId with
    | (m, .go pl _) =>
      let x := m.get pl n
      ((m, (a, n, x) :: l), .ok (q.overlay o.id a n x) (q.meetsPoison o.id m pl a n))
    | (m, .fault st) => ((m, l), .fault st)
    | (m, .wait) => ((m, l), .wait)

/-- A walk of an entry: its handle and then the nodes (R242). -/
def Core.walkEntry (c : Core) (p : Nat) (o : MemOp) (m : Memory) : WalkLog × WalkOut :=
  let rd := c.walkReader p o
  if o.fault ≠ 0 then ((m, []), .bad 4)
  else
    match rd (m, []) o.ia 16 with
    | (l, .wait) => (l, .wait o.ia)
    | (l, .fault _) => (l, .bad 4)
    | (l, .ok x psn) => if psn then (l, .bad 4) else walkHandle rd (o.b.toNat % 2 ^ 32) l x

/-- The core after the reads of a walk: stores that supplied bytes are marked, and L1 lines with other bytes serve
no load (R280). -/
def Core.walkRead (c : Core) (p : Nat) (o : MemOp) (l : List (Nat × Nat × Nat)) : Core :=
  l.foldr (fun (a, n, x) c => (c.l1Pass a n x).modPrt p fun q => q.markSeen o.id a n) c

/-- The core and memory after the reads of a walk. -/
def State.afterWalk (s : State) (k p : Nat) (o : MemOp) (l : WalkLog) : State :=
  { s.modCore k (fun c => c.walkRead p o l.2) with mem := l.1 }

/-- A walk is performed. A walkp that succeeds prefetches the descriptor and the next page-list entry (R242). -/
def State.performWalk (s : State) (k p : Nat) (o : MemOp) (pref : Bool) : Option State :=
  let pos := o.b.toNat % 2 ^ 32
  let r := (s.core k).walkEntry p o s.mem
  let w := r.2
  let s1 : State := s.afterWalk k p o r.1
  let clean (x : Nat) : Slot := ⟨BitVec.ofNat 8192 x, false, false⟩
  match w with
  | .wait ia => s.holdAt k p o .rd ia
  | .ok desc kvpos j _ pl =>
    let fills := [desc, BitVec.ofNat 48 (pl.toNat + 8 * (j + 1))].map fun (a : Addr) => (a, (1 : BitVec 2))
    let s2 := if pref then s1.modCore k fun c => { c with prefs := c.prefs ++ fills } else s1
    some (s2.finishMop k p o.id (some (clean desc.toNat)) (some (clean kvpos.toNat)) (some (clean (walkFlag w).toNat)))
  | .bad st =>
    let fin (s : State) (ix : Nat) : State :=
      let v := poisonedSlot (poisonWord (0x30 + st) false false ix)
      s.finishMop k p o.id (some v) (some v) (some (clean (walkFlag w).toNat))
    if st = 4 then
      (s1.ringPut k p ⟨4, mopUnitId .rw, 0x34, false, o.md.toNat, o.va.toNat, BitVec.ofNat 64 pos, 0, o.opc.toNat⟩).map
        fun (s, ix) => fin s ix
    else some (fin s1 noIndex)

/-! ### Marks and forks (R267, R273) -/

/-- A system-scope release: the bridges read zero bytes from the owners behind ports (R267, R279). -/
def State.readOwners (s : State) (ports : BitVec 4) : State :=
  { s with out := (((List.range 4).filter fun n => ports.getLsbD n).map OutMsg.read0).reverse ++ s.out }

/-- A mark is performed: from clu on it invalidates the L1, and at sys the bridges read zero bytes from
the owners of earlier forwarded stores, and of forwarded writes of the job's engines, which the partition may have joined
(R267, R268, log 126). -/
def State.performMark (s : State) (k p : Nat) (o : MemOp) (sc : Scope) : State :=
  let q := (s.core k).prt p
  let s := s.modPrt k p fun q => q.dropMop o.id
  let s := match sc with
    | .prt | .core => s
    | _ => s.modCore k Core.l1Clear
  match sc with
  | .sys => (s.modPrt k p fun q => { q with fwd := 0 }).readOwners (q.fwd ||| (s.core k).engFwd)
  | _ => s

/-- The stores before a command have been performed: its operation may start (R273). -/
def State.performFork (s : State) (k p : Nat) (o : MemOp) (id : Nat) : State :=
  (s.modPrt k p fun q => q.dropMop o.id).modCore k fun c =>
    { c with ops := c.ops.map fun e => if e.id = id then { e with forked := true } else e }

/-- An entry of the queues is performed; no answer while it must wait. -/
def State.performMop (s : State) (k p : Nat) (o : MemOp) : Option State :=
  match o.kind with
  | .load _ => s.performLoad k p o
  | .store => s.performStore k p o
  | .amo => s.performAmo k p o
  | .walk pref => s.performWalk k p o pref
  | .mark sc => some (s.performMark k p o sc)
  | .fork id => some (s.performFork k p o id)

/-- The entry that a return of gm or rw data performs. -/
def Partition.loadEntry (q : Partition) (id : Nat) : Option MemOp :=
  q.mops.find? fun o => o.id == id && (o.isLoad || o.kind == .amo)

/-- The store, mark or fork that is performed next: a mark of scope prt as soon as the loads before it have been
performed, since it does not hold stores back (R267), else the first that may be. -/
def Partition.storeEntry (q : Partition) : Option MemOp :=
  match q.mops.find? fun o => o.kind == .mark .prt && q.mopReady o with
  | some o => some o
  | none => q.mops.find? fun o => !(o.isLoad || o.kind == .amo) && q.mopReady o

/-! ### Spill accesses of the return stack (R176) -/

/-- The job's descriptor doubleword i. -/
def Core.descDw (c : Core) (i : Nat) : Word := match c.job with | some j => j.desc.getD i 0 | none => 0

/-- RUCK of the job (R29). -/
def Core.ruck (c : Core) : Nat := fld (c.descDw 6) 0 48

/-- SPA of partition p (R176). -/
def Core.spa (c : Core) (p : Nat) : Addr := BitVec.ofNat 48 (c.ruck + 0x200000 + 0x1000 * p)

/-- Translation of an access of partition p through a list of FTB entries; the outcome of a refill that failed for it
stands for a miss (R102, R103). -/
def Core.translateBy (c : Core) (es : List FtbEntry) (p : Nat) (va : Addr) (kind : AccKind) : FtbAns :=
  match ftbLookup es va kind with
  | .miss =>
    match c.refillFault.find? fun f => f.1 == p && f.2.1.toNat / 4096 == va.toNat / 4096 with
    | some f => .fault f.2.2
    | none => .miss
  | a => a

/-- Translation of an access of partition p through the FTB as it stands. -/
def Core.translate (c : Core) (p : Nat) (va : Addr) (kind : AccKind) : FtbAns := c.translateBy c.sh.ftb p va kind

/-- The accesses of partition p for which refills failed have taken their outcomes. -/
def Core.endRefill (c : Core) (p : Nat) : Core := { c with refillFault := c.refillFault.filter fun f => f.1 != p }

/-- Partition p misses on a VA: the core refills the FTB, or joins a refill of the same page (R103, R104). No answer
while another refill keeps it waiting. -/
def Core.miss (c : Core) (p : Nat) (va : Addr) (kind : AccKind) : Option Core :=
  match c.refill with
  | none => some { c with refill := some ⟨p, [], va, kind⟩ }
  | some r =>
    if r.va.toNat / 4096 = va.toNat / 4096 ∧ r.prt ≠ p ∧ p ∉ r.also then some { c with refill := some { r with also := r.also ++ [p] } }
    else none

/-- What a spill access answers: the state after it, or after a fault at a VA, or a miss to refill, or a
hold. -/
inductive SpillAns where
  | ok (s : State) (x : Nat)
  | fault (s : State) (va : Addr) (st : BitVec 8)
  | miss (va : Addr) (kind : AccKind)
  | wait

/-- A spill read: a load that follows every entry of its partition's queues (R264, R265, R280, R388). -/
def State.spillRead (s : State) (k p : Nat) (va : Addr) : SpillAns :=
  match (s.core k).translate p va .rd with
  | .miss => .miss va .rd
  | .fault st => .fault s va st
  | .ok ia _ =>
    let c := s.core k
    if c.seenElsewhere p ia.toNat 4 then .wait
    else
      match s.mem.request ia .rd 4 c.jobId with
      | (_, .wait) => .wait
      | (m, .fault st) => .fault { s with mem := m } va st
      | (m, .go pl _) =>
        let q := c.prt p
        let x := m.get pl 4
        let s : State := { s with mem := m }
        if q.meetsPoison c.seq m pl ia.toNat 4 then .fault s va stEcc
        else
          .ok ((s.modCore k fun c => c.l1Pass ia.toNat 4 x).modPrt k p fun q => q.markSeen c.seq ia.toNat 4)
            (q.overlay c.seq ia.toNat 4 x)

/-- A spill write. A write that is forwarded counts for mark.sys as a store does (R267). -/
def State.spillWrite (s : State) (k p : Nat) (va : Addr) (x : Nat) : SpillAns :=
  match (s.core k).translate p va .wr with
  | .miss => .miss va .wr
  | .fault st => .fault s va st
  | .ok ia _ =>
    match s.mem.writeIa ia 4 x (s.core k).jobId with
    | (_, .wait) => .wait
    | (m, .fault st) => .fault { s with mem := m } va st
    | (m, .go pl _) =>
      let s := ({ s with mem := m }).modCore k fun c => c.l1Store ia 4 x
      match pl with
      | .own n _ => .ok (s.modPrt k p fun q => { q with fwd := putBit q.fwd n true }) 0
      | _ => .ok s 0

/-- INFO1 and INFO2 of an RSTACK trap for a spill fault (R343). -/
def spillFault (va : Addr) (st : BitVec 8) : Spill := .failed 2 (at' 56 0 ||| at' 48 st.toNat ||| va.setWidth 64)

/-- A spill access ends: the partition learns of success or of the trap to take, or the core refills
the FTB. -/
def State.spillEnd (s0 : State) (k p : Nat) (a : SpillAns) (ok : State → Nat → State) : Option State :=
  match a with
  | .ok s x => some (ok s x)
  | .fault s va st => some ((s.modPrt k p fun q => { q with spill := spillFault va st }).modCore k fun c => c.endRefill p)
  | .miss va kind => ((s0.core k).miss p va kind).map fun c => s0.setCore k c
  | .wait => none

/-- The writes of a spill access, once SCOUNT has been read: of a call the entry and SCOUNT, of a ret SCOUNT
(R176). They follow the partition's earlier stores (R264); until those have been performed, what was read is
kept. -/
def State.spillStores (s : State) (k p : Nat) (push : Bool) (x : BitVec 15) (sc : Nat) : Option State :=
  let spa := (s.core k).spa p
  if ((s.core k).prt p).mops.any fun o => o.kind == .store then
    some (s.modPrt k p fun q => { q with spill := .counted push x sc })
  else if push then
    match s.spillWrite k p (spa + 0x40 + 4 * BitVec.ofNat 48 sc) x.toNat with
    | .ok s2 _ =>
      s.spillEnd k p (s2.spillWrite k p spa (sc + 1)) fun s3 _ => s3.modPrt k p fun q => { q with spill := .donePush }
    | a => s.spillEnd k p a fun s _ => s
  else
    s.spillEnd k p (s.spillWrite k p spa (sc - 1)) fun s3 _ => s3.modPrt k p fun q => { q with spill := .donePop x }

/-- The spill of STACK[0] by a call, or the refill by a ret (R176). The partition's earlier loads have been
performed before it reads SCOUNT, and its earlier stores before it writes (R264). -/
def State.performSpill (s : State) (k p : Nat) : Option State :=
  let q := (s.core k).prt p
  let spa := (s.core k).spa p
  let fail (s : State) (i1 i2 : Nat) : Option State :=
    some (s.modPrt k p fun q => { q with spill := .failed (BitVec.ofNat 64 i1) (BitVec.ofNat 64 i2) })
  match q.spill with
  | .wanted push x =>
    match s.spillRead k p spa with
    | .ok s1 sc =>
      if 1008 < sc then fail s1 3 sc
      else if push then
        if sc = 1008 then fail s1 0 0 else s1.spillStores k p true x sc
      else if sc = 0 then fail s1 1 0
      else
        match s1.spillRead k p (spa + 0x40 + 4 * BitVec.ofNat 48 (sc - 1)) with
        | .ok s2 v => s2.spillStores k p false (BitVec.ofNat 15 v) sc
        | a => s.spillEnd k p a fun s _ => s
    | a => s.spillEnd k p a fun s _ => s
  | .counted push x sc => s.spillStores k p push x sc
  | _ => none

/-- The spill access of a partition may be made: SCOUNT is read when its earlier loads, marks and atomics have
been performed, and the writes are made when its earlier stores have (R264). -/
def Partition.spills (q : Partition) : Bool :=
  match q.spill with
  | .wanted _ _ => q.mops.all fun o => !o.isLoad && !o.isBarrier
  | .counted _ _ _ => q.mops.all fun o => !o.isLoad && !o.isBarrier && o.kind != .store
  | _ => false

/-! ### FTB refill (R103) -/

/-- A read through FTB entries 0 to 15 alone, at a VA, of n bytes of one line. -/
def State.readPinnedLine (s : State) (k : Nat) (va : Addr) (n : Nat) : State × Acc :=
  let c := s.core k
  match ftbLookup (c.sh.ftb.take 16) va .rd with
  | .ok ia _ =>
    match s.mem.readIa ia n c.jobId with
    | (m, a) => ({ s with mem := m }, a)
  | .fault st => (s, .fault st)
  | .miss => (s, .fault stFmiss)

/-- A read through FTB entries 0 to 15 alone, line by line. -/
def State.readPinned (s : State) (k : Nat) (va : Addr) (n : Nat) : State × Acc :=
  (cutLines va.toNat n).foldl (fun (acc : State × Acc) (a, j) =>
    match acc with
    | (s, .ok x p) =>
      match s.readPinnedLine k (BitVec.ofNat 48 a) j with
      | (s, .ok y q) => (s, .ok (x + y * 2 ^ (8 * (a - va.toNat))) (p || q))
      | r => r
    | r => r) (s, .ok 0 false)

/-- What the search of a range table answers. -/
inductive SearchAns where
  | found (e : FtbEntry)
  | none
  | fault (st : BitVec 8)
  | wait
deriving DecidableEq, Repr

/-- The entry that 32 bytes of a record give. -/
def recordOf (x : Nat) : FtbEntry :=
  ⟨BitVec.ofNat 64 x, BitVec.ofNat 64 (x / 2 ^ 64), BitVec.ofNat 64 (x / 2 ^ 128), BitVec.ofNat 64 (x / 2 ^ 192)⟩

/-- An FTB entry as a load leaves it: reserved bits zero, PIN as given (R101). -/
def FtbEntry.loaded (e : FtbEntry) (pin : Bool) : FtbEntry :=
  ⟨e.vabase &&& 0x0000FFFFFFFFF000#64, e.valimit &&& 0x0000FFFFFFFFF000#64, e.iabase &&& 0x0000FFFFFFFFF000#64,
    (e.attr &&& 0xBE00000000000000#64) ||| bitAt 62 pin⟩

/-- Binary search of the range table at VA tab, with lo and hi + 1 (R103). -/
def rangeSearch (k : Nat) (tab : Addr) (pg : Nat) : Nat → State → Nat → Nat → State × SearchAns
  | 0, s, _, _ => (s, .none)
  | f + 1, s, lo, hi =>
    if hi ≤ lo then (s, .none)
    else
      let m := (lo + hi - 1) / 2
      match s.readPinned k (tab + 32 + 32 * BitVec.ofNat 48 m) 32 with
      | (s, .wait) => (s, .wait)
      | (s, .fault _) => (s, .fault stFmiss)
      | (s, .ok x psn) =>
        let e := recordOf x
        if psn then (s, .fault stEcc)
        else if pg < fld e.vabase 12 36 then rangeSearch k tab pg f s lo m
        else if fld e.valimit 12 36 < pg then rangeSearch k tab pg f s (m + 1) hi
        else (s, .found e)

/-- RANGETAB of the job (R29). -/
def Core.rangetab (c : Core) : Addr := BitVec.ofNat 48 (fld (c.descDw 4) 0 48)

/-- The partitions whose accesses a refill serves (R104). -/
def Refill.prts (r : Refill) : List Nat := r.prt :: r.also

/-- The refill of an FTB miss: search, fill at FILLPTR, or the fault to report to every access that waits for it (R103,
R104). -/
def State.ftbFill (s : State) (k : Nat) (r : Refill) : Option State :=
  let c := s.core k
  let pg := r.va.toNat / 4096
  let fail (s : State) (st : BitVec 8) : Option State :=
    some (s.modCore k fun c => { c with refill := none, refillFault := c.refillFault ++ r.prts.map fun p => (p, r.va, st) })
  match s.readPinned k c.rangetab 8 with
  | (_, .wait) => none
  | (s, .fault _) => fail s stFmiss
  | (s, .ok x psn) =>
    if psn then fail s stEcc
    else
      match rangeSearch k c.rangetab pg 17 s 0 (x % 65536) with
      | (_, .wait) => none
      | (s, .none) => fail s stFmiss
      | (s, .fault st) => fail s st
      | (s, .found e) =>
        if bit e.attr 63 = false then fail s stFmiss
        else
          some (s.modCore k fun c =>
            let i := c.sh.fillptr
            let h := { c.sh with ftb := c.sh.ftb.set i (e.loaded false), fillptr := 16 + (i - 16 + 1) % 112 }
            { c with sh := h, refill := none })

end Sys2Proof.Machine
end

