-- ==== Sys2Proof/Machine/Fire.lean ====
section
/-! DEFINITION. What a trigger does when it is written: the inputs it uses, the result it puts in
flight, its effects at the end of the cycle, and its entry into the queues (R57 to R60, R172 to R244,
R351 to R353). -/

namespace Sys2Proof.Machine

/-! ### Inputs (R58) -/

/-- Which of t, o1, o2 and o3 an operation uses. -/
structure Uses where
  t : Bool
  o1 : Bool
  o2 : Bool
  o3 : Bool
deriving DecidableEq, Repr

/-- Only the trigger datum. -/
def Uses.datum : Uses := ⟨true, false, false, false⟩

/-- t and o1. -/
def Uses.two : Uses := ⟨true, true, false, false⟩

/-- t, and the first two ports as told. -/
def Uses.of (a b : Bool) : Uses := ⟨true, a, b, false⟩

/-- Nothing: the datum is ignored. -/
def Uses.nothing : Uses := ⟨false, false, false, false⟩

/-- The ports that a compute trigger uses (R234, R236). -/
def mxUses (c : Cim) (op : MxOp) (z : Bool) : Uses :=
  ⟨true, !z, op == .mad || (!z && mxCb (c.plane c.act).fmt.toNat == 512), mxScaled (cfgAfmt c.cfg)⟩

/-- The inputs of a bld: o2 only for the scales of a block-scaled format with USC = 0 (R232). -/
def bldUses (c : Cim) (o1 : Nat) : Uses :=
  ⟨true, true, mxScaled (cfgBfmt c.cfg) && o1 / 2 ^ 35 % 2 == 0, false⟩

/-- The inputs of a trigger; `r` are its unit's ports and `h` the shared storage at the cycle's
start. -/
def trigUses (h : Shared) (r : UnitRegs) : Trigger → Uses
  | .brJmp _ | .brRet | .lpLbrk | .lpLrd _ | .syJoin | .syUnlock | .syRgn | .syMark _ | .mxBsw _ => .nothing
  | .brTgt _ | .brCall _ | .brTrap | .sySemr | .syLock | .syRah | .syChk | .syEvt => .datum
  | .brBkt | .lpLoop | .sySemw | .sySema => .two
  | .ix _ op _ => .of (ixUsesO1 op) (ixUsesO2 op)
  | .cmp _ _ | .cmpPred _ | .imd _ _ => .two
  | .ksLd _ | .ksLdb _ _ => .datum
  | .ksSt _ | .ksLdx _ _ => .two
  | .ksStx _ _ => .of true true
  | .va _ op _ => .of (vaUsesO1 op) (vaUsesO2 op)
  | .vp op _ => .of (vpUsesO1 op) false
  | .vpF _ _ => .datum
  | .vpClmul _ | .vcCmp _ _ | .vcFcmp _ _ => .two
  | .vcVote _ | .vcClass _ => .datum
  | .vf _ op _ _ => .of (vfUsesO1 op) (vfUsesO2 op)
  | .vfToE8m0 _ _ _ | .vfFromE8m0 _ _ | .vfCvt _ _ _ _ _ | .fsCvt _ _ _ _ => .datum
  | .vx op _ _ => .of (op == .div) false
  | .fs op _ _ => .of true (vfUsesO2 (fsAsVf op))
  | .fsCmp _ _ _ => .two
  | .fd op _ => .of (op == .div) false
  | .mxBld m => bldUses (h.cim m) r.o1.bits.toNat
  | .mxComp op m z => mxUses (h.cim m) op z
  | .mxMcfg _ => .datum
  | .kvLoad _ _ | .kvAp => .of true true
  | .kvFrq _ => .datum
  | .pxCsc _ => .two
  | .pxPack _ => .datum
  | .gmLd _ _ _ | .gmPref _ | .gmLdSm _ _ _ => .datum
  | .gmSt _ _ | .gmStSm _ _ => .two
  | .gmAmo _ op _ => .of true (op == .cas)
  | .gmAmoFadd _ | .gmAmoNib _ => .two
  | .rwWalk _ => .two
  | .tg op => if op = .setag then .two else .datum

/-- Triggers that are sinks for the inputs they use (R353). -/
def trigSink : Trigger → Bool
  | .ksSt _ | .ksStx _ _ | .gmSt _ _ | .gmStSm _ _ | .gmAmo _ _ _ | .gmAmoFadd _ | .gmAmoNib _ => true
  | .kvAp | .kvFrq _ | .mxMcfg _ => true
  | .tg op => op != .look
  | t => t.unit == .br || t.unit == .lp || t.unit == .sy

/-- A poisoned input: its poison word and bytes [15:8] of its value (R343, R351). -/
structure Poisoned where
  pw : Word
  hi : Word
deriving DecidableEq, Repr

/-- Bytes [15:8] of a value. -/
def highDw (x : Wide) : Word := BitVec.ofNat 64 (x.toNat / 2 ^ 64)

/-- The first poisoned input that an operation uses, in the order t, o1, o2, o3 (R236, R352). -/
def firstPoison (u : Uses) (x : Read) (r : UnitRegs) : Option Poisoned :=
  let port (b : Bool) (s : Slot) : Option Poisoned :=
    if b && s.psn then some ⟨s.word, highDw s.bits⟩ else none
  if u.t && x.psn then some ⟨x.pw, highDw x.bits⟩
  else
    match port u.o1 r.o1 with
    | some p => some p
    | none =>
      match port u.o2 r.o2 with
      | some p => some p
      | none => port u.o3 r.o3

/-! ### Results in flight -/

/-- What a trigger of fixed latency computes: latency, latches, flags, effect at landing, and the
poison word of a result that poison or a malformed descriptor made. -/
structure Yield where
  lat : Nat
  res : Option Nat := none
  res1 : Option Nat := none
  flag : Option Nat := none
  fl : FFlags := 0
  eff : FlyEffect := .none
  psn : Bool := false
deriving DecidableEq, Repr

/-- A result of one latch. -/
def Yield.one (lat x : Nat) : Yield := { lat := lat, res := some x }

/-- A result of one latch with flags. -/
def Yield.flagged (lat : Nat) (r : Nat × FFlags) : Yield := { lat := lat, res := some r.1, fl := r.2 }

/-- A core-store read: a poisoned piece gives a poisoned result with cause ECC (R387). -/
def Yield.store (r : Nat × Bool) : Yield :=
  if r.2 then { lat := 6, res := some (poisonWord 0x0C false false noIndex).toNat, psn := true } else .one 6 r.1

/-- The result with every latch that it writes poisoned by a word, without flags (R352). -/
def Yield.poison (r : Yield) (pw : Word) : Yield :=
  let v := (pw ||| bitAt 54 true).toNat
  { r with res := r.res.map fun _ => v, res1 := r.res1.map fun _ => v, flag := r.flag.map fun _ => v, fl := 0, eff := .none, psn := true }

/-- Put a result in flight (R61). -/
def Env.launch (e : Env) (u : UnitName) (m : BitVec 3) (r : Yield) : Env :=
  let slot (x : Option Nat) : Option Slot := x.map fun v => ⟨BitVec.ofNat 8192 v, r.psn, false⟩
  let f : Fly := ⟨e.core.seq, u, m, r.lat, false, true, slot r.res, slot r.res1, slot r.flag, r.fl, r.eff, e.q0.secNo - 1⟩
  { e.modQ (fun q => { q with fly := q.fly ++ [f] }) with core := { (e.modQ (fun q => { q with fly := q.fly ++ [f] })).core with seq := e.core.seq + 1 } }

/-! ### The loop engine (R180 to R182) -/

/-- p8 to p15 as pass j of a loop sees them, as bits [15:8] (R180). -/
def loopPreds (j nst s : Nat) : BitVec 16 :=
  BitVec.ofNat 16 ((List.range 8).foldl (fun acc i => if i < s ∧ i ≤ j ∧ j - i < nst then acc + 2 ^ (8 + i) else acc) 0)

/-- The engine writes p8 to p15 (R77, R180). -/
def Partition.drivePreds (q : Partition) : Partition :=
  { q with
    preds := (q.preds &&& 0x00FF#16) ||| loopPreds q.loop.j.toNat q.loop.nst.toNat q.loop.stages.toNat,
    predPsn := q.predPsn &&& 0x00FF#16 }

/-- L of a loop's control word. -/
def loopL (o1 : Nat) : Nat := o1 % 512
/-- S of a loop's control word. -/
def loopS (o1 : Nat) : Nat := o1 / 2 ^ 16 % 16

/-- A loop trigger in a group of n words at the partition's pc (R180). With N = 0 the body is skipped:
the pc and the words left move past it, beside what the group itself takes. -/
def Partition.startLoop (q : Partition) (o1 t n ibase : Nat) : Partition :=
  let l := loopL o1
  let body := q.pc + BitVec.ofNat 13 (3 * n)
  if t % 2 ^ 32 = 0 then
    { q with loop := .zero, pc := q.pc + BitVec.ofNat 13 (3 * l), left := q.left - l }
  else
    ({ q with loop :=
        ⟨true, BitVec.ofNat 32 t, 0, BitVec.ofNat 32 ibase, BitVec.ofNat 32 t, BitVec.ofNat 9 l, BitVec.ofNat 4 (loopS o1), body, 0⟩ }).drivePreds

/-- lbrk, and a pre-emption request in a pass (R181). With no loop active it does nothing (log 143). -/
def Partition.breakLoop (q : Partition) : Partition :=
  if q.loop.active then { q with loop := { q.loop with nst := BitVec.ofNat 32 (min q.loop.nst.toNat (q.loop.j.toNat + 1)) } } else q

/-- lrd (R182). -/
def loopRead (q : Partition) : LrdSel → Nat
  | .iter => if q.loop.active then (q.loop.ibase.toNat + q.loop.j.toNat) % 2 ^ 64 else 0
  | .rem => if q.loop.active then q.loop.nst.toNat - q.loop.j.toNat - 1 else 0
  | .stg => if q.loop.active then q.preds.toNat / 256 else 0

/-! ### Results of the fixed-latency units -/

/-- The result of a kv or core-store read. -/
def Yield.kv (r : KvOut) : Yield := { lat := 24, res := some r.res, fl := r.fl, psn := r.psn }

/-- The input of a compute trigger of macro m (R234, R235). -/
def Env.mxIn (e : Env) (op : MxOp) (z : Bool) (c : Cim) (x : Nat) (r : UnitRegs)
    (ad : Option (Nat → Nat × FFlags)) : MxIn :=
  { op := op, z := z, cfg := c.cfg, plane := c.plane c.act, mxpad := e.q0.mxpad, t := x, o1 := r.o1.bits.toNat,
    o2 := r.o2.bits.toNat, o3 := r.o3.bits.toNat, diag := cfgDiag c.cfg, tfill := cfgTfill c.cfg, ad := ad }

/-- mma, mmt or mad on clean inputs: a poisoned block of the active plane, or a poisoned piece among
the adapter's bytes, poisons all three latches (R236, R352, R386). -/
def Env.mxResult (e : Env) (op : MxOp) (m : BitVec 3) (z : Bool) (x : Nat) (r : UnitRegs) : Yield :=
  let c := e.sh0.cim m
  let lat := mxWa (cfgAfmt c.cfg) + 10
  let dead (cause : Nat) : Yield :=
    let v := (poisonWord cause false true noIndex).toNat
    { lat := lat, res := some v, res1 := some v, flag := some v, psn := true }
  let pb := c.pblk.toNat / (if c.act then 256 else 1) % 256
  if pb ≠ 0 then dead 0x41
  else
    let ad : Option (Nat → Nat × FFlags) × Bool := if op = .mad then adapterTerm e.sh0 x r.o2.bits.toNat else (none, false)
    if ad.2 then dead 0x0C
    else
      let o := mxCompute (e.mxIn op z c x r ad.1)
      { lat := lat, res := some o.res, res1 := some o.res1, flag := some o.flag, fl := o.fl }

/-- The result of a trigger of fixed latency on clean inputs, none for a trigger without one. -/
def Env.result (e : Env) (t : Trigger) (x : Nat) (r : UnitRegs) : Option Yield :=
  let w := prtWidth e.p
  let a := r.o1.bits.toNat
  let b := r.o2.bits.toNat
  let q := e.q0
  let h := e.sh0
  match t with
  | .lpLrd sel => some (.one 1 (loopRead q sel))
  | .sySemr =>
    let s := h.semaAt (x % 256)
    some (.one 1 (s.val.toNat + if s.ovf then 65536 else 0))
  | .ix _ op wd => some (.one 1 (ixValue op (wBits wd) a b x))
  | .cmp c wd => some (.one 1 (if condHolds c (wBits wd) a x then 1 else 0))
  | .cmpPred op => some (.one 1 (predValue op a x))
  | .imd op w32 =>
    let n := dwBits w32
    let v := imdValue op n a x
    if imdDivides op then some { lat := 20, res := some v, flag := some (imdFlag (imdSigned op) n (a % 2 ^ n) (x % 2 ^ n)) }
    else some (.one 3 v)
  | .ksLd _ => some (.store (ksLoad h w x))
  | .ksLdx _ wd => some (.store (ksGather h w (wBits wd / 8) x a))
  | .ksLdb _ wd => some (.store (ksLoadB h w (wBits wd / 8) x))
  | .va _ op wd => some (.one 1 (vaValue op w (wBits wd) a b x))
  | .vp op wd =>
    let v := vpValue op w (wBits wd) a x
    some { lat := vpLatency op, res := some v.1, res1 := v.2 }
  | .vpF op f => some (.flagged 6 (vpFValue op (fFmt f) q.rm w x))
  | .vpClmul w32 =>
    let v := clmulValue w (dwBits w32) a x
    some { lat := 4, res := some v.1, res1 := some v.2 }
  | .vcCmp c wd => some (.one 1 (vcCmpValue c w (wBits wd) a x))
  | .vcFcmp c f => some (.flagged 1 (vcFcmpValue c (fFmt f) w a x))
  | .vcVote op => some (.one 1 (voteValue op w x))
  | .vcClass f => some (.one 1 (vcClassValue (fFmt f) w x))
  | .vf _ op rc f => some (.flagged 4 (vfValue op (fFmt f) (q.rcMode rc) w a b x))
  | .vfToE8m0 _ _ f => some (.flagged 4 (vfToE8m0Value (fFmt f) w x))
  | .vfFromE8m0 _ _ => some (.one 4 (vfFromE8m0Value w x))
  | .vfCvt _ d s sat rd => some (.flagged 4 (vfCvtValue d s sat (q.cvtMode rd) w x))
  | .vx op rc f =>
    let v := vxValue op (fFmt f) (q.rcMode rc) w a x
    some { lat := vxLatency op, res := some v.1, res1 := v.2.1, fl := v.2.2 }
  | .fs op rc f => some (.flagged 4 (fsValue op (fFmt f) (q.rcMode rc) a b x))
  | .fsCmp c _ f => some (.flagged 4 (fsCmpValue c (fFmt f) a x))
  | .fsCvt d s sat rd => some (.flagged 4 (fsCvtValue d s sat (q.cvtMode rd) x))
  | .fd op rc =>
    let v := fdValue op (q.rcMode rc) a x
    some { lat := 14, res := some v.1, flag := some (fdFlag (x % 2 ^ 32)), fl := v.2 }
  | .mxComp op m z => some (e.mxResult op m z x r)
  | .kvLoad key d => some (.kv (kvLoad key d h q.freq q.kvpos q.kvpad x a b))
  | .kvAp =>
    match kvAppend q.rm x a b with
    | none => some { lat := 24, res := some (poisonWord 0x21 false false noIndex).toNat, psn := true }
    | some o => some { lat := 24, res := some o.res, fl := o.fl, eff := .kvap o.ka o.va o.key o.val }
  | .kvFrq n => some { lat := 24, eff := .kvfrq n (natBytes 512 (csRead h (kvFreqAddr x) 512)) }
  | .pxCsc n => some (.flagged 6 (cscValue n.toNat a x))
  | .pxPack p10 => some (.one 6 (packValue p10 x))
  | _ => none

/-! ### Queue entries (R214 to R220, R242) -/

/-- Bytes of a gm form (R214). -/
def gmBytes : GmZ → Nat
  | .w => 4
  | .d => 8
  | .q => 16
  | .l => 128

/-- Bytes of a small gm form; a nibble takes its byte. -/
def gmSmall : GmS → Nat
  | .n => 1
  | .b => 1
  | .h => 2

/-- What a gm or rw trigger asks of memory: kind of queue entry, kind of access, size. -/
structure GmForm where
  kind : MemKind
  acc : AccKind
  size : Nat
deriving DecidableEq, Repr

/-- The form of a gm or rw trigger, none for a prefetch and for other triggers. -/
def trigGmForm : Trigger → Option GmForm
  | .gmLd _ spec z => some ⟨.load spec, .rd, gmBytes z⟩
  | .gmLdSm _ spec z => some ⟨.load spec, .rd, gmSmall z⟩
  | .gmSt _ z => some ⟨.store, .wr, gmBytes z⟩
  | .gmStSm _ z => some ⟨.store, .wr, gmSmall z⟩
  | .gmAmo _ _ w32 => some ⟨.amo, .at, if w32 then 4 else 8⟩
  | .gmAmoFadd _ => some ⟨.amo, .at, 4⟩
  | .gmAmoNib _ => some ⟨.amo, .at, 1⟩
  | .rwWalk pref => some ⟨.walk pref, .rd, 16⟩
  | _ => none

/-- The VA of a gm or rw access: aligned to its size; a walk's is the handle in o1 (R214, R242). A handle that is not
aligned to 16 bytes is read where it stands (log 128). -/
def trigGmVa (t : Trigger) (f : GmForm) (x : Nat) (r : UnitRegs) : Addr :=
  match t with
  | .rwWalk _ => r.o1.bits.setWidth 48
  | _ => BitVec.ofNat 48 (alignTo f.size (x % 2 ^ 48))

/-- Translation at issue, through the FTB as it stood at the start of the ACLK: a write of the firmware core to an entry
takes effect at its end (R79, R102). -/
def Env.translate (e : Env) (va : Addr) (kind : AccKind) : FtbAns := e.core.translateBy e.sh0.ftb e.p va kind

/-- Enter an access into the partition's queues, and its result into flight when it has one. -/
def Env.enqueue (e : Env) (t : Trigger) (f : GmForm) (x : Nat) (r : UnitRegs) : Env :=
  let va := trigGmVa t f x r
  let ans := e.translate va f.acc
  let (ia, l1p, fault) := match ans with
    | .ok ia l => (ia, l, (0 : BitVec 8))
    | .fault st => ((0 : Addr), (0 : BitVec 2), st)
    | .miss => (0, 0, stFmiss)
  let b : Word := match t with | .rwWalk _ => BitVec.ofNat 64 x | _ => r.o2.bits.setWidth 64
  let o : MemOp := ⟨e.core.seq, f.kind, t.unit, t.opcode, t.modifier, x / 2 ^ 48 % 2 == 1, va, ia, f.size, fault, r.o1.bits, b, l1p, false, e.q0.secNo - 1, false, false⟩
  let fly : Fly := ⟨e.core.seq, t.unit, 0, 40, true, false, none, none, none, 0, .none, e.q0.secNo - 1⟩
  let e := e.modQ fun q =>
    { q with mops := q.mops ++ [o], fly := if f.kind = .store then q.fly else q.fly ++ [fly] }
  { e with core := { e.core with seq := e.core.seq + 1 } }

/-- A gm load or walk with a poisoned address: no access, and its latches land poisoned (R352,
R353). -/
def Env.poisonedLoad (e : Env) (t : Trigger) (pw : Word) : Env :=
  let v := some (poisonedSlot (pw ||| bitAt 54 true))
  let walk := t.unit == .rw
  let fly : Fly :=
    ⟨e.core.seq, t.unit, 0, 40, true, true, v, if walk then v else none, if walk then v else none, 0, .none, e.q0.secNo - 1⟩
  let e := e.modQ fun q => { q with fly := q.fly ++ [fly] }
  { e with core := { e.core with seq := e.core.seq + 1 } }

/-- A prefetch (R218): it enters the queue of cache fills of the core as a load without a latch
that is dropped on any fault. -/
def Env.prefetch (e : Env) (va : Addr) : Env :=
  match e.translate va .rd with
  | .ok ia l => { e with core := { e.core with prefs := e.core.prefs ++ [(ia, l)] } }
  | _ => e

/-! ### Control, synchronisation and tag triggers -/

/-- Begin a transfer: the cycle of the transfer and three delay cycles are still to end (R175). -/
def Env.transferTo (e : Env) (g : Pc) : Env := e.modQ fun q => { q with transfer := some ⟨g, 4⟩, far := none }

/-- Begin a transfer to a parcel index of 16 bits, which may lie beyond every store (R177, R378). -/
def Env.transferFar (e : Env) (target : Nat) : Env :=
  (e.transferTo (BitVec.ofNat 13 target)).modQ fun q =>
    { q with far := if 8192 ≤ target then some (BitVec.ofNat 16 target) else none }

/-- A 15-bit PC as a parcel index. -/
def pcOf (x : BitVec 15) : Pc := x.extractLsb' 2 13

/-- call: push t[14:2], a spilled entry making room (R176). -/
def Env.call (e : Env) (n : BitVec 2) (x : Nat) : Env :=
  let e := e.transferTo (e.q0.bt.getD n.toNat 0)
  e.modQ fun q =>
    let v : BitVec 15 := BitVec.ofNat 15 (x / 4 % 8192 * 4)
    let st := if 16 ≤ q.stack.length then q.stack.drop 1 else q.stack
    { q with stack := st ++ [v], spill := .idle }

/-- ret: pop, or the entry that the spill area gave (R176). -/
def Env.ret (e : Env) : Env :=
  match e.q.spill, e.q.stack.getLast? with
  | .donePop x, none => (e.transferTo (pcOf x)).modQ fun q => { q with spill := .idle }
  | _, some x => (e.transferTo (pcOf x)).modQ fun q => { q with stack := q.stack.dropLast }
  | _, none => e

/-- A bucket of a table: BOUND and TARGET (R135). -/
structure Bucket where
  bound : Nat
  target : Nat
deriving DecidableEq, Repr

/-- The bucket that a length selects from the table at parcel pc, none for a length or a table that
raises BUCKET (R135, R378). -/
def pickBucket (q : Partition) (pc len : Nat) : Option Bucket :=
  let par (i : Nat) : Nat := (q.store.getD (pc + i) 0).toNat
  let n := par 0
  if q.slen ≤ pc ∨ n = 0 ∨ 16 < n ∨ q.slen ≤ pc + 2 * n then none
  else
    let es := (List.range n).map fun e => (⟨par (1 + 2 * e), par (2 + 2 * e)⟩ : Bucket)
    let rising := (es.zip (es.drop 1)).all fun (a, b) => decide (a.bound < b.bound)
    if es.any (fun b => b.bound == 0 || decide (65535 < b.target)) || !rising then none
    else es.find? fun b => decide (len ≤ b.bound)

/-- bkt: the padding registers of all partitions at the end of the cycle, and the transfer (R177). -/
def Env.bucket (e : Env) (pc len : Nat) : Env :=
  match pickBucket e.q0 pc len with
  | none => e
  | some b =>
    let e := e.transferFar b.target
    let lim := at' 0 len ||| bitAt 32 true
    { e with core := { e.core with bktWr := some (at' 32 b.bound ||| at' 0 len, lim, lim) } }

/-- The partition leaves the locked group at the end of the step (R44, R186). -/
def Env.leaveLock (e : Env) : Env :=
  if e.core.isLocked e.p then { e with core := { e.core with lleave := putBit e.core.lleave e.p true } } else e

/-- lock (R186, R374). -/
def Env.lock (e : Env) (m : BitVec 12) : Env :=
  let c := e.core
  { e with core := { c with lpend := if c.lpend = 0 then m else c.lpend, lwait := putBit c.lwait e.p true } }

/-- evt: the oldest record into the register space, 1 or 0 into res (R189). -/
def Env.takeEvent (e : Env) (x : Nat) : Env :=
  match e.core.sh.evq with
  | [] => e.launch .sy 0 (.one 1 0)
  | r :: rest =>
    (e.modSh fun h => regWrite { h with evq := rest } (x / 32 % 8192 * 32) 32 r.nat false).launch .sy 0 (.one 1 1)

/-- A mark enters both queues (R267). -/
def Env.mark (e : Env) (s : Scope) : Env :=
  let o : MemOp := ⟨e.core.seq, .mark s, .sy, 0, 0, false, 0, 0, 0, 0, 0, 0, 0, false, e.q0.secNo - 1, false, false⟩
  let e := e.modQ fun q => { q with mops := q.mops ++ [o] }
  { e with core := { e.core with seq := e.core.seq + 1 } }

/-- tg.look (R222). -/
def tgLook (h : Shared) (va : Addr) : Nat :=
  match h.ftb.find? (fun e => e.covers (va.toNat / 4096)) with
  | none => 2 ^ 63 + 2 ^ 61
  | some f =>
    let ia := f.map va
    if iaReserved ia then 2 ^ 63 + 2 ^ 62
    else
      let set := ia.toNat / 128 % 512
      let tag := ia.toNat / 2 ^ 16
      match (List.range 16).find? fun w =>
        let e := tagGet h.tags (16 * set + w)
        e.v && !e.pin && e.tag.toNat == tag with
      | none => 2 ^ 63 + 16 * set
      | some w =>
        let e := tagGet h.tags (16 * set + w)
        (if e.busy then 2 ^ 15 else 0) + (if e.dirty then 2 ^ 14 else 0) + 16 * set + w

/-- The tag entry after a tg operation (R223). -/
def TagEntry.apply (e : TagEntry) (op : TgOp) (x : Word) : TagEntry :=
  match op with
  | .look => e
  | .pin => { e with v := true, pin := true, dirty := false, tag := 0 }
  | .unpin => if e.pin then { e with v := false, pin := false } else e
  | .inval => { e with v := false, pin := false, dirty := false }
  | .setag => { e with tag := BitVec.ofNat 32 (fld x 16 32), v := true, pin := false, dirty := bit x 61 }

/-! ### mx triggers that are not compute results -/

/-- The use of a macro by mat0, which keeps mat1 off it in this ACLK (R228). -/
def Env.markMx (e : Env) (m : BitVec 3) : Env :=
  if e.p = 9 then { e with core := { e.core with mxUsed := putBit e.core.mxUsed m.toNat true } } else e

/-- A compute trigger or bsw begins an acceptance interval (R228). -/
def Env.beginInterval (e : Env) (m : BitVec 3) : Env :=
  let wa := mxWa (cfgAfmt (e.sh0.cim m).cfg)
  e.modSh fun h => h.modCim m fun c => { c with ivl := ⟨true, wa, e.p⟩ }

/-- bld (R232), with its block's poison (R352). -/
def Env.bld (e : Env) (m : BitVec 3) (x : Nat) (r : UnitRegs) (psn : Bool) : Env :=
  let c := e.sh0.cim m
  let a := r.o1.bits.toNat
  let b := bldBlock (cfgBfmt c.cfg) x a r.o2.bits.toNat e.sh0
  let e := e.modSh fun h => h.modCim m fun c => { c with bivl := ⟨true, 8, e.p⟩ }
  e.launch .mx m { lat := mxWa (cfgAfmt c.cfg) + 10, eff := .bld (!c.act) (bldJ a) (BitVec.ofNat 4 (cfgBfmt c.cfg)) b.1 b.2.1 (psn || b.2.2) }

/-! ### Firing a trigger -/

/-- The ports of a trigger's unit as they stand when it is written (R57, R78). -/
def Env.ports (e : Env) (t : Trigger) : UnitRegs := e.q.unit t.unit

/-- A trigger without a fixed-latency result, on clean inputs. `n` is the number of words of its
group. -/
def Env.fireOther (e : Env) (n : Nat) (t : Trigger) (x : Nat) (r : UnitRegs) : Env :=
  let a := r.o1.bits.toNat
  match t with
  | .brTgt k => e.modQ fun q => { q with bt := q.bt.set k.toNat (BitVec.ofNat 13 (x / 4)) }
  | .brJmp k => e.transferTo (e.q0.bt.getD k.toNat 0)
  | .brCall k => e.call k x
  | .brRet => e.ret
  | .brBkt => e.bucket (a / 4 % 8192) (x % 2 ^ 32)
  | .brTrap => e.modQ fun q => { q with swtrap := some (BitVec.ofNat 16 x) }
  | .lpLoop => e.modQ fun q => q.startLoop a x n 0
  | .lpLbrk => e.modQ Partition.breakLoop
  | .sySema => { e with core := e.core.semAdd (a % 256) (signed 17 x) }
  | .syJoin => (e.modQ fun q => { q with joined := true }).leaveLock
  | .syLock => e.lock (BitVec.ofNat 12 x)
  | .syUnlock => e.leaveLock
  | .syRgn => e.modQ fun q => { q with rgnPc := e.q0.pc, rgnWrem := BitVec.ofNat 9 e.q0.left, rgnSec := e.q0.secNo - 1 }
  | .syMark s => e.mark s
  | .syRah => e.modQ fun q => { q with rah := BitVec.ofNat 13 (x / 4) }
  | .syEvt => e.takeEvent x
  | .ksSt _ => e.modSh fun h => ksStore h (prtWidth e.p) x a
  | .ksStx _ w => e.modSh fun h => ksScatter h (prtWidth e.p) (wBits w / 8) x r.o2.bits.toNat a
  | .mxBld m => (e.bld m x r false).markMx m
  | .mxBsw m => ((e.beginInterval m).modSh fun h => h.modCim m fun c => { c with act := !(e.sh0.cim m).act }).markMx m
  | .mxMcfg m => (e.modSh fun h => h.modCim m fun c => { c with cfg := BitVec.ofNat 64 x &&& cfgMask }).markMx m
  | .gmPref _ => e.prefetch (BitVec.ofNat 48 x)
  | .tg op =>
    if op = .look then e.launch .tg 0 (.one 4 (tgLook e.sh0 (BitVec.ofNat 48 x)))
    else { e with core := { e.core with tagWrs := e.core.tagWrs ++ [⟨x % 8192, op, r.o1.bits.setWidth 64⟩] } }
  | _ =>
    match trigGmForm t with
    | some f => e.enqueue t f x r
    | none => e

/-- A trigger with a poisoned input that it uses, which is no sink: every latch that it writes lands
poisoned, and nothing else happens but the use of a macro (R236, R352). -/
def Env.firePoisoned (e : Env) (t : Trigger) (x : Nat) (r : UnitRegs) (pw : Word) : Env :=
  match t with
  | .mxBld m => (e.bld m x r true).markMx m
  | .mxComp op m z =>
    let e := (e.beginInterval m).markMx m
    e.launch .mx m ((e.mxResult op m z x r).poison pw)
  | .tg _ => e.launch .tg 0 ((Yield.one 4 0).poison pw)
  | .gmPref _ => e
  | _ =>
    match trigGmForm t with
    | some _ => e.poisonedLoad t pw
    | none =>
      match e.result t x r with
      | some v => e.launch t.unit t.macroIdx (v.poison pw)
      | none => e

/-- A trigger on clean inputs: its result goes into flight, or it does what it does at once. -/
def Env.fireClean (e : Env) (n : Nat) (t : Trigger) (x : Nat) (r : UnitRegs) : Env :=
  match t with
  | .mxComp op m z => ((e.beginInterval m).markMx m).launch .mx m (e.mxResult op m z x r)
  | _ =>
    match e.result t x r with
    | some v => e.launch t.unit t.macroIdx v
    | none => e.fireOther n t x r

/-- A trigger is written with a datum (R57, R78). -/
def Env.fire (e : Env) (n : Nat) (t : Trigger) (d : Read) : Env :=
  let r := e.ports t
  let v : Read := { d with bits := d.at (trigWidth (prtWidth e.p) t.unit) }
  match firstPoison (trigUses e.sh0 r t) v r with
  | some p => e.firePoisoned t v.bits.toNat r p.pw
  | none => e.fireClean n t v.bits.toNat r

end Sys2Proof.Machine
end

