-- ==== Sys2Proof/Machine/Issue.lean ====
section
/-! DEFINITION. How an issue group issues: the checks of each slot in order, the traps and stalls that
they give and their ranks, the moves in slot order, command words, and the end of the issue cycle (R42,
R45, R61, R76, R78, R148, R175, R180, R228, R343, R353, R362, R364 to R378). -/

namespace Sys2Proof.Machine

/-! ### Causes of traps (R343, R369) -/

/-- The causes of traps that a group can meet. -/
inductive TrapKind where
  | fetch | header | encode | priv | bound | lockuse | qlock | bucket | poison | pendrd | rstack | stfault | swtrap
deriving DecidableEq, Repr

/-- The code of a cause (R343). -/
def TrapKind.code : TrapKind → BitVec 8
  | .fetch => 0x06
  | .header => 0x05
  | .encode => 0x07
  | .priv => 0x0B
  | .bound => 0x0D
  | .lockuse => 0x09
  | .qlock => 0x08
  | .bucket => 0x0E
  | .poison => 0x02
  | .pendrd => 0x0A
  | .rstack => 0x04
  | .stfault => 0x03
  | .swtrap => 0x01

/-- The rank of a cause (R369). -/
def TrapKind.rank : TrapKind → Nat
  | .fetch => 1
  | .header => 2
  | .encode => 3
  | .priv => 4
  | .bound => 5
  | .lockuse => 6
  | .qlock => 7
  | .bucket => 8
  | .poison => 9
  | .pendrd => 10
  | .rstack => 11
  | .stfault => 12
  | .swtrap => 13

/-- A cause that a slot of a group meets. -/
structure Cause where
  kind : TrapKind
  slot : Nat
  info1 : Word
  info2 : Word
deriving DecidableEq, Repr

/-- Whether a cause is raised rather than another: by rank, and within a rank the lower slot (R369). -/
def Cause.before (a b : Cause) : Bool :=
  decide (a.kind.rank < b.kind.rank) || (decide (a.kind.rank = b.kind.rank) && decide (a.slot < b.slot))

/-- The cause that is raised. -/
def firstCause : List Cause → Option Cause
  | [] => none
  | c :: cs =>
    match firstCause cs with
    | some d => if d.before c then some d else some c
    | none => some c

/-- What the checks of a group find: causes of traps, and reasons to stall. -/
structure Verdict where
  causes : List Cause := []
  /-- A stall other than those below. -/
  stall : Bool := false
  /-- Macros that refuse a trigger (R228). -/
  refused : BitVec 8 := 0
  /-- An access that misses the FTB (R103). -/
  refill : Option (Addr × AccKind) := none
  /-- A spill access that a call or ret needs (R176). -/
  spill : Option (Bool × BitVec 15) := none
  /-- The handoff queue that a pop or push waits for. -/
  qwait : Option Nat := none
deriving DecidableEq, Repr

/-- Nothing found. -/
def Verdict.go : Verdict := {}

/-- What two checks find together. -/
def Verdict.and (a b : Verdict) : Verdict where
  causes := a.causes ++ b.causes
  stall := a.stall || b.stall
  refused := a.refused ||| b.refused
  refill := match a.refill with | some r => some r | none => b.refill
  spill := match a.spill with | some r => some r | none => b.spill
  qwait := match a.qwait with | some r => some r | none => b.qwait

/-- One cause. -/
def Verdict.trap (k : TrapKind) (slot : Nat) (i1 i2 : Word) : Verdict := { causes := [⟨k, slot, i1, i2⟩] }

/-- A cause or nothing. -/
def Verdict.trapIf (b : Bool) (k : TrapKind) (slot : Nat) (i1 i2 : Word) : Verdict :=
  if b then .trap k slot i1 i2 else .go

/-- A stall or nothing. -/
def Verdict.stallIf (b : Bool) : Verdict := { stall := b }

/-- A stall that only refused macros make (R228). -/
def Verdict.onlyRefused (v : Verdict) : Bool := !v.stall && v.refill.isNone && v.spill.isNone && v.qwait.isNone

/-- Whether the group stalls. -/
def Verdict.stalls (v : Verdict) : Bool := !v.onlyRefused || v.refused != 0

/-! ### The slots of a group (R78, R139) -/

/-- What a slot does. -/
inductive Act where
  | move (s : Src) (d : Dst)
  | imm (x : Word) (d : Dst)
  | cmd (op : CmdOp) (f : CmdFields)
deriving DecidableEq, Repr

/-- A slot of a group: its position, its word, its guard and what it does. -/
structure Item where
  slot : Nat
  word : Nat
  g : Guard
  act : Act
deriving DecidableEq, Repr

/-- The slots of word w of a group. -/
def wordItems (w : Nat) : WordF → List Item
  | .mm a b => [⟨2 * w, w, a.g, .move a.src a.dst⟩, ⟨2 * w + 1, w, b.g, .move b.src b.dst⟩]
  | .ml g d x => [⟨2 * w, w, g, .imm x d⟩]
  | .mc op f => [⟨2 * w, w, f.g, .cmd op f⟩]
  | .idle _ => []

/-- The slots of a group in order. -/
def groupItems (g : Group) : List Item :=
  wordItems 0 g.w0 ++ (match g.w1 with | some w => wordItems 1 w | none => [])

/-- Whether a guard lets its move execute (R76). -/
def Partition.holds (q : Partition) (g : Guard) : Bool := q.pred g.pred != g.neg

/-- What the encodings of the partition are judged against. -/
def Env.ctx (e : Env) : Ctx := ctxOf e.k e.p

/-- The partition is a member of the locked group. -/
def Env.locked (e : Env) : Bool := e.core.isLocked e.p

/-- The destination field as INFO1 holds it. -/
def Env.dstField (e : Env) (d : Dst) : Word := (d.bits e.ctx).setWidth 64

/-- The source field as INFO1 holds it; an ML word has none (log 40). -/
def Env.srcField (e : Env) (a : Act) : Word :=
  match a with
  | .move s _ => (s.bits e.ctx).setWidth 64
  | _ => 0

/-- Word w of a group as it is encoded. -/
def Env.word (e : Env) (g : Group) (w : Nat) : BitVec 96 := (g.words e.ctx).getD w 0

/-- ENCODE for a word (R365). -/
def encodeTrap (slot : Nat) (x : BitVec 96) : Verdict := .trap .encode slot (x.setWidth 64) ((x >>> 64).setWidth 64)

/-- ENCODE or nothing. -/
def encodeIf (b : Bool) (slot : Nat) (x : BitVec 96) : Verdict := if b then encodeTrap slot x else .go

/-- POISON for a value (R343). -/
def poisonTrap (slot : Nat) (p : Poisoned) : Verdict := .trap .poison slot p.pw p.hi

/-! ### Reading (R62, R64, R362, R372, R377) -/

/-- Bounds of a main-file operand (R70, R377). -/
def mainCheck (view : Word) (i slot : Nat) (field : Word) : Verdict :=
  .trapIf (!viewOk view i) .bound slot field (BitVec.ofNat 64 (viewAddr view i))

/-- Control registers from 0x400 belong to the firmware core (R79, R368). -/
def Env.cregCheck (e : Env) (i : BitVec 12) (slot : Nat) : Verdict :=
  .trapIf (decide (0x400 ≤ i.toNat) && !isFwCore e.k) .priv slot (i.setWidth 64) 0

/-- Whether a result in flight writes a latch. -/
def Fly.writes (f : Fly) : LatchSel → Bool
  | .res => f.sb || f.res.isSome
  | .res1 => (f.sb && f.unit == .rw) || f.res1.isSome
  | .flag => (f.sb && f.unit == .rw) || f.flag.isSome

/-- A scoreboarded read must wait for a result that is due and has not landed (R64). -/
def Partition.awaits (q : Partition) (u : UnitName) : Bool := q.fly.any fun f => f.unit == u && f.sb && f.rem == 0

/-- Results in flight that write latches of a unit: for mx those of both matrix partitions as the ACLK began, since
they share the latches (R226, R362). -/
def Env.pendingFlies (e : Env) (u : UnitName) (m : BitVec 3) : List Fly :=
  if u = .mx then e.core.mxFly0.filter fun f => f.mac == m
  else e.q0.fly.filter fun f => f.unit == u

/-- The cycles until the latest pending result of a latch or slot is due (R362). -/
def Env.pending (e : Env) : Src → Nat
  | .latch u sel m => ((e.pendingFlies u m).filter fun f => f.writes sel).foldl (fun n f => max n f.rem) 0
  | .xi j => (e.core.xfly0.filter fun x => x.rcv == e.p && x.slot == j).foldl (fun n x => max n x.rem) 0
  | _ => 0

/-- The read of a slot: what the checks find, and the value when it is there. -/
def Env.look (e : Env) (it : Item) : Verdict × Option Read :=
  match it.act with
  | .imm x _ => (.go, some ⟨x.setWidth 8192, false, 0, .imm64⟩)
  | .cmd _ _ => (.go, none)
  | .move s _ =>
    let n := e.pending s
    let dbg := Verdict.trapIf (e.core.dbg && decide (0 < n)) .pendrd it.slot (e.srcField it.act) (BitVec.ofNat 64 n)
    match s with
    | .main v i => ((mainCheck (e.q0.view v) i.toNat it.slot (e.srcField it.act)), some (e.readPlain s))
    | .latch u _ _ => if e.q0.awaits u then ({ dbg with stall := true }, none) else (dbg, some (e.readPlain s))
    | .creg i => (e.cregCheck i it.slot, some (e.readPlain s))
    | .hq n =>
      let i := hqIndex e.k n
      if (hqAt e.hq i).visible = 0 then
        if e.locked then (.trap .qlock it.slot (n.setWidth 64) 0, none) else ({ qwait := some i }, none)
      else (.go, some (e.readPlain s))
    | _ => (dbg, some (e.readPlain s))

/-! ### Command words (R148, R245, R273) -/

/-- The engine of a command: 6 is the codec's second code (R149). -/
def cmdEngine (op : CmdOp) : Nat :=
  let n := op.codes.1.toNat
  if n = 6 then 5 else n

/-- The command block (R148). -/
def cmdBlock (h : Shared) (op : CmdOp) (f : CmdFields) : List Byte :=
  if op.readsBlock then Cells.bytes h.reg (128 * f.cboff.toNat) 128 else []

/-- The command is a gath or scat. -/
def cmdGathers : CmdOp → Bool
  | .gath | .scat => true
  | _ => false

/-- The command is a copyf. -/
def cmdFollows : CmdOp → Bool
  | .copyf _ => true
  | _ => false

/-- Bytes of the register space beside the block that are read at issue: the indices of gath and scat
(R250), the follow-on block of copyf (R249). Offset and length; none when the block names none. -/
def cmdSpan (op : CmdOp) (b : List Byte) : Option (Nat × Nat) :=
  if cmdGathers op then
    let off := fld (blockDw b 1) 0 18
    let n := fld (blockDw b 1) 32 32
    if n ≤ 49152 ∧ off + 4 * n ≤ 196608 then some (off, 4 * n) else none
  else if cmdFollows op then
    let m := fld (blockDw b 5) 0 11
    if m ≤ 1535 then some (128 * m, 128) else none
  else none

/-- The POISON trap of a command whose block or other bytes read at issue hold poison (R353). -/
def Env.cmdPoison (e : Env) (op : CmdOp) (f : CmdFields) (slot : Nat) : Verdict :=
  let b := cmdBlock e.sh0 op f
  let span (a n : Nat) : Verdict :=
    if Cells.anyIn e.sh0.regPsn a n then
      .trap .poison slot (poisonWord 0x40 false false noIndex) (BitVec.ofNat 64 (Cells.nat e.sh0.reg (a + 8) 8))
    else .go
  if op.readsBlock = false then .go
  else
    let v := span (128 * f.cboff.toNat) 128
    if v.causes ≠ [] then v
    else match cmdSpan op b with
      | some (a, n) => span a n
      | none => .go

/-- Commands of a core on an engine that are not complete (R245). -/
def Core.engineLoad (c : Core) (eng : Nat) : Nat := (c.ops.filter fun o => cmdEngine o.op == eng).length

/-- The checks of a command word: it stalls on its wait or on a full queue, and reads its block in the cycle in which
both are satisfied (R148, R353, R373). -/
def Env.judgeCmd (e : Env) (g : Group) (it : Item) (op : CmdOp) (f : CmdFields) : Verdict :=
  let w : Word := ((e.word g it.word) >>> 43).setWidth 64 &&& 0x00000FFFFFFFFFFF
  let waits := decide ((e.sh0.semaAt f.wsem.toNat).val.toNat < f.wthr.toNat) || decide (16 ≤ e.core.engineLoad (cmdEngine op))
  (Verdict.trapIf (e.locked && cmdEngine op == 8) .lockuse it.slot w 0).and (if waits then .stallIf true else e.cmdPoison op f it.slot)

/-- The queue entry of a command at issue (R148, R273). -/
def Env.command (e : Env) (op : CmdOp) (f : CmdFields) : Env :=
  let h := e.sh0
  let b := cmdBlock h op f
  let x := match cmdSpan op b with | some (a, n) => Cells.bytes h.reg a n | none => []
  let o : EngineOp :=
    { id := e.core.opId, op := op, prt := e.p, job := e.core.jobId, fields := f, block := b,
      block2 := if cmdFollows op then x else [], sampled := if cmdGathers op then x else [],
      mxpad := e.q0.mxpad, forked := false, phase := .queued, outs := [], fl := 0, parent := none,
      status := 0, val1 := 0, val2 := 0, luma := [], chroma := [], ia := 0, left := none }
  let m : MemOp := ⟨e.core.seq, .fork o.id, .sy, 0, 0, false, 0, 0, 0, 0, 0, 0, 0, false, e.q0.secNo - 1, false, false⟩
  let e := e.modQ fun q => { q with mops := q.mops ++ [m] }
  { e with core := { e.core with ops := e.core.ops ++ [o], opId := e.core.opId + 1, seq := e.core.seq + 1 } }

/-! ### Triggers -/

/-- A transfer (R174). -/
def isTransfer : Trigger → Bool
  | .brJmp _ | .brCall _ | .brRet | .brBkt => true
  | _ => false

/-- Reserved uses that depend on the partition's and the macro's state alone (R368). -/
def Env.reservedUse (e : Env) (t : Trigger) : Bool :=
  let active := e.q0.loop.active
  match t with
  | .brJmp _ | .brCall _ | .brRet | .brBkt => active || e.q0.transfer.isSome
  | .lpLoop | .syJoin => active
  | .mxBld m => mxReserved (cfgBfmt (e.sh0.cim m).cfg)
  | .mxComp op m _ =>
    let c := e.sh0.cim m
    let a := cfgAfmt c.cfg
    let b := (c.plane c.act).fmt.toNat
    !mxPairOk a b || (op == .mmt && cfgTax c.cfg == 3) || (op == .mad && (mxInteger a || mxCb b == 512))
  | _ => false

/-- Whether a macro refuses a trigger (R228, R368). -/
def Env.mxRefuses (e : Env) (t : Trigger) : Bool :=
  let taken (m : BitVec 3) : Bool := e.p == 10 && e.core.mxUsed.getLsbD m.toNat
  match t with
  | .mxBld m => (e.sh0.cim m).bivl.on || taken m
  | .mxBsw m | .mxComp _ m _ => (e.sh0.cim m).ivl.on || (e.sh0.cim m).holder.isSome || taken m
  | .mxMcfg m => (e.sh0.cim m).holder.isSome || taken m
  | _ => false

/-- The refusal of a macro: a stall, or LOCKUSE for a locked member (R228, R373). -/
def Env.judgeMx (e : Env) (t : Trigger) (slot : Nat) : Verdict :=
  if e.mxRefuses t then
    if e.locked then .trap .lockuse slot (e.dstField (.trig t)) 0
    else { refused := putBit 0 t.macroIdx.toNat true }
  else .go

/-- The body of a loop that a group of n words would start (R179, R368). -/
def Env.loopBad (e : Env) (n a : Nat) : Bool :=
  let l := loopL a
  let s := loopS a
  let last := e.q0.pc.toNat + 3 * (n + l - 1)
  a / 2 ^ 9 % 2 ^ 7 != 0 || a / 2 ^ 20 % 2 ^ 44 != 0 || l == 0 || s == 0 || decide (8 < s) ||
    decide (e.q0.left < n + l) || (e.q0.store.getD (last + 2) 0).getLsbD 28

/-- What a call or ret needs of the spill area (R176). -/
def spillCheck (q : Partition) (push : Bool) (slot : Nat) : Verdict :=
  let x : BitVec 15 := if push then q.stack.headD 0 else 0
  match q.spill, push with
  | .failed i1 i2, _ => .trap .rstack slot i1 i2
  | .donePush, true => .go
  | .donePop _, false => .go
  | .wanted _ _, _ => .stallIf true
  | _, _ => { spill := some (push, x) }

/-- Triggers whose results have not landed that a scoreboarded unit holds at most: gm0 and gm1 64, and rw as many as its
latency counts (R64, R345, log 137). -/
def flyLimit (u : UnitName) : Nat := if u = .rw then 40 else 64

/-- A unit takes no further trigger while it holds as many as it can (R345). -/
def Env.judgeRoom (e : Env) (t : Trigger) : Verdict :=
  match trigGmForm t with
  | some f =>
    .stallIf (f.kind != .store && decide (flyLimit t.unit ≤ (e.q0.fly.filter fun y => y.unit == t.unit && y.sb).length))
  | none => .go

/-- A gm or rw access at issue: the FTB and a store's fault (R103, R217). -/
def Env.judgeAccess (e : Env) (t : Trigger) (x : Nat) (r : UnitRegs) (slot : Nat) : Verdict :=
  let hit (va : Addr) (kind : AccKind) (store : Bool) : Verdict :=
    match e.translate va kind with
    | .miss => { refill := some (va, kind) }
    | .fault st => if store then .trap .stfault slot (va.setWidth 64) (st.setWidth 64) else .go
    | .ok _ _ => .go
  match t with
  | .gmPref _ => hit (BitVec.ofNat 48 (x % 2 ^ 48)) .rd false
  | _ =>
    match trigGmForm t with
    | none => .go
    | some f => hit (trigGmVa t f x r) f.acc (f.kind == .store)

/-- Checks of a trigger that depend on its inputs: x the datum, r the ports (R185, R186, R368, R378). -/
def Env.judgeValue (e : Env) (g : Group) (it : Item) (t : Trigger) (x : Nat) (r : UnitRegs) : Verdict :=
  let a := r.o1.bits.toNat
  let w := e.word g it.word
  match t with
  | .brCall _ => if 16 ≤ e.q0.stack.length then spillCheck e.q0 true it.slot else .go
  | .brRet => if e.q0.stack = [] then spillCheck e.q0 false it.slot else .go
  | .brBkt =>
    .trapIf (pickBucket e.q0 (a / 4 % 8192) (x % 2 ^ 32)).isNone .bucket it.slot (BitVec.ofNat 64 (x % 2 ^ 32)) (BitVec.ofNat 64 (a / 4 % 8192))
  | .lpLoop => encodeIf (e.loopBad g.len a) it.slot w
  | .sySemw => .stallIf (decide ((e.sh0.semaAt (a % 256)).val.toNat < x % 65536))
  | .syLock =>
    let m : BitVec 12 := BitVec.ofNat 12 x
    if !m.getLsbD e.p || e.locked then encodeTrap it.slot w
    else if e.core.locked ≠ 0 then .stallIf true
    else encodeIf (e.core.lpend != 0 && e.core.lpend != m) it.slot w
  | .syEvt =>
    let b := x / 32 % 8192 * 32
    .trapIf (decide (196608 ≤ b)) .bound it.slot (e.srcField it.act) (BitVec.ofNat 64 b)
  | .kvFrq _ =>
    -- R387: a poisoned piece of the table is not loaded (log 117).
    .trapIf (csPoisoned e.sh0 (kvFreqAddr x) 512) .poison it.slot (poisonWord 0x0C false false noIndex) 0
  | .tg op =>
    if op ≠ .look ∧ (tagGet e.sh0.tags (x % 8192)).busy = true then
      if e.locked then .trap .lockuse it.slot (e.dstField (.trig t)) 0 else .stallIf true
    else .go
  | _ => .go

/-- Triggers of gm and rw (R373). -/
def isGlobal (t : Trigger) : Bool := t.unit == .gm0 || t.unit == .gm1 || t.unit == .rw

/-- What the checks of a group carry from slot to slot: the ports and queues as earlier slots leave
them, and the ports written with a value that is not there yet (R369). -/
structure Judge where
  e : Env
  bad : List (UnitName × PortSel)
  v : Verdict
deriving DecidableEq, Repr

/-- Whether an input that a trigger uses is not there yet. -/
def Judge.unknown (j : Judge) (u : UnitName) (us : Uses) : Bool :=
  (us.o1 && j.bad.contains (u, .o1)) || (us.o2 && j.bad.contains (u, .o2)) || (us.o3 && j.bad.contains (u, .o3))

/-- The first of the inputs that is not clean, as far as they are there: each is absent, or there with its poison. -/
def firstOf : List (Option (Option Poisoned)) → Option Poisoned
  | some (some p) :: _ => some p
  | some none :: rest => firstOf rest
  | _ => none

/-- The poisoned input that a trigger is found to use, before every input that is not there yet (R352, R369). -/
def Judge.poisoned (j : Judge) (u : UnitName) (us : Uses) (d : Option Read) (r : UnitRegs) : Option Poisoned :=
  let port (b : Bool) (sel : PortSel) (s : Slot) : Option (Option Poisoned) :=
    if !b then some none
    else if j.bad.contains (u, sel) then none
    else some (if s.psn then some ⟨s.word, highDw s.bits⟩ else none)
  let datum : Option (Option Poisoned) :=
    if us.t then d.map fun x => if x.psn then some ⟨x.pw, highDw x.bits⟩ else none else some none
  firstOf [datum, port us.o1 .o1 r.o1, port us.o2 .o2 r.o2, port us.o3 .o3 r.o3]

/-- The checks of a trigger of which inputs are not there yet, as far as those that are there determine a cause: `x` the
datum if it is there, `o1` whether that port is (R369). -/
def Env.judgeEarly (e : Env) (g : Group) (it : Item) (t : Trigger) (x : Option Nat) (o1 : Bool) (r : UnitRegs) : Verdict :=
  match t, x with
  | .lpLoop, _ => if o1 then e.judgeValue g it t 0 r else .go
  | .syLock, none => encodeIf e.locked it.slot (e.word g it.word)
  | .tg _, some x => e.judgeValue g it t x r
  | .gmSt _ _, some x | .gmStSm _ _, some x =>
    if e.locked then .go else { causes := (e.judgeAccess t x r it.slot).causes }
  | _, _ => .go

/-- The checks of a trigger. The value is none when it is not there yet. -/
def Judge.trigger (j : Judge) (g : Group) (it : Item) (t : Trigger) (d : Option Read) : Verdict :=
  let e := j.e
  let u := t.unit
  let r := e.q.unit u
  let us := trigUses e.sh0 r t
  let fixed := ((Verdict.trapIf (e.locked && isGlobal t) .lockuse it.slot (e.dstField (.trig t)) 0).and
    (encodeIf (e.reservedUse t) it.slot (e.word g it.word))).and (e.judgeMx t it.slot)
  let known := (d.isSome || !us.t) && !j.unknown u us
  let v : Read := match d with
    | some x => { x with bits := x.at (trigWidth (prtWidth e.p) u) }
    | none => .clean 8 0
  let x := v.bits.toNat
  let psn := j.poisoned u us d r
  let sink : Verdict := match psn with
    | some p => if trigSink t then poisonTrap it.slot p else .go
    | none => .go
  let access : Verdict := if e.locked then .go else (e.judgeRoom t).and (if psn.isNone then e.judgeAccess t x r it.slot else .go)
  let rest : Verdict :=
    if known then (e.judgeValue g it t x r).and access
    else e.judgeEarly g it t (d.map fun _ => x) (!j.bad.contains (u, .o1)) r
  fixed.and (rest.and sink)

/-- The checks of a destination (R353, R372, R377). -/
def Judge.dest (j : Judge) (g : Group) (it : Item) (d : Dst) (r : Option Read) : Verdict :=
  let e := j.e
  let sink : Verdict := match r with
    | some x => if x.psn then poisonTrap it.slot ⟨x.pw, highDw x.bits⟩ else .go
    | none => .go
  match d with
  | .main v i => mainCheck (e.q0.view v) i.toNat it.slot (e.dstField d)
  | .creg i => (e.cregCheck i it.slot).and sink
  | .hq n =>
    let i := hqIndex e.k n
    let full := decide ((hqAt e.hq i).room = 0)
    let v : Verdict :=
      if full then (if e.locked then .trap .qlock it.slot (n.setWidth 64 ||| 0x100) 0 else { qwait := some i }) else .go
    v.and sink
  | .port u _ => if u = .br ∨ u = .lp ∨ u = .sy then sink else .go
  | .trig t => j.trigger g it t r
  | _ => .go

/-- The ports and queues after a slot. A push whose value is not there yet takes its place in the queue (R369). -/
def Judge.advance (j : Judge) (it : Item) (d : Dst) (r : Option Read) : Judge :=
  let e := match it.act with
    | .move (.hq n) _ => (j.e.readSrc (.hq n)).1
    | _ => j.e
  match d, r with
  | .port u o, some x => { j with e := e.writeDst x d, bad := j.bad.filter fun b => b != (u, o) }
  | .port u o, none => { j with e := e, bad := (u, o) :: j.bad }
  | .hq _, some x => { j with e := e.writeDst x d }
  | .hq _, none => { j with e := e.writeDst (.clean 8 0) d }
  | _, _ => { j with e := e }

/-- The checks of one slot. A poisoned guard traps whether its move executes or not (R353, R364). -/
def Judge.item (g : Group) (j : Judge) (it : Item) : Judge :=
  let q := j.e.q0
  let gp : Verdict :=
    if q.predPoison it.g.pred then poisonTrap it.slot ⟨if q.pred it.g.pred then 1 else 0, 0⟩ else .go
  if q.holds it.g then
    match it.act with
    | .cmd op f => { j with v := (j.v.and gp).and (j.e.judgeCmd g it op f) }
    | .move _ d | .imm _ d =>
      let r := j.e.look it
      let v := r.1.and (j.dest g it d r.2)
      { j.advance it d r.2 with v := (j.v.and gp).and v }
  else { j with v := j.v.and gp }

/-- What the checks of a group find (R364, R369). A request that waits in the mesh stalls the partition
(R390). -/
def Env.judge (e : Env) (g : Group) : Verdict :=
  ((groupItems g).foldl (Judge.item g) ⟨e, [], .stallIf e.q0.meshWait⟩).v

/-! ### Performing a group (R78) -/

/-- The read of a slot that executes. -/
def Env.readItem (e : Env) (it : Item) : Env × Read :=
  match it.act with
  | .move s _ => e.readSrc s
  | .imm x _ => (e, ⟨x.setWidth 8192, false, 0, .imm64⟩)
  | .cmd _ _ => (e, .clean 8 0)

/-- The write of a slot that executes, in a group of n words. -/
def Env.writeItem (e : Env) (n : Nat) (it : Item) (r : Read) : Env :=
  match it.act with
  | .cmd op f => e.command op f
  | .move _ d | .imm _ d =>
    match d with
    | .trig t => e.fire n t r
    | _ => e.writeDst r d

/-- The reads of the executing slots in slot order. -/
def Env.readItems (e : Env) : List Item → Env × List (Item × Read)
  | [] => (e, [])
  | it :: its =>
    let r := e.readItem it
    let rest := Env.readItems r.1 its
    (rest.1, (it, r.2) :: rest.2)

/-- The writes of the executing slots in slot order. -/
def Env.writeItems (e : Env) (n : Nat) : List (Item × Read) → Env
  | [] => e
  | (it, r) :: rest => Env.writeItems (e.writeItem n it r) n rest

/-- A group takes effect (R78). The loop engine's predicates stand over what the group wrote into p8
to p15 (R180). -/
def Env.perform (e : Env) (g : Group) : Env :=
  let its := (groupItems g).filter fun it => e.q0.holds it.g
  let r := e.readItems its
  let e' := r.1.writeItems g.len r.2
  let started := e'.q.loop.active && !e.q0.loop.active
  if started then e'.modQ Partition.drivePreds else e'

/-! ### The end of an issue cycle -/

/-- The section ends: no further word of it issues, and the parcel after its words is the next header
(R33, R37, R153). -/
def Partition.endSection (q : Partition) : Partition :=
  { q with secs := q.secs.map fun e => if e.no + 1 = q.secNo ∧ e.done = false then { e with done := true, next := q.pc + BitVec.ofNat 13 (3 * q.left) } else e }

/-- The loop engine at the end of a cycle: the pass has ended when all its words have issued (R180). -/
def Partition.endPass (q : Partition) : Partition :=
  let l := q.loop
  if l.active = false ∨ l.issued < l.len.toNat ∨ q.idle ≠ 0 then q
  else
    let j := l.j + 1
    if j.toNat + 2 ≤ l.nst.toNat + l.stages.toNat then
      let q := { q with loop := { l with j := j, issued := 0 }, pc := l.body, left := q.left + l.len.toNat }
      q.drivePreds
    else { q with loop := { l with j := 0, issued := 0, active := false } }

/-- Whether the job of a core is being pre-empted. -/
def Core.preempting (c : Core) : Bool :=
  match c.job with
  | some j => j.phase == .preempting || j.phase == .hardStop
  | none => false

/-- A loop that a pre-emption has ended stops its partition: with iterations left at the first word of
the body, else at the word after it (R181). `back` is the number of words from there to where the stream
stands. -/
def Partition.stopLoop (q : Partition) (back : Nat) : Partition :=
  let l := q.loop
  let n := l.n - l.nst
  let q : Partition := { q with loop := { l with active := false, n := n, j := 0, ibase := l.ibase + l.nst, issued := 0 }, stop := some .loop }
  if n = 0 then q else { q with pc := l.body, left := q.left + back }

/-- The loop engine at the end of a cycle in which its job is being pre-empted (R48, R181): a loop that has
just started runs no pass, also when its trigger issues after the request was sampled (log 145), and one whose last pass
has ended stops the partition. -/
def Partition.preemptLoop (q : Partition) (was : Bool) : Partition :=
  if was = false ∧ q.loop.active then
    ({ q with loop := { q.loop with nst := 0 } } : Partition).stopLoop 0
  else if was ∧ q.loop.active = false ∧ q.joined = false then q.stopLoop q.loop.len.toNat
  else q

/-- The stream after a cycle in which a group of n words, or nothing, has issued. `was` tells whether a
loop was active before it. -/
def Partition.endStream (q : Partition) (n : Nat) (was pre : Bool) : Partition :=
  let l : LoopState := if was then { q.loop with issued := q.loop.issued + n } else q.loop
  let t : Option Transfer := q.transfer.map fun t => { t with delay := t.delay - 1 }
  let q : Partition := { q with pc := q.pc + BitVec.ofNat 13 (3 * n), left := q.left - n, loop := l, transfer := t }
  let live := q.loop.active
  let q := q.endPass
  let q := if pre then q.preemptLoop (live && (was || n == 0)) else q
  if q.joined then
    let q := { q with loop := LoopState.zero, transfer := none, idle := 0 }
    q.endSection
  else if q.left = 0 ∧ q.idle = 0 ∧ q.transfer = none then q.endSection
  else q

/-- The end of an issue cycle of partition p (R7, R42, R61): `n` words have issued. Accesses whose refills failed
have taken their outcomes (R103). -/
def Core.endCycle (c : Core) (p n : Nat) (was : Bool) : Core :=
  let c := c.modPrt p fun q =>
    { ((q.countDown).endStream n was c.preempting) with stalled := false, refused := 0, qwait := none, probed := false }
  (c.endRefill p).modSh fun h => h.countIntervals p 0xFF

/-- A cycle in which nothing issues: an IDLE word, a delay cycle without a word, or a cycle after the
join (R33, R151, R175). -/
def Core.tick (c : Core) (p : Nat) : Core :=
  let q := c.prt p
  if q.joined then (c.modPrt p Partition.countDown).modSh fun h => h.countIntervals p 0xFF
  else (c.modPrt p fun q => { q with idle := q.idle - 1 }).endCycle p 0 false

/-- A pre-emption stops a stalled partition at its word, except within a loop, which drains (log 48), and
while an FTB refill, a spill access or the mesh makes it wait (R48, R390). -/
def Core.stopsAtWait (c : Core) (p : Nat) (v : Verdict) : Bool :=
  let q := c.prt p
  c.preempting && !c.isLocked p && !q.loop.active && v.refill.isNone && v.spill.isNone && !q.meshWait

/-- An ACLK in which a partition stalls (R42, R103, R104, R176, R228). A wait on another port is a new one (R408). A stall in
which several macros refuse, and nothing else holds it, counts for the interval of each of them (log 146). -/
def Core.stall (c : Core) (p : Nat) (v : Verdict) : Core :=
  let only := v.onlyRefused && !c.isLocked p
  let c := c.modPrt p fun q =>
    { q with
      stalled := true, refused := if only then v.refused else 0,
      qwait := v.qwait.map fun i => match q.qwait with
        | some (j, n) => if i = j then (i, n + 1) else (i, 1)
        | none => (i, 1),
      probed := q.probed && (match v.qwait, q.qwait with | some i, some (j, _) => i == j | _, _ => false),
      stop := if c.stopsAtWait p v then some .wait else q.stop,
      spill := match v.spill with
        | some (push, x) => if v.stall || v.refill.isSome || v.qwait.isSome || v.refused != 0 then q.spill else .wanted push x
        | none => q.spill }
  let c := if only then c.modSh fun h => h.countIntervals p v.refused else c
  match v.refill with
  | some (va, kind) => (c.miss p va kind).getD c
  | none => c

/-! ### Issue in the state -/

/-- The environment of partition p of core k. -/
def State.env (s : State) (k p : Nat) : Env :=
  let c := s.core k
  ⟨k, p, c, c.prt p, (s.cluster (cluOf k)).hq, s.fw, s.fw0⟩

/-- The state after a group. -/
def State.withEnv (s : State) (e : Env) : State :=
  { (s.setCore e.k e.core).modCluster (cluOf e.k) (fun c => { c with hq := e.hq }) with fw := e.fw }

/-- The partition's turn ends. -/
def State.nextTurn (s : State) (k p : Nat) : State :=
  { s with phase := if p < 11 then .prt k (p + 1) else .finish k }

/-- A partition that may issue: started, not joined, not trapped, not stopped, not at a rendezvous; the
firmware core issues nothing once it has halted (R33, R43, R50, R342, R363). -/
def State.canIssue (s : State) (k p : Nat) : Bool :=
  let c := s.core k
  let q := c.prt p
  q.started && !q.joined && q.trap.isNone && q.stop.isNone && !c.lwait.getLsbD p && !(isFwCore k && s.dev.fwhalt)

/-- A locked member holds while the step does not go on (R45). -/
def Core.held (c : Core) (p : Nat) : Bool := c.isLocked p && !c.lockGo

/-- The first reserved word of a group, as ENCODE reports it; for a fault of the pair the word with
PAIR = 1 (R365). -/
def badWord (c : Ctx) (g : Group) : BitVec 96 :=
  let ws := g.words c
  match g.w1 with
  | none => ws.getD 0 0
  | some w1 =>
    if g.w0.wf c = false then ws.getD 0 0
    else if w1.wf c = false then ws.getD 1 0
    else if pairAllowed g.w0 w1 = false then ws.getD 0 0
    else if triggersDistinct g.w0.triggers = false then ws.getD 0 0
    else ws.getD 1 0

/-- What a group meets at its turn. -/
def Env.verdict (e : Env) (g : Group) : Verdict :=
  if g.wf e.ctx = false then encodeTrap 0 (badWord e.ctx g) else e.judge g

/-- An IDLE word starts to count (R151). -/
def groupIdle (g : Group) : Nat :=
  match g.w0 with
  | .idle n => n.toNat - 1
  | _ => 0

/-- The core after a group has issued, its cycle ended. -/
def Env.issue (e : Env) (g : Group) : Env :=
  let e' := (e.perform g).modQ fun q => { q with idle := groupIdle g }
  { e' with core := e'.core.endCycle e.p g.len e.q0.loop.active }

/-- An issue group at its partition's turn (R42, R45, R78, R342, R364, R369). -/
def State.issueGroup (s : State) (k p : Nat) (g : Group) : State :=
  let e := s.env k p
  let v := e.verdict g
  let s' : State :=
    if s.canIssue k p = false then s
    else
      match firstCause v.causes with
      | some c => if e.core.held p then s else s.takeTrap k p c.kind.code c.info1 c.info2 e.q0.pc
      | none =>
        if v.stalls then s.modCore k fun c => c.stall p v
        else if e.core.held p then s
        else s.withEnv (e.issue g)
  s'.nextTurn k p

/-- A word of a stream is carried out at the turn of the partition that reads it, and at no other
instant. -/
def execGroup (g : Group) (s : State) : Result :=
  match s.phase with
  | .prt k p => .next (s.issueGroup k p g)
  | _ => .next s

/-! ### Section headers (R38, R375, R376) -/

/-- The partition that position i of a header names (R152). -/
def headerPrt (p i : Nat) : Nat := if i < p then i else i + 1

/-- The masked partitions whose waits are not satisfied (R38). -/
def Core.unsatisfied (c : Core) (p : Nat) (mask : BitVec 11) (wait : BitVec 44) : List Nat :=
  ((List.range 11).filter fun i =>
    mask.getLsbD i && decide (8 ≤ ((c.sh0.rsc.getD (headerPrt p i) 0).toNat + 16 - wait.toNat / 2 ^ (4 * i) % 16) % 16)).map (headerPrt p)

/-- A partition that can retire no further section (R376). -/
def Partition.spent (q : Partition) : Bool := !q.started || (q.joined && q.secs.isEmpty)

/-- What a header meets. -/
def Core.headerVerdict (c : Core) (p : Nat) (len : BitVec 9) (mask : BitVec 11) (wait : BitVec 44) : Verdict :=
  let q := c.prt p
  let hd := headerBits len mask wait
  let un := c.unsatisfied p mask wait
  if len = 0 then .trap .header 0 hd 0
  else if q.slen < q.pc.toNat + 2 + 3 * len.toNat then .trap .fetch 0 (BitVec.ofNat 64 q.slen) 0
  else if un = [] then .go
  else if un.all fun k => (c.prt k).spent then .trap .header 0 hd 0
  else .stallIf true

/-- A section opens: its words follow the header (R37, R38). -/
def Partition.openSection (q : Partition) (len : BitVec 9) : Partition :=
  { q with pc := q.pc + 2, left := len.toNat, secs := q.secs ++ [⟨q.secNo, false, 0⟩], secNo := q.secNo + 1 }

/-- A header at its partition's turn: it opens its section in the same turn, or the partition stalls, or
traps (R38, R375, R376). A section that has opened stays open: while its first word cannot issue, the waits of its header
are not evaluated again (log 111). -/
def State.evalHeader (s : State) (k p : Nat) (len : BitVec 9) (mask : BitVec 11) (wait : BitVec 44) : State :=
  let c := s.core k
  let v := c.headerVerdict p len mask wait
  if s.canIssue k p = false then s.nextTurn k p
  else
    match firstCause v.causes with
    | some x => (if c.held p then s else s.takeTrap k p x.kind.code x.info1 x.info2 (c.prt p).pc).nextTurn k p
    | none =>
      if v.stalls then (s.modCore k fun c => c.stall p v).nextTurn k p
      else s.modPrt k p fun q => q.openSection len

/-! ### Fetch (R153, R178, R375) -/

/-- What a partition comes upon at its turn. -/
inductive Fetched where
  /-- Nothing to do in this ACLK. -/
  | skip
  /-- A cycle in which nothing issues. -/
  | tick
  /-- A parcel, or the FTB, is being reloaded (R385). -/
  | reload
  /-- A trap before any word: its cause and the pc that its record holds. -/
  | trap (c : Cause) (pc : Pc)
  | header (len : BitVec 9) (mask : BitVec 11) (wait : BitVec 44)
  | group (g : Group)
deriving DecidableEq, Repr

/-- Parcel i of a partition's store. -/
def Partition.parcel (q : Partition) (i : Nat) : BitVec 32 := q.store.getD i 0

/-- The word at parcel i. -/
def Partition.wordAt (q : Partition) (i : Nat) : BitVec 96 := wordOf (q.parcel i) (q.parcel (i + 1)) (q.parcel (i + 2))

/-- FETCH at a parcel index. -/
def fetchTrap (q : Partition) (i : Nat) : Fetched := .trap ⟨.fetch, 0, BitVec.ofNat 64 (max i q.slen), 0⟩ q.pc

/-- Whether one of n parcels at i is being reloaded. -/
def Partition.reloading (q : Partition) (i n : Nat) : Bool := q.badParcels.any fun b => decide (i ≤ b) && decide (b < i + n)

/-- The header at the partition's pc. -/
def Partition.fetchHeader (q : Partition) : Fetched :=
  let i := q.pc.toNat
  if let some f := q.far then .trap ⟨.fetch, 0, BitVec.ofNat 64 (max f.toNat q.slen), 0⟩ q.pc
  else if q.slen < i + 2 then fetchTrap q i
  else if q.reloading i 2 then .reload
  else
    let x : BitVec 64 := q.parcel (i + 1) ++ q.parcel i
    match decodeHeader x with
    | .ok (.sectionHeader len mask wait) => .header len mask wait
    | _ => .trap ⟨.header, 0, x, 0⟩ q.pc

/-- The issue group at the partition's pc (R139). -/
def Partition.fetchGroup (q : Partition) (c : Ctx) : Fetched :=
  let i := q.pc.toNat
  let x := q.wordAt i
  let two := pairBit x && decide (2 ≤ q.left)
  if q.slen < i + 3 then fetchTrap q i
  else if two && decide (q.slen < i + 6) then fetchTrap q (i + 3)
  else if q.reloading i (if two then 6 else 3) then .reload
  else
    match decodeGroup c x (if two then some (q.wordAt (i + 3)) else none) with
    | .ok g => .group g
    | .error e =>
      let y := if e.second then q.wordAt (i + 3) else x
      .trap ⟨.encode, 0, y.setWidth 64, (y >>> 64).setWidth 64⟩ q.pc

/-- Where the group stands that a partition would issue next: behind a transfer for which no word is left to wait, at
its target (R178, R361). -/
def Partition.nextPc (q : Partition) : Pc :=
  match q.transfer with
  | some t => if q.left = 0 then t.target else q.pc
  | none => q.pc

/-- Whether the first word of a pair is a reserved use, whatever the second is (R139, R365, R368): it is judged beside a word
of empty moves. -/
def Env.firstReserved (e : Env) (x : BitVec 96) : Bool :=
  match decodeGroup e.ctx (x &&& ~~~(1#96 <<< 92)) none with
  | .ok g => (e.verdict { g with w1 := some (.mm Move.empty Move.empty) }).causes.any fun c => c.kind == .encode
  | .error _ => true

/-- The issue group at the partition's pc. With a reserved second word, ENCODE for a reserved use of the first comes
before it, in its lower slot (R369). -/
def Env.fetchWords (e : Env) : Fetched :=
  let q := e.q0
  let x := q.wordAt q.pc.toNat
  match q.fetchGroup e.ctx with
  | .trap c pc =>
    if c.kind = .encode ∧ e.firstReserved x = true then .trap ⟨.encode, 0, x.setWidth 64, (x >>> 64).setWidth 64⟩ pc else .trap c pc
  | f => f

/-- What partition p of core k comes upon at its turn. While a request of its queues waits in the mesh nothing of it
issues (R390). -/
def State.fetch (s : State) (k p : Nat) : Fetched :=
  let c := s.core k
  let q := c.prt p
  if q.started && q.joined && q.trap.isNone && (q.stop == none || q.stop == some .joined) then .tick
  else if s.canIssue k p = false then .skip
  else
    match q.swtrap with
    | some x => .trap ⟨.swtrap, 0, x.setWidth 64, 0⟩ q.nextPc
    | none =>
      if c.ftbReload || (q.meshWait && (q.idle != 0 || q.left == 0)) then .reload
      else if q.idle ≠ 0 then .tick
      else if q.left ≠ 0 then (s.env k p).fetchWords
      else if q.transfer.isSome then .tick
      else q.fetchHeader

end Sys2Proof.Machine
end

