-- ==== Sys2Proof/Machine/Control.lean ====
section
/-! DEFINITION. What happens to a core at the start of an ACLK beside issue: results, exchanges and
transfers that fall due, retirement, the locked group, and the run-ahead helper (R37, R43 to R47, R61 to
R64, R73, R94, R175, R187, R228, R346, R370, R374). -/

namespace Sys2Proof.Machine

/-! ### Landing (R59 to R64, R94) -/

/-- Members of a mask. -/
def maskMembers (m : BitVec 12) : List Nat := (List.range 12).filter fun p => m.getLsbD p

/-- A partition that is trapped, or stopped other than by its join: its results drain into hold entries and do not
land (R345). -/
def Partition.drains (q : Partition) : Bool := q.trap.isSome || !(q.stop == none || q.stop == some .joined)

/-- A partition whose results drain: itself trapped or stopped, or a member of a locked group one of whose members is,
frozen until the step that was cancelled issues (R345, R346). -/
def Core.drains (c : Core) (p : Nat) : Bool :=
  (c.prt p).drains || (c.isLocked p && (maskMembers c.locked).any fun i => (c.prt i).drains)

/-- A result that lands at the start of a cycle: due, and for a scoreboarded one with its data and
after every earlier result of its unit (R61, R64). -/
def Partition.lands (q : Partition) (f : Fly) : Bool :=
  f.rem == 0 && (!f.sb || !(q.fly.any fun g => g.unit == f.unit && g.sb && decide (g.seq ≤ f.seq) && !g.ready))

/-- Results that land in partition p, with that partition, in order of trigger. mx results of mat0 and
mat1 land together, for they share their latches (R63, R226). -/
def Core.landing (c : Core) (p : Nat) : List (Nat × Fly) :=
  let due (i : Nat) (mx : Bool) : List (Nat × Fly) :=
    if c.drains i then [] else ((c.prt i).fly.filter fun f => (c.prt i).lands f && (f.unit == .mx) == mx).map fun f => (i, f)
  let own := due p false
  let mx := if p = 9 ∨ p = 10 then due 9 true ++ due 10 true else []
  sortBy (fun a b => decide (a.2.seq ≤ b.2.seq)) (own ++ mx)

/-- Whether two results write one latch. -/
def Fly.collides (f g : Fly) : Bool :=
  f.unit == g.unit && f.mac == g.mac && !f.sb && !g.sb && f.seq != g.seq &&
    ((f.res.isSome && g.res.isSome) || (f.res1.isSome && g.res1.isSome) || (f.flag.isSome && g.flag.isSome))

/-- What a landing does beside the latches (R232, R240, R241). -/
def Core.landEffect (c : Core) (p : Nat) (f : Fly) : Core :=
  match f.eff with
  | .none => c
  | .bld pl j fmt cells eq psn => c.modSh fun h => h.modCim f.mac fun m => m.bldLand pl j fmt cells eq psn
  | .kvap ka va key val => { c with late := c.late ++ [(ka, key), (va, val)] }
  | .kvfrq n data => c.modPrt p fun q => { q with freq := Cells.writeBytes q.freq (512 * n.toNat) data }

/-- One result lands: its latches, its flags, its effect. -/
def Core.landOne (c : Core) (x : Nat × Fly) : Core :=
  let (p, f) := x
  let c := c.modPrt p fun q => { q with fly := q.fly.filter (fun g => g.seq != f.seq) }.raise f.fpf
  let c := if f.unit = .mx then c.modSh fun h => h.modCim f.mac fun m => m.land f
    else c.modPrt p fun q => q.setUnit f.unit ((q.unit f.unit).land f)
  c.landEffect p f

/-- Results fall due at the start of a cycle (R61 to R64): of two on one latch the later trigger's is
kept and PSTAT.LCOL is set. -/
def Core.land (c : Core) (p : Nat) : Core :=
  let due := c.landing p
  let hit := due.filter fun x => due.any fun y => x.2.collides y.2
  let c := hit.foldl (fun c x => c.modPrt x.1 fun q => { q with lcol := true }) c
  due.foldl Core.landOne c

/-- Whether a result of partition p is due. -/
def Core.landsDue (c : Core) (p : Nat) : Bool := !(c.landing p).isEmpty

/-- RESULT_LANDS. -/
def State.resultLands (s : State) (k p : Nat) : State := s.modCore k fun c => c.land p

/-! ### Exchanges (R73) -/

/-- One exchange lands; another from another sender in the same slot and ACLK sets XCOL. -/
def Core.landExchange (due : List Exchange) (c : Core) (x : Exchange) : Core :=
  let hit := due.any fun y => y.rcv == x.rcv && y.slot == x.slot && y.snd != x.snd
  c.modPrt x.rcv fun q => { q with xi := q.xi.set x.slot.toNat x.val, xcol := q.xcol || hit }

/-- Exchanges that land, so that the highest sender's comes last. -/
def Core.exchangesDue (c : Core) : List Exchange :=
  sortBy (fun a b => decide (a.snd ≤ b.snd)) (c.xfly.filter fun x => x.rem == 0)

/-- EXCHANGE_LANDS. -/
def State.exchangeLands (s : State) (k : Nat) : State :=
  s.modCore k fun c =>
    let due := c.exchangesDue
    due.foldl (Core.landExchange due) { c with xfly := c.xfly.filter fun x => x.rem != 0 }

/-- Exchanges come one ACLK nearer, or one step where both ends are members of the locked group. -/
def Core.countExchanges (c : Core) (stepped : Bool) : Core :=
  let inGroup (x : Exchange) : Bool := x.locked && c.isLocked x.snd && c.isLocked x.rcv
  { c with xfly := c.xfly.map fun x => if inGroup x && !stepped then x else { x with rem := x.rem - 1 } }

/-! ### Transfers and retirement (R37, R175, R187) -/

/-- Whether a transfer's delay has passed. -/
def Partition.transferDue (q : Partition) : Bool :=
  match q.transfer with
  | some t => t.delay == 0
  | none => false

/-- TRANSFER_DELAY_ENDS: the partition leaves its section for the target. -/
def State.transferDelayEnds (s : State) (k p : Nat) : State :=
  s.modPrt k p fun q =>
    match q.transfer with
    | some t => if t.delay = 0 then q.leaveTo t.target else q
    | none => q

/-- Whether the oldest open section retires: its last word has issued and none of its results is still
in flight (R37). None retires in a trapped partition (R342). -/
def Partition.retires (q : Partition) : Bool :=
  match q.secs with
  | e :: _ => q.trap.isNone && e.done && !(q.fly.any fun f => f.sec == e.no)
  | [] => false

/-- The oldest section retires: RGNADDR names the header that follows it, unless a region entry of a
later section has issued (R187). -/
def Partition.retire (q : Partition) : Partition :=
  match q.secs with
  | e :: rest =>
    let q := { q with secs := rest }
    if e.no < q.rgnSec then q else { q with rgnPc := e.next, rgnWrem := 0, rgnSec := e.no + 1 }
  | [] => q

/-- SECTION_RETIRE. -/
def State.sectionRetire (s : State) (k p : Nat) : State :=
  s.modCore k fun c =>
    if (c.prt p).retires then
      (c.modPrt p Partition.retire).modSh fun h => { h with rsc := h.rsc.set p (h.rsc.getD p 0 + 1) }
    else c

/-! ### Acceptance intervals (R228) -/

/-- Whether an interval has passed. -/
def Interval.due (i : Interval) : Bool := i.on && i.left == 0

/-- The interval ends when it has passed. -/
def Interval.finish (i : Interval) : Interval := if i.due then { i with on := false } else i

/-- MX_ACCEPT_INTERVAL_ENDS. -/
def State.mxAcceptIntervalEnds (s : State) (k m : Nat) : State :=
  s.modCore k fun c => c.modSh fun h => h.modCim (BitVec.ofNat 3 m) fun x => { x with ivl := x.ivl.finish, bivl := x.bivl.finish }

/-! ### The locked group (R43, R374) -/

/-- A partition that cannot come to the rendezvous: not started, or joined (R374). -/
def Core.lockDead (c : Core) : Bool := (maskMembers c.lpend).any fun p => !(c.prt p).started || (c.prt p).joined

/-- Whether a lock is pending that forms its group, or can form none. No group forms once the job is
being pre-empted (R48). -/
def Core.lockDue (c : Core) : Bool :=
  c.lpend != 0 && !c.preempting && (c.lockDead || (c.locked == 0 && c.lwait &&& c.lpend == c.lpend))

/-- LOCK_GROUP_FORMS: all members of the pending mask become the group; with a member that was never
started or has joined, those that wait trap with LOCKUSE (R374). -/
def State.lockGroupForms (s : State) (k : Nat) : State :=
  let c := s.core k
  if c.lockDue = false then s
  else if c.lockDead then
    let wait := maskMembers c.lwait
    wait.foldl (fun s p => s.takeTrap k p TrapKind.lockuse.code 0x30814 0 ((s.core k).prt p).pc)
      (s.modCore k fun c => { c with lpend := 0, lwait := 0 })
  else s.modCore k fun c => { c with locked := c.lpend, lwait := c.lwait &&& ~~~c.lpend, lpend := 0 }

/-- What a member of the group meets in the step that is about to begin. -/
inductive Trial where
  | go (e : Env)
  | stall
  | trap (k : TrapKind) (i1 i2 : Word) (pc : Pc)

/-- The group of a partition as it would issue now. -/
def Env.tryGroup (e : Env) (g : Group) : Trial :=
  let v := e.verdict g
  match firstCause v.causes with
  | some c => .trap c.kind c.info1 c.info2 e.q0.pc
  | none => if v.stalls then .stall else .go (e.issue g)

/-- What partition p would do now. -/
def State.tryTurn (s : State) (k p : Nat) : Trial :=
  let e := s.env k p
  match s.fetch k p with
  | .skip => if e.core.isLocked p then .stall else .go e
  | .tick => .go { e with core := e.core.tick p }
  | .reload => .stall
  | .trap c pc => .trap c.kind c.info1 c.info2 pc
  | .group g => e.tryGroup g
  | .header len mask wait =>
    let v := e.core.headerVerdict p len mask wait
    match firstCause v.causes with
    | some c => .trap c.kind c.info1 c.info2 e.q0.pc
    | none =>
      if v.stalls then .stall
      else
        let s' := s.modPrt k p fun q => q.openSection len
        match s'.fetch k p with
        | .group g => (s'.env k p).tryGroup g
        | .trap c pc => .trap c.kind c.info1 c.info2 pc
        | _ => .stall

/-- The members of a core's group that would stall, and those that would trap, when its twelve
partitions take their turns in order. With `alone` no use of a macro keeps another partition off it. -/
def State.trialFrom (k : Nat) (alone : Bool) : List Nat → State → List Nat × List (Nat × TrapKind × Word × Word × Pc)
  | [], _ => ([], [])
  | p :: ps, s =>
    let member := (s.core k).isLocked p
    match s.tryTurn k p with
    | .go e => State.trialFrom k alone ps (s.withEnv { e with core := { e.core with mxUsed := if alone then 0 else e.core.mxUsed } })
    | .stall =>
      let r := State.trialFrom k alone ps s
      (if member then p :: r.1 else r.1, r.2)
    | .trap t i1 i2 pc =>
      let r := State.trialFrom k alone ps s
      (r.1, if member then (p, t, i1, i2, pc) :: r.2 else r.2)

/-- What the members of a core's group meet in a step. Only groups that issue compete for a macro (R228), so the uses
of macros count only where no member stalls or traps without them (R373). -/
def State.stepTrial (s : State) (k : Nat) : List Nat × List (Nat × TrapKind × Word × Word × Pc) :=
  let s := s.modCore k fun c => { c with lockGo := true }
  let r := State.trialFrom k true (List.range 12) s
  if r.1.isEmpty && r.2.isEmpty then State.trialFrom k false (List.range 12) s else r

/-- R45, R346, R370: the step of the group goes on when every member can issue. Members that would trap
do so now, and every member's group of the step is cancelled. While a member is trapped or stopped, and
once a pre-emption has been requested, the step does not go on (R48), and neither does a step that a lost
value cancels (R361). -/
def State.decideStep (s : State) (k : Nat) : State :=
  let c := s.core k
  if c.locked = 0 then s.modCore k fun c => { c with lockGo := false }
  else
    let t := s.stepTrial k
    let still := (maskMembers c.locked).any fun p => (c.prt p).trap.isSome || (c.prt p).stop.isSome
    if still || c.preempting || c.cancel then s.modCore k fun c => { c with lockGo := false, cancel := false }
    else
      let s := t.2.foldl (fun s (p, tk, i1, i2, pc) => s.takeTrap k p tk.code i1 i2 pc) s
      s.modCore k fun c => { c with lockGo := t.1.isEmpty && t.2.isEmpty }

/-- The end of a step: SCNT counts it, and members that unlocked or joined leave (R43, R44, R186). -/
def Core.endStep (c : Core) : Core :=
  let went := c.locked != 0 && c.lockGo
  let c := c.countExchanges went
  let c := if went then c.modSh fun h => { h with scnt := h.scnt + 1 } else c
  { c with locked := c.locked &&& ~~~c.lleave, lleave := 0, lockGo := false }

/-! ### The run-ahead helper (R46, R47, R366) -/

/-- The mem partition stalls on a read of a scoreboarded latch: of gm, or of rw, whose reads wait as a load's do (R42,
R46, R64). -/
def State.loadStall (s : State) (k : Nat) : Bool :=
  let c := s.core k
  let q := c.prt 11
  q.stalled && s.canIssue k 11 && !c.isLocked 11 &&
    match s.fetch k 11 with
    | .group g => (groupItems g).any fun it => q.holds it.g &&
        match it.act with
        | .move (.latch u _ _) _ => (u == .gm0 || u == .gm1 || u == .rw) && q.awaits u
        | _ => false
    | _ => false

/-- Whether a helper is to be spawned. -/
def State.helperDue (s : State) (k : Nat) : Bool :=
  let c := s.core k
  c.helper.isNone && (c.prt 11).rah != 0 && !c.preempting && s.loadStall k

/-- RAH_HELPER_SPAWN: the helper takes copies of the operand file, the predicates and the latches of
the stalled stream (R46). -/
def State.rahHelperSpawn (s : State) (k : Nat) : State :=
  if s.helperDue k then
    s.modCore k fun c =>
      let q := c.prt 11
      { c with helper := some ⟨q.rah, 0, q.preds, q.predPsn, q.ofile, q.units, [], 0, false⟩ }
  else s

/-- Whether the helper is to die, or to be forgotten because the stall has ended. -/
def State.helperEnds (s : State) (k : Nat) : Bool :=
  let c := s.core k
  match c.helper with
  | none => false
  | some h =>
    !(s.loadStall k) || (!h.dead && (c.preempting || decide (256 ≤ h.issued) || decide ((c.prt 11).slen < h.pc.toNat + 3)))

/-- RAH_HELPER_DIES. -/
def State.rahHelperDies (s : State) (k : Nat) : State :=
  if s.helperEnds k then
    s.modCore k fun c => if s.loadStall k then c.killHelper else { c with helper := none }
  else s

/-- Units of which the helper has latches of its own (R46). -/
def helperUnit (u : UnitName) : Bool := u == .ix0 || u == .ix1 || u == .cmp || u == .imd

/-- The mem partition as the helper sees it: its own copies in place of the stream's (R46). -/
def Helper.view (h : Helper) (q : Partition) : Partition :=
  { q with
    pc := h.pc, left := 1, preds := h.preds, predPsn := h.predPsn, ofile := h.ofile,
    units := q.units.mapIdx fun i r => if i = 3 ∨ i = 4 ∨ i = 5 ∨ i = 6 then h.units.getD i r else r,
    fly := h.fly, transfer := none, loop := .zero }

/-- Whether a move of the helper is carried out: into its own copies, and a gm load as a prefetch
(R46). A pop is suppressed with its move. -/
def helperKeeps (a : Act) : Bool :=
  let dst (d : Dst) : Bool :=
    match d with
    | .ofile _ | .pred _ => true
    | .port u _ => helperUnit u
    | .trig (.gmLd _ _ _) | .trig (.gmLdSm _ _ _) => true
    | .trig t => helperUnit t.unit
    | _ => false
  match a with
  | .cmd _ _ | .move (.hq _) _ => false
  | .move _ d | .imm _ d => dst d

/-- The prefetch that a gm load of the helper becomes; a poisoned address and a fault end it alone
(R46). One that misses the FTB ends too, and no refill of R103 is begun for it (R47, log 140). -/
def helperLoad (e : Env) (r : Read) : Env :=
  match ftbLookup e.sh0.ftb (BitVec.ofNat 48 ((r.at 8).toNat % 2 ^ 48)) .rd with
  | .ok ia l => if r.psn then e else { e with core := { e.core with prefs := e.core.prefs ++ [(ia, l)] } }
  | _ => e

/-- A move of the helper that executes. -/
def helperMove (n : Nat) (e : Env) (it : Item) : Env :=
  if helperKeeps it.act = false then e
  else
    let r := (e.readItem it).2
    match it.act with
    | .move _ (.trig (.gmLd _ _ _)) | .imm _ (.trig (.gmLd _ _ _)) => helperLoad e r
    | .move _ (.trig (.gmLdSm _ _ _)) | .imm _ (.trig (.gmLdSm _ _ _)) => helperLoad e r
    | _ => e.writeItem n it r

/-- Whether a word would trap in the helper: a reserved word, a poisoned guard, or a read that traps
(R366). -/
def helperTraps (e : Env) (g : Group) : Bool :=
  g.wf e.ctx == false || (groupItems g).any fun it =>
    e.q0.predPoison it.g.pred || (e.q0.holds it.g && helperKeeps it.act && !(e.look it).1.causes.isEmpty)

/-- The word that the helper takes next, none for one that would trap: its group is judged as a stream would fetch it
(R139, R366, R367). The helper issues in one slot (R46), so it takes the two words of a pair one after the other, each as
a group of its own (log 104). -/
def Partition.helperWord (q : Partition) (c : Ctx) : Option Group :=
  let i := q.pc.toNat
  let x := q.wordAt i
  let n := if pairBit x then 6 else 3
  if q.slen < i + n ∨ q.reloading i n = true then none
  else
    match decodeGroup c x (if pairBit x then some (q.wordAt (i + 3)) else none) with
    | .ok g => if g.wf c then (decodeGroup c (x &&& ~~~(1#96 <<< 92)) none).toOption else none
    | .error _ => none

/-- One word of the helper in its ACLK (R46, R47, R366). -/
def Core.helperCycle (c : Core) (fw : Firmware) (k : Nat) : Core :=
  match c.helper with
  | none => c
  | some h =>
    if h.dead then c
    else if h.idle ≠ 0 then { c with helper := some { h with idle := h.idle - 1, fly := h.fly.map fun f => { f with rem := f.rem - 1 } } }
    else
      let q0 := h.view (c.prt 11)
      let fake := c.setPrt 11 q0
      let fake := fake.land 11
      let q1 := fake.prt 11
      let e : Env := ⟨k, 11, fake, q1, List.replicate 16 ⟨[], false, false, none⟩, fw, fw⟩
      match q1.helperWord (ctxOf k 11) with
      | some g =>
        if helperTraps e g then c.killHelper
        else
          let its := (groupItems g).filter fun it => q1.holds it.g
          let e' := its.foldl (helperMove g.len) e
          let q2 := (e'.q.countDown)
          let n := match g.w0 with | .idle n => n.toNat - 1 | _ => 0
          { c with
            prefs := e'.core.prefs,
            helper := some { h with
              pc := h.pc + 3, issued := h.issued + 1, preds := q2.preds,
              predPsn := q2.predPsn, ofile := q2.ofile, units := q2.units, fly := q2.fly, idle := n } }
      | none => c.killHelper

end Sys2Proof.Machine
end

