-- ==== Sys2Proof/Machine/Health.lean ====
section
/-! DEFINITION. The failure log, what names the job of a failure, and the bytes that jobs are charged
(R296, R401, R402). -/

namespace Sys2Proof.Machine

/-- DW0 of a failure record (R401). -/
def flogDw0 (code sub : Nat) (stream : Option Nat) (tag : BitVec 32) : Word :=
  at' 56 code ||| at' 48 sub ||| bitAt 42 stream.isSome ||| at' 32 (stream.getD 0) ||| tag.setWidth 64

/-- Record q of a region stands at place q mod 64, over the oldest (R401). -/
def flogStore (l : List FlogRec) (q : Nat) (r : FlogRec) : List FlogRec :=
  (l ++ List.replicate (q % 64 + 1 - l.length) (⟨0, 0⟩ : FlogRec)).set (q % 64) r

/-- A failure is logged in a region (R401, R402). -/
def State.logFailure (s : State) (region code sub : Nat) (stream : Option Nat) (tag job : BitVec 32) : State :=
  let q := s.dev.flogseq.getD region 0
  let r : FlogRec := ⟨flogDw0 code sub stream tag, at' 32 job.toNat ||| q.setWidth 64⟩
  { s with dev := { s.dev with
      flog := s.dev.flog.set region (flogStore (s.dev.flog.getD region []) q.toNat r),
      flogseq := s.dev.flogseq.set region (q + 1) } }

/-- JOBID of a descriptor (R29). -/
def descJob (d : List Word) : BitVec 32 := (d.getD 0 0).setWidth 32

/-- Region of a descriptor (R29). -/
def descRegion (d : List Word) : Nat := fld (d.getD 0 0) 45 3

/-- GANGID of a descriptor. -/
def descGang (d : List Word) : Nat := fld (d.getD 1 0) 16 16

/-- GRK of a descriptor. -/
def descRank (d : List Word) : Nat := fld (d.getD 0 0) 58 6

/-- Gang size of a descriptor. -/
def descSize (d : List Word) : Nat := fld (d.getD 0 0) 52 6 + 1

/-- PMASK of a descriptor. -/
def descMask (d : List Word) : BitVec 12 := BitVec.ofNat 12 (fld (d.getD 0 0) 32 12)

/-- An instance of the scheduler. -/
def State.graph? (s : State) (id : Nat) : Option GraphInst := s.sched.graphs.find? fun g => g.id == id

/-- The submission tag of a command. -/
def State.cmdTag (s : State) (id : Nat) : BitVec 32 :=
  match s.sched.cmds.find? fun c => c.id == id with
  | some c => (c.entry.getD 0 0).setWidth 32
  | none => 0

/-- STREAM and TAG with which a failure of an instance is logged (R401). -/
def State.graphTag (s : State) (inst : Nat) : Option Nat × BitVec 32 :=
  match s.graph? inst with
  | some g => match g.stream with
    | some st => (some st, g.fnum)
    | none => (none, match g.cmd with | some c => s.cmdTag c | none => 0)
  | none => (none, 0)

/-- A failure of a job is logged in its region (R402). -/
def State.logJob (s : State) (desc : List Word) (inst code sub : Nat) : State :=
  let t := s.graphTag inst
  s.logFailure (descRegion desc) code sub t.1 t.2 (descJob desc)

/-- Where a job is: live on a core, saved in a node of an instance, or neither. -/
inductive Whereabouts where
  | live (k : Nat)
  | saved (graph node idx : Nat) (j : SavedJob)
  | gone
deriving DecidableEq, Repr

/-- The core that holds a job. While a saved job is being restored, its image holds its state (R301,
R357). -/
def State.liveCore (s : State) (job : BitVec 32) : Option Nat :=
  (List.range 128).find? fun k =>
    match (s.core k).job with
    | some j => descJob j.desc == job && !(j.phase == .launching && bit (j.desc.getD 1 0) 63)
    | none => false

/-- The saved members of the nodes of an instance: node, place, job. -/
def GraphInst.savedJobs (g : GraphInst) : List (Nat × Nat × SavedJob) :=
  g.nodes.zipIdx.flatMap fun (n, i) => n.saved.zipIdx.map fun (j, x) => (i, x, j)

/-- Where a job is (R301, R357). -/
def State.whereIs (s : State) (job : BitVec 32) : Whereabouts :=
  match s.liveCore job with
  | some k => .live k
  | none =>
    match s.sched.graphs.findSome? (fun g => (g.savedJobs.find? fun x => descJob x.2.2.desc == job).map fun x => (g.id, x)) with
    | some (g, n, i, j) => .saved g n i j
    | none => .gone

/-- The instance of a job; one past every instance when the job has none any more. -/
def State.instOf (s : State) (job : BitVec 32) : Nat :=
  match s.whereIs job with
  | .live k => match (s.core k).job with | some j => j.inst | none => s.sched.nextGraph
  | .saved g _ _ _ => g
  | .gone => s.sched.nextGraph

/-- Change a node of an instance. -/
def State.modNode (s : State) (g n : Nat) (f : NodeInst → NodeInst) : State :=
  { s with sched := { s.sched with graphs := s.sched.graphs.map fun x =>
      if x.id = g then { x with nodes := x.nodes.mapIdx fun i y => if i = n then f y else y } else x } }

/-- Change an instance. -/
def State.modGraph (s : State) (id : Nat) (f : GraphInst → GraphInst) : State :=
  { s with sched := { s.sched with graphs := s.sched.graphs.map fun g => if g.id = id then f g else g } }

/-- Writes of an instance have been forwarded to ports (R279, R306). -/
def State.noteForwards (s : State) (id : Nat) (ports : BitVec 4) : State := s.modGraph id fun g => { g with fwd := g.fwd ||| ports }

/-! ### Bytes charged to regions (R296) -/

/-- Region n. -/
def State.region (s : State) (n : Nat) : Region := s.sched.regions.getD n (.reset n)

/-- Change region n. -/
def State.modRegion (s : State) (n : Nat) (f : Region → Region) : State :=
  { s with sched := { s.sched with regions := s.sched.regions.set n (f (s.region n)) } }

/-- Bytes are charged in units of 64 KiB. -/
def Region.chargeBytes (r : Region) (n : Nat) : Region :=
  { r with brem := (r.brem + n) % 65536, bbal := r.bbal - ((r.brem + n) / 65536 : Nat) }

/-- The region of a job that is live or saved. -/
def State.jobRegion (s : State) (job : BitVec 32) : Option Nat :=
  match s.whereIs job with
  | .live k => match (s.core k).job with | some j => some (descRegion j.desc) | none => none
  | .saved _ _ _ j => some (descRegion j.desc)
  | .gone => (s.cores.flatMap fun c => c.ops).findSome? fun o =>
      if o.job = job then o.left.map fun x => descRegion x.2 else none

/-- The bytes that homes have counted are charged to their regions (R296). Bytes of the scheduler itself,
which belong to no job, are charged to none. -/
def State.chargeTraffic (s : State) : State :=
  let s := s.mem.traffic.foldl (fun s (j, n) => match s.jobRegion j with | some r => s.modRegion r fun x => x.chargeBytes n | none => s) s
  { s with mem := { s.mem with traffic := [] } }

end Sys2Proof.Machine
end

