-- ==== Sys2Proof/Machine/Engines.lean ====
section
/-! DEFINITION. The engines: when an operation starts, what it does, and how it completes (R119, R148,
R245 to R260, R273, R274, R301, R318, R379, R380, R387, R411, R412). The accesses of an operation are
performed at one instant of those the manual allows (log 41). -/

namespace Sys2Proof.Machine

/-! ### Accesses of an engine (R102, R103, R245, R274, R382) -/

/-- What an access of an engine answers: a value, a fault with its status and address, or a wait. -/
inductive EngAns (α : Type) where
  | ok (s : State) (x : α)
  | fault (s : State) (st : BitVec 8) (va : Word)
  | wait

/-- One access after another. -/
def EngAns.bind {α β : Type} (a : EngAns α) (f : State → α → EngAns β) : EngAns β :=
  match a with
  | .ok s x => f s x
  | .fault s st va => .fault s st va
  | .wait => .wait

/-- Translation for an engine, with the refill of a miss; it waits for a reload of the FTB (R385). -/
def State.engXlate (s : State) (k : Nat) (va : Addr) (kind : AccKind) : EngAns Addr :=
  let again (s : State) : EngAns Addr :=
    match ftbLookup (s.core k).sh.ftb va kind with
    | .ok ia _ => .ok s ia
    | .fault st => .fault s st (va.setWidth 64)
    | .miss => .fault s stFmiss (va.setWidth 64)
  if (s.core k).ftbReload then .wait
  else
  match ftbLookup (s.core k).sh.ftb va kind with
  | .miss =>
    let c := s.core k
    match (s.modCore k fun d => { d with refill := none, refillFault := [] }).ftbFill k ⟨11, [], va, kind⟩ with
    | none => .wait
    | some s1 =>
      let f := (s1.core k).refillFault
      let s2 := s1.modCore k fun d => { d with refill := c.refill, refillFault := c.refillFault }
      match f with
      | (_, _, st) :: _ => .fault s2 st (va.setWidth 64)
      | [] => again s2
  | _ => again s

/-- A read of bytes of one line. -/
def State.engReadLine (s : State) (k : Nat) (va : Addr) (n : Nat) : EngAns (Nat × Bool) :=
  (s.engXlate k va .rd).bind fun s ia =>
    match s.mem.readIa ia n (s.core k).jobId with
    | (m, .ok x psn) => .ok { s with mem := m } (x, psn)
    | (m, .fault st) => .fault { s with mem := m } st (va.setWidth 64)
    | (_, .wait) => .wait

/-- Bytes with their poison. -/
abbrev Flagged := List (Byte × Bool)

/-- A read of bytes of one line, each with the poison of its piece (R386). -/
def State.engGet (s : State) (k : Nat) (va : Addr) (n : Nat) : EngAns Flagged :=
  (s.engXlate k va .rd).bind fun s ia =>
    match s.mem.request ia .rd n (s.core k).jobId with
    | (m, .go pl _) => .ok { s with mem := m } ((natBytes n (m.get pl n)).mapIdx fun i b => (b, m.poisoned (pl.add i) 1))
    | (m, .fault st) => .fault { s with mem := m } st (va.setWidth 64)
    | (_, .wait) => .wait

/-- A write of an engine that has been forwarded to an owner, which a system-scope release is to wait for (R279). -/
def Core.noteOwn (c : Core) (pl : Place) (cached : Bool) : Core :=
  match pl, cached with
  | .own n _, false => { c with engFwd := putBit c.engFwd n true }
  | _, _ => c

/-- A write of bytes of one line, which leaves the issuing core's L1; each piece that takes a poisoned byte is
poisoned (R386, R387). -/
def State.engPut (s : State) (k : Nat) (va : Addr) (bs : Flagged) : EngAns Unit :=
  (s.engXlate k va .wr).bind fun s ia =>
    match s.mem.writeIa ia bs.length (bytesNat (bs.map Prod.fst)) (s.core k).jobId with
    | (m, .go pl ca) =>
      let m := bs.zipIdx.foldl (fun m (b, i) => if b.2 then m.poisonPieces (pl.add i) 1 else m) m
      .ok ({ s with mem := m }.modCore k fun c => (c.l1Drop (lineOf ia)).noteOwn pl ca) ()
    | (m, .fault st) => .fault { s with mem := m } st (va.setWidth 64)
    | (_, .wait) => .wait

/-- The home of one line is asked for a write of n bytes, and nothing is written yet. -/
def State.engAskLine (s : State) (k : Nat) (va : Addr) (n : Nat) : EngAns Unit :=
  (s.engXlate k va .wr).bind fun s ia =>
    match s.mem.request ia .wr n (s.core k).jobId with
    | (m, .go _ _) => .ok { s with mem := m } ()
    | (m, .fault st) => .fault { s with mem := m } st (va.setWidth 64)
    | (_, .wait) => .wait

/-- Writes that are made together or not at all: the homes are asked first, and where one of them refuses, only the
asking has taken place (R114, R250, R257, R258). -/
def EngAns.together {α : Type} (s : State) (ask put : EngAns α) : EngAns α :=
  match ask with
  | .ok _ _ =>
    match put with
    | .fault t st va => .fault { t with mem := s.mem } st va
    | a => a
  | a => a

/-- A write of clean bytes of one line. -/
def State.engWriteLine (s : State) (k : Nat) (va : Addr) (n x : Nat) : EngAns Unit :=
  s.engPut k va ((natBytes n x).map fun b => (b, false))

/-- Bytes of one line are replaced by what a function makes of them; no piece comes clean. -/
def State.engUpdate (s : State) (k : Nat) (va : Addr) (n : Nat) (f : Nat → Byte → Byte) : EngAns Unit :=
  (s.engXlate k va .wr).bind fun s ia =>
    match s.mem.request ia .wr n (s.core k).jobId with
    | (m, .go pl ca) =>
      let bs := (natBytes n (m.get pl n)).mapIdx f
      .ok ({ s with mem := m.put pl n (bytesNat bs) }.modCore k fun c => (c.l1Drop (lineOf ia)).noteOwn pl ca) ()
    | (m, .fault st) => .fault { s with mem := m } st (va.setWidth 64)
    | (_, .wait) => .wait

/-- A read of n bytes at a VA, line by line; VAs are taken modulo 2^48 (log 42). -/
def State.engRead (s : State) (k : Nat) (va : Nat) (n : Nat) : EngAns (Nat × Bool) :=
  (cutLines va n).foldl (fun acc (a, m) =>
    acc.bind fun s x => (s.engReadLine k (BitVec.ofNat 48 a) m).bind fun s y =>
      .ok s (x.1 + y.1 * 2 ^ (8 * (a - va)), x.2 || y.2)) (.ok s (0, false))

/-- A read that poison ends with ECC (R387). -/
def State.engReadClean (s : State) (k : Nat) (va : Nat) (n : Nat) : EngAns Nat :=
  (s.engRead k va n).bind fun s r => if r.2 then .fault s stEcc (BitVec.ofNat 64 va) else .ok s r.1

/-- A writer of n bytes at a VA. -/
abbrev VaWriter := State → Nat → Nat → Nat → Nat → EngAns Unit

/-- The homes of n bytes at a VA are asked for a write, line by line. -/
def State.engAsk (s : State) (k : Nat) (va n _x : Nat) : EngAns Unit :=
  (cutLines va n).foldl (fun acc (a, m) => acc.bind fun s _ => s.engAskLine k (BitVec.ofNat 48 a) m) (.ok s ())

/-- A write of n clean bytes at a VA, line by line. -/
def State.engWrite (s : State) (k : Nat) (va : Nat) (n x : Nat) : EngAns Unit :=
  (cutLines va n).foldl (fun acc (a, m) =>
    acc.bind fun s _ => s.engWriteLine k (BitVec.ofNat 48 a) m (x / 2 ^ (8 * (a - va)) % 2 ^ (8 * m))) (.ok s ())

/-- Writes of a job's engines have been forwarded to ports: the job is to know it wherever it is, and its instance
(R268, R279, R290). -/
def State.noteJob (s : State) (job : BitVec 32) (ports : BitVec 4) : State :=
  match s.whereIs job with
  | .live i => s.modCore i fun c => { c with engFwd := c.engFwd ||| ports }
  | .saved g n i _ =>
    (s.noteForwards g ports).modNode g n fun x => { x with saved := x.saved.modify i fun j => { j with engFwd := j.engFwd ||| ports } }
  | .gone => s

/-- An operation whose job has been saved or has ended uses the FTB and the descriptor it left (R301). The lines that it
writes leave the L1 of the core on which its job is live again (R274). -/
def State.asIssuer {α : Type} (s : State) (k : Nat) (o : EngineOp) (f : State → EngAns α) : EngAns α :=
  match o.left with
  | none => f s
  | some (ftb, desc) =>
    let c := s.core k
    let l1 : Core := match s.whereIs o.job with | .live i => s.core i | _ => .empty
    let back (t : State) : State :=
      let d := t.core k
      let t := t.modCore k fun e =>
        { e with job := c.job, engFwd := c.engFwd, l1 := c.l1, l1Old := c.l1Old, sh := { e.sh with ftb := c.sh.ftb, fillptr := c.sh.fillptr } }
      let t := match t.whereIs o.job with | .live i => t.modCore i fun e => { e with l1 := d.l1, l1Old := d.l1Old } | _ => t
      t.noteJob o.job d.engFwd
    match f (s.modCore k fun d =>
      { d with
        job := some ⟨desc, .running, 0, 0, 0, [], 0⟩, engFwd := 0, l1 := l1.l1, l1Old := l1.l1Old, sh := { d.sh with ftb := ftb } }) with
    | .ok t x => .ok (back t) x
    | .fault t st va => .fault (back t) st va
    | .wait => .wait

/-! ### Changing operations -/

/-- Change an operation. -/
def Core.modOp (c : Core) (id : Nat) (f : EngineOp → EngineOp) : Core :=
  { c with ops := c.ops.map fun o => if o.id = id then f o else o }

/-- Change an operation of core k. -/
def State.modOp (s : State) (k id : Nat) (f : EngineOp → EngineOp) : State := s.modCore k fun c => c.modOp id f

/-- An operation of a core. -/
def Core.op? (c : Core) (id : Nat) : Option EngineOp := c.ops.find? fun o => o.id == id

/-- The outcome of an operation is known: its status, VAL1 and VAL2, which are 0 for an error that has no address (R246,
log 144). -/
def EngineOp.settle (o : EngineOp) (st : BitVec 8) (v1 v2 : Word) : EngineOp := { o with status := st, val1 := v1, val2 := v2 }

/-- Doubleword i of the command block. -/
def EngineOp.dw (o : EngineOp) (i : Nat) : Word := blockDw o.block i

/-! ### Malformed commands (R150, R380) -/

/-- Whether the doublewords of a block have a bit outside the masks; doublewords past the masks are
zero. -/
def blockStray (b : List Byte) (masks : List Word) : Bool :=
  (List.range 16).any fun i => blockDw b i &&& ~~~(masks.getD i 0) != 0

/-- The low n bits. -/
def lowMask (n : Nat) : Word := BitVec.ofNat 64 (2 ^ n - 1)

/-- Bits [63:62] and [47:0]. -/
def kindMask : Word := 0xC000FFFFFFFFFFFF

/-- SKIND or DKIND and its address: 0b11 is reserved, and bits above the kind's width are zero (R150). -/
def addrBad (x : Word) : Bool :=
  let a := fld x 0 48
  match fld x 62 2 with
  | 0 => false
  | 1 => decide (2 ^ 20 ≤ a)
  | 2 => decide (2 ^ 18 ≤ a)
  | _ => true

/-- MXOPF of an mq block as a trigger, when it names mma or mmt (R161, R252). -/
def mqTrigger (b : List Byte) : Option (MxOp × BitVec 3 × Bool) :=
  let f := fld (blockDw b 0) 0 10
  match decodeMx (BitVec.ofNat 8 (f / 4)) (BitVec.ofNat 2 f) with
  | .ok (.mxComp .mma m z) => some (.mma, m, z)
  | .ok (.mxComp .mmt m z) => some (.mmt, m, z)
  | _ => none

/-- The macro of an mq, when the core has it (R226). -/
def mqMacro (k : Nat) (b : List Byte) : Option (BitVec 3) :=
  match mqTrigger b with
  | some (_, m, _) => if m.toNat < (if isFcore k then 2 else 8) then some m else none
  | none => none

/-- An mq is malformed (R380): also where it names a macro that the core does not have, or mmt with
TAX = 0b11 (R235, log 43). -/
def mqBad (k : Nat) (h : Shared) (b : List Byte) : Bool :=
  blockStray b [0xFFF003FF, 0x1FFF1FFF, lowMask 18, 0xFFFF0000FFFFFFFF] ||
    (let n := fld (blockDw b 1) 16 13; n == 0 || decide (4096 < n)) ||
    (match mqTrigger b, mqMacro k b with
     | some (op, m, _), some _ =>
       let c := h.cim m
       (op == .mma && fld (blockDw b 3) 0 32 != 0) || !mxPairOk (cfgAfmt c.cfg) (c.plane c.act).fmt.toNat ||
         (op == .mmt && cfgTax c.cfg == 3)
     | _, _ => true)

/-- Whether a command is malformed (R150, R380). -/
def EngineOp.malformed (o : EngineOp) (k : Nat) (h : Shared) : Bool :=
  let b := o.block
  let copyBad (n : Fin 3) (follow : Bool) : Bool :=
    let n2 := fld (o.dw 2) 48 16
    let n1 := fld (o.dw 2) 32 16
    blockStray b ([kindMask, kindMask, lowMask 64, lowMask 64, lowMask 64] ++ if follow then [lowMask 11] else []) ||
      addrBad (o.dw 0) || addrBad (o.dw 1) || fld (o.dw 2) 0 32 == 0 || (n1 == 0) != (n.val == 0) ||
      (n2 == 0) != decide (n.val < 2) || (follow && decide (1535 < fld (o.dw 5) 0 11))
  let collBad : Bool := !([0x9, 0xB, 0x5, 0x6].contains (fld (o.dw 2) 0 4))
  match o.op with
  | .copy n => copyBad n false
  | .copyf n => copyBad n true
  | .gath | .scat =>
    blockStray b [lowMask 48, 0xFFFFFFFF0003FFFF, 0xFFFFFFFF0003FFFF, lowMask 32] ||
      (let n := fld (o.dw 1) 32 32; n == 0 || decide (49152 < n)) || (let z := fld (o.dw 2) 32 32; z == 0 || decide (4096 < z))
  | .cred => blockStray b [lowMask 48, 0xFFFFFFFF0003FFFF, 0xFF] || collBad || decide (2 < fld (o.dw 2) 4 4)
  | .cbc => blockStray b [lowMask 48, 0xFFFFFFFF0003FFFF, 0x3F0F] || collBad
  | .mq => mqBad k h b
  | .awalk =>
    blockStray b [lowMask 48, lowMask 64, lowMask 18] || (let n := fld (o.dw 1) 32 32; n == 0 || decide (4096 < n))
  | .enc => blockStray b [lowMask 48, lowMask 48, lowMask 48, lowMask 32]
  | .dec => blockStray b [lowMask 48, lowMask 48, lowMask 48, lowMask 64]
  | .fill => blockStray b [lowMask 48]
  | .patch | .evict | .wback | .post => false

/-- Bytes of the register space. -/
def regEnd : Nat := 196608

/-- Element size of a collective (R251). -/
def collSize (etype : Nat) : Nat := if etype = 0xB then 2 else 4

/-- Slots of an A-row image (R252). -/
def mqRowSlots (afmt : Nat) : Nat := if mxBits afmt = 16 then 5 else if mxBits afmt = 4 then 2 else 3

/-- Bytes of the accumulators of a row (R252). -/
def mqRowBytes (bfmt : Nat) : Nat := if mxCb bfmt = 512 then 2048 else 1024

/-- The address at which an operation goes out of range, none when it stays in range (R250, R251, R252,
R254; for a collective log 44). -/
def EngineOp.outOfRange (o : EngineOp) (h : Shared) : Option Nat :=
  let past (a n : Nat) : Option Nat := if regEnd < a + n then some (max a regEnd) else none
  match o.op with
  | .gath | .scat =>
    let n := fld (o.dw 1) 32 32
    (past (fld (o.dw 1) 0 18) (4 * n)).or (past (fld (o.dw 2) 0 18) (n * fld (o.dw 2) 32 32))
  | .cred | .cbc => past (fld (o.dw 1) 0 18) (fld (o.dw 1) 32 32 * collSize (fld (o.dw 2) 0 4))
  | .awalk => past (fld (o.dw 2) 0 18) (24 * fld (o.dw 1) 32 32)
  | .mq =>
    match mqTrigger o.block with
    | some (_, m, _) =>
      let c := h.cim m
      let n := fld (o.dw 1) 16 13
      if 8192 < fld (o.dw 1) 0 13 + n * mqRowSlots (cfgAfmt c.cfg) then some 1048576
      else past (fld (o.dw 2) 0 18) (n * mqRowBytes (c.plane c.act).fmt.toNat)
    | none => none
  | _ => none

/-! ### Hamper (R248, R387) -/

/-- One past the last address of a kind (R248). -/
def kindEnd (kind : Nat) : Nat := if kind = 0 then 2 ^ 48 else if kind = 1 then 1048576 else regEnd

/-- The n bytes of a line at an address of a kind. -/
def State.copyGet (s : State) (k kind a n : Nat) : EngAns Flagged :=
  let h := (s.core k).sh
  match kind with
  | 0 => s.engGet k (BitVec.ofNat 48 a) n
  | 1 => .ok s ((Cells.bytes h.cs a n).mapIdx fun i b => (b, csPoisoned h (a + i) 1))
  | _ => .ok s ((List.range n).map fun i => (Cells.byte h.reg (a + i), Cells.byte h.regPsn (a + i) != 0))

/-- Write bytes with their poison bits into the register space (R351). -/
def regPut (h : Shared) (a : Nat) (bs : Flagged) : Shared :=
  { h with
    reg := Cells.writeBytes h.reg a (bs.map Prod.fst),
    regPsn := Cells.writeBytes h.regPsn a (bs.map fun b => if b.2 then 1 else 0) }

/-- Write bytes of one 16-byte piece of the core store, poisoning it or not; no tag changes (R248). -/
def csPut (h : Shared) (a : Nat) (bs : Flagged) : Shared :=
  let h := csWrite h a bs.length (bytesNat (bs.map Prod.fst))
  if bs.any Prod.snd then { h with csPsn := Cells.mark h.csPsn (a / 16) 1 true } else h

/-- Write bytes of one line at an address of a kind. -/
def State.copyPut (s : State) (k kind a : Nat) (bs : Flagged) : EngAns Unit :=
  match kind with
  | 0 => s.engPut k (BitVec.ofNat 48 a) bs
  | 1 => .ok (s.modCore k fun c => c.modSh fun h => (cutAt 16 9 a bs.length).foldl (fun h (b, n) => csPut h b ((bs.drop (b - a)).take n)) h) ()
  | _ => .ok (s.modCore k fun c => c.modSh fun h => regPut h a bs) ()

/-- How far a copy has come: it waits, or has ended with a status at an address; the first poisoned
source address; the bytes written. -/
structure CopyRun where
  s : State
  wait : Bool
  stop : Option (BitVec 8 × Word)
  ecc : Option Nat
  done : Nat

/-- A copy that goes on. -/
def CopyRun.going (r : CopyRun) : Bool := !r.wait && r.stop.isNone

/-- The source bytes of one destination line, as far as they can be read. -/
def CopyRun.fetch (r : CopyRun) (k kind a n : Nat) : CopyRun × Flagged :=
  (cutLines a n).foldl (fun (acc : CopyRun × Flagged) (b, m) =>
    if acc.1.going = false then acc
    else if kindEnd kind ≤ b then ({ acc.1 with stop := some (stBound, BitVec.ofNat 64 b) }, acc.2)
    else
      match acc.1.s.copyGet k kind b m with
      | .wait => ({ acc.1 with wait := true }, acc.2)
      | .fault s st va => ({ acc.1 with s := s, stop := some (st, va) }, acc.2)
      | .ok s bs =>
        let ecc := if acc.1.ecc.isSome then acc.1.ecc else ((bs.zipIdx b).find? fun x => x.1.2).map Prod.snd
        ({ acc.1 with s := s, ecc := ecc }, acc.2 ++ bs)) (r, [])

/-- One destination line: what could be read is written, then the copy goes on or ends. -/
def CopyRun.piece (k sk dk : Nat) (src : Nat) (r : CopyRun) (a n : Nat) : CopyRun :=
  if r.going = false then r
  else
    let (f, bs) := r.fetch k sk src n
    if f.wait then f
    else if bs = [] then f
    else if kindEnd dk ≤ a then { f with stop := some (stBound, BitVec.ofNat 64 a) }
    else
      match f.s.copyPut k dk a bs with
      | .wait => { f with wait := true }
      | .fault s st va => { f with s := s, stop := some (st, va) }
      | .ok s _ => { f with s := s, done := f.done + bs.length }

/-- One inner run of N0 bytes from s to d; a signed stride may have reached below 0 (R248). -/
def CopyRun.inner (k sk dk n0 : Nat) (r : CopyRun) (sd : Int × Int) : CopyRun :=
  if r.going = false then r
  else if sd.1 < 0 then { r with stop := some (stBound, BitVec.ofInt 64 sd.1) }
  else if sd.2 < 0 then { r with stop := some (stBound, BitVec.ofInt 64 sd.2) }
  else
    (cutLines sd.2.toNat n0).foldl
      (fun r (a, n) => CopyRun.piece k sk dk (sd.1.toNat + (a - sd.2.toNat)) r a n) r

/-- The inner runs in loop order: source and destination (R248). -/
def copyRuns (o : EngineOp) : List (Int × Int) :=
  let sa : Int := fld (o.dw 0) 0 48
  let da : Int := fld (o.dw 1) 0 48
  (List.range (max (fld (o.dw 2) 48 16) 1)).flatMap fun (i2 : Nat) =>
    (List.range (max (fld (o.dw 2) 32 16) 1)).map fun (i1 : Nat) =>
      (sa + i1 * signed 32 (fld (o.dw 3) 32 32) + i2 * signed 32 (fld (o.dw 4) 32 32),
        da + i1 * signed 32 (fld (o.dw 3) 0 32) + i2 * signed 32 (fld (o.dw 4) 0 32))

/-- The whole copy. -/
def State.runCopy (s : State) (k : Nat) (o : EngineOp) : CopyRun :=
  (copyRuns o).foldl (CopyRun.inner k (fld (o.dw 0) 62 2) (fld (o.dw 1) 62 2) (fld (o.dw 2) 0 32)) ⟨s, false, none, none, 0⟩

/-- A copy as an operation: its status, VAL1 and VAL2. -/
def State.doCopy (s : State) (k : Nat) (o : EngineOp) : Option (State × EngineOp) :=
  let r := s.runCopy k o
  if r.wait then none
  else
    let v2 := BitVec.ofNat 64 r.done
    match r.stop, r.ecc with
    | some (st, va), _ => some (r.s, o.settle st va v2)
    | none, some a => some (r.s, o.settle stEcc (BitVec.ofNat 64 a) v2)
    | none, none => some (r.s, o)

/-! ### Gather (R250, R354, R355, R387) -/

/-- The VA of element i. -/
def gathVa (o : EngineOp) (i : Nat) : Nat :=
  (fld (o.dw 0) 0 48 + bytesNat ((o.sampled.drop (4 * i)).take 4) * fld (o.dw 3) 0 32) % 2 ^ 48

/-- The offset of element i in the register space. -/
def gathOff (o : EngineOp) (i : Nat) : Nat := fld (o.dw 2) 0 18 + i * fld (o.dw 2) 32 32

/-- A gath element that faults is written poisoned, its poison word and VA in its first bytes, with a ring
entry (R250, R351, R420). -/
def State.gathFault (s : State) (k : Nat) (o : EngineOp) (i : Nat) (st : BitVec 8) : Option State :=
  let z := fld (o.dw 2) 32 32
  let va := gathVa o i
  let off := gathOff o i
  (s.ringPut k o.prt ⟨3, 0, st.toNat, false, 0, va, 0, at' 32 z ||| at' 0 off, 0⟩).map fun (s, ix) =>
    let x := (poisonWord st.toNat false false ix).toNat + va * 2 ^ 64
    s.modCore k fun c => c.modSh fun h => regWrite h off z x true

/-- One element of a gath. -/
def State.gathElem (k : Nat) (o : EngineOp) (acc : Option State) (i : Nat) : Option State :=
  acc.bind fun s =>
    let z := fld (o.dw 2) 32 32
    match s.engRead k (gathVa o i) z with
    | .wait => none
    | .fault s st _ => s.gathFault k o i st
    | .ok s (x, psn) =>
      if psn then s.gathFault k o i stEcc
      else some (s.modCore k fun c => c.modSh fun h => regWrite h (gathOff o i) z x false)

/-- One element of a scat: it is written whole, each piece that takes a poisoned byte poisoned, or not at
all when it faults; the first fault or poison gives the status, and VAL2 counts the elements written. -/
def State.scatElem (k : Nat) (acc : Option (State × EngineOp)) (i : Nat) : Option (State × EngineOp) :=
  acc.bind fun (s, o) =>
    let z := fld (o.dw 2) 32 32
    let va := gathVa o i
    let h := (s.core k).sh
    let bs : Flagged := (List.range z).map fun j => (Cells.byte h.reg (gathOff o i + j), Cells.byte h.regPsn (gathOff o i + j) != 0)
    let w := (cutLines va z).foldl (fun acc (a, n) =>
      acc.bind fun s _ => s.engPut k (BitVec.ofNat 48 a) ((bs.drop (a - va)).take n)) (EngAns.ok s ())
    match EngAns.together s (s.engAsk k va z 0) w with
    | .wait => none
    | .fault t st _ => some (t, if o.status = 0 then o.settle st (BitVec.ofNat 64 va) o.val2 else o)
    | .ok t _ =>
      let o : EngineOp := { o with val2 := o.val2 + 1 }
      some (t, if bs.any Prod.snd && o.status == 0 then o.settle stEcc (BitVec.ofNat 64 va) o.val2 else o)

/-- gath and scat. -/
def State.doGather (s : State) (k : Nat) (o : EngineOp) : Option (State × EngineOp) :=
  let ixs := List.range (fld (o.dw 1) 32 32)
  match o.op with
  | .gath => (ixs.foldl (State.gathElem k o) (some s)).map fun s => (s, o)
  | _ =>
    (ixs.foldl (State.scatElem k) (some (s, o))).map fun (s, o) => (s, if o.status = 0 then { o with val2 := 0 } else o)

/-! ### The walker (R131, R254) -/

/-- The three doublewords of one position. -/
def State.walkPos (s : State) (k : Nat) (o : EngineOp) (i : Nat) : Option (State × List Byte) :=
  let job := (s.core k).jobId
  let rd : IaReader Memory := fun m ia n => m.readIa ia n job
  let out (w : WalkOut) : List Byte :=
    match w with
    | .ok d kp _ _ _ => natBytes 8 d.toNat ++ natBytes 8 kp.toNat ++ natBytes 8 (walkFlag w).toNat
    | w => natBytes 16 0 ++ natBytes 8 (walkFlag w).toNat
  match s.engRead k (fld (o.dw 0) 0 48) 16 with
  | .wait => none
  | .fault s _ _ => some (s, out (.bad 4))
  | .ok s (x, psn) =>
    if psn then some (s, out (.bad 4))
    else
      match walkHandle rd (fld (o.dw 1) 0 32 + i) s.mem x with
      | (_, .wait _) => none
      | (m, w) => some ({ s with mem := m }, out w)

/-- awalk: the results are written together. -/
def State.doWalks (s : State) (k : Nat) (o : EngineOp) : Option (State × EngineOp) :=
  let r := (List.range (fld (o.dw 1) 32 32)).foldl (fun (acc : Option (State × List Byte)) i =>
    acc.bind fun (s, bs) => (s.walkPos k o i).map fun (s, b) => (s, bs ++ b)) (some (s, []))
  r.map fun (s, bs) =>
    (s.modCore k fun c => c.modSh fun h => regPut h (fld (o.dw 2) 0 18) (bs.map fun b => (b, false)), o)

/-! ### The matrix queue (R252, R253) -/

/-- The A-row image of row r: operand t, scales, and whether a piece of it is poisoned. -/
def mqRowImage (h : Shared) (afmt aslot r : Nat) : Nat × Nat × Bool :=
  let z := mqRowSlots afmt
  let a := 128 * (aslot + r * z)
  let n := 128 * (z - 1)
  let tr := Cells.nat h.cs (a + n) 16
  (Cells.nat h.cs a n + tr / 2 ^ 64 * 2 ^ 8128, tr % 2 ^ 64, csPoisoned h a (n + 16))

/-- Row index of a row (R234). -/
def mqTidx (t : Nat) : Int := tagTidx (rowTag t)

/-- The outputs of one row: lanes, whether a source of it was poisoned, and the flags that it raises. The columns
below C_B of sub-tiles wholly above the diagonal are written with the fill value (R235, R252), those of a masked row too
(log 142). -/
def mqRow (h : Shared) (o : EngineOp) (op : MxOp) (c : Cim) (z : Bool) (r : Nat) : List Nat × Bool × FFlags :=
  let afmt := cfgAfmt c.cfg
  let p := c.plane c.act
  let n := fld (o.dw 1) 16 13
  let img (i : Nat) : Nat × Nat × Bool := mqRowImage h afmt (fld (o.dw 1) 0 13) i
  let me := img r
  let rb := mqRowBytes p.fmt.toNat
  let acc := fld (o.dw 2) 0 18 + r * rb
  let diag : Int := signed 32 (fld (o.dw 3) 0 32)
  let fill := fld (o.dw 3) 48 16
  let i : MxIn :=
    { op := op, z := z, cfg := c.cfg, plane := p, mxpad := o.mxpad, t := me.1, o1 := Cells.nat h.reg acc 1024,
      o2 := if rb = 2048 then Cells.nat h.reg (acc + 1024) 1024 else 0, o3 := me.2.1, diag := diag, tfill := fill, ad := none }
  let out := mxCompute i
  let lanes := lanesOf 32 256 out.res ++ (if rb = 2048 then lanesOf 32 256 out.res1 else [])
  let band := (List.range 32).filterMap fun j => if 32 * (r / 32) + j < n then some (mqTidx (img (32 * (r / 32) + j)).1 + diag) else none
  let above (col : Nat) : Bool := op == .mmt && decide (col < mxCb p.fmt.toNat) && band.all fun d => decide (d < ((32 * (col / 32) : Nat) : Int))
  let pb := c.pblk.toNat / (if c.act then 256 else 1) % 256
  let dead := me.2.2 || pb != 0 || (!z && Cells.anyIn h.regPsn acc rb)
  (lanes.mapIdx fun col v => if above col then mxFill (mxInteger afmt) fill else v, dead, if dead then 0 else out.fl)

/-- The accumulators that an mq will write: bytes, each row followed by a byte that tells its poison; and the flags
that its rows raise (R95). -/
def mqOuts (h : Shared) (o : EngineOp) : List Byte × FFlags :=
  match mqTrigger o.block with
  | some (op, m, z) =>
    let rows := (List.range (fld (o.dw 1) 16 13)).map fun r => mqRow h o op (h.cim m) z r
    (rows.flatMap fun x => x.1.flatMap (natBytes 4) ++ [if x.2.1 then 1 else 0], rows.foldl (fun f x => f ||| x.2.2) 0)
  | none => ([], 0)

/-- The accumulators are written (R253), in rows of the size that they had at the start (R252); a row with a poisoned
source is written poisoned (log 45). -/
def mqWrite (h : Shared) (o : EngineOp) : Shared :=
  let n := fld (o.dw 1) 16 13
  let rb := o.outs.length / n - 1
  (List.range n).foldl (fun h r =>
    let row := (o.outs.drop ((rb + 1) * r)).take (rb + 1)
    regWrite h (fld (o.dw 2) 0 18 + r * rb) rb (bytesNat (row.take rb)) (row.getD rb 0 != 0)) h

/-- An mq has read every source byte: RELINC is added to SEMA[RELSEM] (R253). -/
def State.mqSourcesReleased (s : State) (k id : Nat) : State :=
  match (s.core k).op? id with
  | some o =>
    if o.op = .mq ∧ o.phase = .running then
      let inc := if o.status = 0 then fld (o.dw 0) 20 4 else 0
      (s.modOp k id fun o => { o with phase := .released }).modCore k fun c =>
        if inc = 0 then c else c.semAdd (fld (o.dw 0) 24 8) inc
    else s
  | none => s

/-! ### Collectives (R251) -/

/-- The bytes of one contribution, rounded up to lines. -/
def collStride (o : EngineOp) : Nat := (fld (o.dw 1) 32 32 * collSize (fld (o.dw 2) 0 4) + 127) / 128 * 128

/-- VA of the contribution of rank r. -/
def collVa (o : EngineOp) (r : Nat) : Nat := fld (o.dw 0) 0 48 + 128 + r * collStride o

/-- Bytes of the local elements. -/
def collBytes (o : EngineOp) : Nat := fld (o.dw 1) 32 32 * collSize (fld (o.dw 2) 0 4)

/-- A collective starts by writing its member's contribution; poison travels with it (log 46). -/
def State.collContribute (s : State) (k : Nat) (o : EngineOp) (rank : Nat) : Option (State × EngineOp) :=
  let h := (s.core k).sh
  let off := fld (o.dw 1) 0 18
  let bs : Flagged := (List.range (collBytes o)).map fun j => (Cells.byte h.reg (off + j), Cells.byte h.regPsn (off + j) != 0)
  let r := (cutLines (collVa o rank) (collBytes o)).foldl (fun acc (a, n) =>
    acc.bind fun s _ => s.engPut k (BitVec.ofNat 48 a) ((bs.drop (a - collVa o rank)).take n)) (EngAns.ok s ())
  match r with
  | .wait => none
  | .fault s st va => some (s, o.settle st va 0)
  | .ok s _ => some (s, o)

/-- One element of a reduction (R200, R251). -/
def collElem (etype op a b : Nat) : Nat :=
  let f : Fmt := if etype = 0xB then bf16 else fp32
  if etype = 5 ∨ etype = 6 then
    match op with
    | 0 => (a + b) % 2 ^ 32
    | 1 => if etype = 5 then (if signed 32 a < signed 32 b then b else a) else max a b
    | _ => if etype = 5 then (if signed 32 b < signed 32 a then b else a) else min a b
  else
    match op with
    | 0 => (f.pack 0 (addExact 0 (f.unpack a) (f.unpack b))).1
    | 1 => (fminmax f true a b).1
    | _ => (fminmax f false a b).1

/-- Members of the gang of a core's job: core and rank, in rank order (R35). -/
def State.gangCores (s : State) (k : Nat) : List (Nat × Nat) :=
  match (s.core k).job with
  | none => []
  | some j =>
    if descSize j.desc = 1 then [(k, descRank j.desc)]
    else
      sortBy (fun a b => decide (a.2 ≤ b.2)) ((List.range 128).filterMap fun i =>
        match (s.core i).job with
        | some x => if descGang x.desc = descGang j.desc ∧ descSize x.desc = descSize j.desc then some (i, descRank x.desc) else none
        | none => none)

/-- A command of which its start has found that nothing of it is done: it is malformed or out of range (R380). -/
def EngineOp.void (o : EngineOp) (k : Nat) (h : Shared) : Bool := o.malformed k h || (o.outOfRange h).isSome

/-- The operation of core k that takes part in the collective of o: the first collective not complete on
the same buffer that has started and waits for its peers. A malformed command takes part in none (log 71). -/
def Core.collPeer (c : Core) (k : Nat) (o : EngineOp) : Option EngineOp :=
  match c.ops.find? (fun x => cmdEngine x.op == 2 && (x.dw 0) == (o.dw 0) && x.phase != .released && !x.void k c.sh) with
  | some x => if x.phase = .running then some x else none
  | none => none

/-- Whether the members' commands match, and name a rank that exists (R251). -/
def collMatch (size : Nat) (os : List EngineOp) : Bool :=
  match os with
  | [] => true
  | o :: rest =>
    rest.all (fun x => x.op == o.op && fld (x.dw 1) 32 32 == fld (o.dw 1) 32 32 && fld (x.dw 2) 0 8 == fld (o.dw 2) 0 8) &&
      (o :: rest).all fun x => x.op != .cbc || decide (fld (x.dw 2) 8 6 < size)

/-- What one member's local elements become. -/
def State.collResult (s : State) (k : Nat) (o : EngineOp) (size : Nat) : Option (State × EngineOp) :=
  let n := fld (o.dw 1) 32 32
  let et := fld (o.dw 2) 0 4
  let z := 8 * collSize et
  let x (r : Nat) (s : State) : EngAns Nat := s.engReadClean k (collVa o r) (collBytes o)
  let a : EngAns Nat :=
    match o.op with
    | .cbc => x (fld (o.dw 2) 8 6) s
    | _ =>
      (List.range (size - 1)).foldl (fun acc r =>
        acc.bind fun s v => (x (r + 1) s).bind fun s y =>
          .ok s (ofLanes z ((List.range n).map fun i => collElem et (fld (o.dw 2) 4 4) (lane z v i) (lane z y i)))) (x 0 s)
  match a with
  | .wait => none
  | .fault s st va => some (s, { o.settle st va 0 with phase := .released })
  | .ok s v => some (s, { o with phase := .released, outs := natBytes (collBytes o) v })

/-- Once the results are formed a member's contribution is unspecified: its bytes become free bytes (R251,
log 8). Bytes that can no longer be written keep what they hold. -/
def State.collScrub (s : State) (k : Nat) (o : EngineOp) (rank : Nat) : Option State :=
  let va := collVa o rank
  let r : EngAns Unit := (cutLines va (collStride o)).foldl (fun (acc : EngAns Unit) (a, n) =>
    acc.bind fun t _ => (t.engXlate k (BitVec.ofNat 48 a) .wr).bind fun t ia =>
      match t.mem.writeIa ia n (bytesNat ((List.range n).map fun i => Config.freeByte s.free (a - va + i))) 0 with
      | (_, .wait) => .wait
      | (m, _) => .ok { t with mem := m } ()) (.ok { s with free := s.free + 1 } ())
  match r with
  | .wait => none
  | .fault s _ _ => some s
  | .ok s _ => some s

/-- Once every member's operation has contributed, all results are formed (R251). A member whose own
contribution failed completes with its status. -/
def State.collForm (s : State) (k : Nat) (o : EngineOp) : Option State :=
  let gang := s.gangCores k
  let size := match (s.core k).job with | some j => descSize j.desc | none => 1
  let peers := gang.filterMap fun (i, r) => ((s.core i).collPeer i o).map fun x => (i, r, x)
  let live := (peers.map fun y => y.2.2).filter fun x => x.status == 0
  if peers.length < size then none
  else
    let formed : Option State :=
      if !live.isEmpty && !collMatch size live then
        some (peers.foldl (fun s (i, _, x) =>
          s.modOp i x.id fun y => if y.status = 0 then { y.settle stGang 0 0 with phase := .released } else { y with phase := .released }) s)
      else
        peers.foldl (fun (acc : Option State) (i, _, x) =>
          acc.bind fun s =>
            if x.status ≠ 0 then some (s.modOp i x.id fun y => { y with phase := .released })
            else (s.collResult i x size).map fun (s, y) => s.modOp i x.id fun _ => y) (some s)
    peers.foldl (fun (acc : Option State) (i, r, x) =>
      acc.bind fun s => if x.status ≠ 0 then some s else s.collScrub i x r) formed

/-! ### The codec (R255 to R258, R387, R411, R412) -/

/-- The codec engine of a core's cluster has been retired. -/
def State.codecRetired (s : State) (k : Nat) : Bool := (s.cluster (cluOf k)).codecRet

/-- WIDTH, HEIGHT and PROF of a session record (R255). -/
def sessWidth (b : List Byte) : Nat := fld (blockDw b 0) 0 16
/-- HEIGHT. -/
def sessHeight (b : List Byte) : Nat := fld (blockDw b 0) 32 16
/-- PROF. -/
def sessProf (b : List Byte) : Nat := fld (blockDw b 0) 60 4

/-- A session record with a reserved PROF or a dimension outside R255 (R380). -/
def sessBad (b : List Byte) : Bool :=
  let w := sessWidth b
  let h := sessHeight b
  decide (3 < sessProf b) || decide (w < 16) || decide (7680 < w) || decide (h < 16) || decide (4320 < h) ||
    w % 2 == 1 || h % 2 == 1 || decide (33177600 < w * h)

/-- Bytes of a sample. -/
def sessSample (b : List Byte) : Nat := Config.sampleBytes (sessProf b)

/-- Row pitch P. -/
def sessPitch (b : List Byte) : Nat := (sessWidth b * sessSample b + 127) / 128 * 128

/-- Bytes of a picture: its luma plane and its chroma plane. -/
def sessPicture (b : List Byte) : Nat := sessHeight b * sessPitch b + sessHeight b / 2 * sessPitch b

/-- Bytes of the reference store. -/
def sessRefBytes (b : List Byte) : Nat := 3 * sessWidth b * sessHeight b * sessSample b

/-- VA of the reference store. -/
def sessRef (b : List Byte) : Nat := fld (blockDw b 2) 0 48

/-- FKEY. -/
def sessFkey (b : List Byte) : Bool := bit (blockDw b 3) 32

/-- Whether frame FNUM is a key frame (R255). -/
def sessIsKey (b : List Byte) (fnum : Nat) : Bool :=
  let ki := fld (blockDw b 1) 48 16
  sessFkey b || (if ki = 0 then fnum == 0 else fnum % ki == 0)

/-- FNUM of an enc or dec. -/
def EngineOp.fnum (o : EngineOp) : BitVec 32 := (o.dw 3).setWidth 32

/-- Entries of hq14 and hq15 that an enc has still to pop. -/
def EngineOp.lumaLeft (o : EngineOp) : Nat := sessHeight o.sampled * sessPitch o.sampled / 128 - o.luma.length
/-- Entries of hq15. -/
def EngineOp.chromaLeft (o : EngineOp) : Nat := sessHeight o.sampled / 2 * sessPitch o.sampled / 128 - o.chroma.length

/-- An enc that has begun and still pops entries. -/
def EngineOp.popping (o : EngineOp) : Bool :=
  o.op == .enc && o.phase == .running && o.status == 0 && (o.lumaLeft != 0 || o.chromaLeft != 0)

/-- FKEY is set in the session record, in bits [63:32] of DW3; a fault of that write has no report (R255, R411). None
while a home or a reload of the FTB holds the write. -/
def State.setFkey (s : State) (k : Nat) (o : EngineOp) : Option State :=
  match s.asIssuer k o fun s => s.engWrite k (fld (o.dw 0) 0 48 + 28) 4 1 with
  | .ok s _ => some s
  | .fault s _ _ => some s
  | .wait => none

/-- An enc or dec ends with a status; an enc sets FKEY (R387, R411, R412, log 124). -/
def State.codecFails (s : State) (k : Nat) (o : EngineOp) (st : BitVec 8) (va : Word) : Option (State × EngineOp) :=
  (if o.op = .enc then s.setFkey k o else some s).map fun s => (s, o.settle st va 0)

/-- The session record is read at the start (R257, R380): its bytes, or the status with which the command
completes. A malformed one is not written (log 124). -/
def State.codecStart (s : State) (k : Nat) (o : EngineOp) : Option (State × EngineOp) :=
  if s.codecRetired k then s.codecFails k o stEcc 0
  else
    match s.asIssuer k o fun s => s.engReadClean k (fld (o.dw 0) 0 48) 64 with
    | .wait => none
    | .fault s st va => s.codecFails k o st va
    | .ok s x =>
      let b := natBytes 64 x
      if sessBad b then some (s, o.settle stHbad 0 0) else some (s, { o with sampled := b })

/-- The port that a codec engine waits on: hq14 before hq15. -/
def State.codecPort (s : State) (clu : Nat) : Option Nat :=
  match (s.core (8 * clu + 7)).ops.find? fun o => o.popping with
  | some o =>
    let hq := (s.cluster clu).hq
    if o.lumaLeft ≠ 0 ∧ (hqAt hq 14).visible = 0 then some 14
    else if o.chromaLeft ≠ 0 ∧ (hqAt hq 15).visible = 0 then some 15
    else none
  | none => none

/-- A cluster whose codec engine waits on a port, or on none, in one ACLK more (R408). -/
def Cluster.waitOn (c : Cluster) (port : Option Nat) : Cluster :=
  let same := match port, c.codecWait with | some i, some (j, _) => i == j | _, _ => false
  { c with
    codecWait := port.map fun i => (i, match c.codecWait with | some (_, n) => if same then n + 1 else 1 | none => 1),
    codecProbed := c.codecProbed && same }

/-- The engine pops what has become visible of what its enc wants, one entry of each port in an ACLK; an
enc whose job has ended pops nothing more (R257, R301). -/
def State.codecPop (s : State) (clu : Nat) : State :=
  let k := 8 * clu + 7
  match (s.core k).ops.find? fun o => o.popping with
  | none => s.modCluster clu fun c => c.waitOn none
  | some o =>
    if s.whereIs o.job = .gone then s
    else
      let c := s.cluster clu
      let take (i left : Nat) : Bool := left != 0 && (hqAt c.hq i).visible != 0
      let a := take 14 o.lumaLeft
      let b := take 15 o.chromaLeft
      let head (i : Nat) : Wide := match (hqAt c.hq i).ents with | e :: _ => e.data.setWidth 8192 | [] => 0
      let took (x : EngineOp) : EngineOp :=
        { x with luma := if a then x.luma ++ [head 14] else x.luma, chroma := if b then x.chroma ++ [head 15] else x.chroma }
      let port := s.codecPort clu
      (s.modOp k o.id took).modCluster clu fun c =>
        { c.waitOn port with hq := c.hq.mapIdx fun i q => if (i = 14 ∧ a) ∨ (i = 15 ∧ b) then q.pop else q }

/-- Write an access unit at a ring offset, in the pieces that the end of the ring cuts. -/
def State.ringWrite (s : State) (put : VaWriter) (k base size off : Nat) (bs : List Byte) : EngAns Unit :=
  (cutAt size (bs.length / size + 2) off bs.length).foldl (fun acc (a, n) =>
    acc.bind fun s _ => put s k (base + a % size) n (bytesNat ((bs.drop (a - off)).take n))) (.ok s ())

/-- The access unit (R257). -/
def accessUnit (fnum : BitVec 32) (key : Bool) (payload : List Byte) : List Byte :=
  natBytes 8 (payload.length % 2 ^ 32 + fnum.toNat * 2 ^ 32) ++ natBytes 8 (if key then 1 else 0) ++ payload ++
    List.replicate ((16 - payload.length % 16) % 16) 0

/-- The bytes of popped entries. -/
def entryBytes (ws : List Wide) : List Byte := ws.flatMap fun w => natBytes 128 w.toNat

/-- Row r of a picture at pitch P: its samples, bits [15:10] of 10-bit ones cleared (R255). -/
def sessRow (b : List Byte) (bs : List Byte) (r : Nat) : List Byte :=
  ((bs.drop (r * sessPitch b)).take (sessWidth b * sessSample b)).mapIdx fun i x => if sessSample b = 2 ∧ i % 2 = 1 then x &&& 3 else x

/-- The samples of a picture laid out as R255 says: rows of luma, then of chroma. -/
def sessSamples (b : List Byte) (bs : List Byte) : List Byte :=
  (List.range (sessHeight b + sessHeight b / 2)).flatMap (sessRow b bs)

/-- The q of a block: BASEQ and the map's signed delta, saturated over the profile's range (R257). -/
def sessQ (b : List Byte) (delta : Byte) : Nat :=
  let top : Int := if sessProf b < 2 then 255 else 51
  (max 0 (min top ((fld (blockDw b 1) 32 8 : Int) + signed 8 delta.toNat))).toNat

/-- What an enc codes its picture from (R257). -/
def EngineOp.encTask (o : EngineOp) (ref : List Byte) (map : Option (List Byte)) : Config.EncTask :=
  let b := o.sampled
  ⟨sessProf b, sessWidth b, sessHeight b, o.fnum.toNat, sessIsKey b o.fnum.toNat, fld (blockDw b 1) 32 8, map.map fun q => q.map (sessQ b), ref⟩

/-- The work of an enc once it has popped every entry, with a writer: VAL1 and VAL2 (R257, R275). -/
def State.encode (s : State) (put : VaWriter) (k : Nat) (o : EngineOp) : EngAns (Word × Word) :=
  let sess := o.sampled
  let buf := fld (o.dw 1) 0 48
  let aux := fld (o.dw 2) 0 48
  let qn := (sessWidth sess + 63) / 64 * ((sessHeight sess + 63) / 64)
  (s.engReadClean k buf 32).bind fun s d =>
  (if aux = 0 then .ok s 0 else s.engReadClean k aux qn).bind fun s q =>
  (s.engReadClean k (sessRef sess) (sessRefBytes sess)).bind fun s r =>
    let db := natBytes 32 d
    let size := (blockDw db 1).toNat
    let woff := (blockDw db 2).toNat
    let used := (blockDw db 2 - blockDw db 3).toNat
    let task := o.encTask (natBytes (sessRefBytes sess) r) (if aux = 0 then none else some (natBytes qn q))
    let px := sessSamples sess (entryBytes (o.luma ++ o.chroma))
    let pay := Config.codec.enc task px
    let au := accessUnit o.fnum (sessIsKey sess o.fnum.toNat) pay
    if size < used + au.length then .fault s stRingfull 0
    else
      (s.ringWrite put k (fld (blockDw db 0) 0 48) size woff au).bind fun s _ =>
      (put s k (sessRef sess) (sessRefBytes sess) (bytesNat ((Config.codec.encRef task px).take (sessRefBytes sess)))).bind fun s _ =>
      (put s k (buf + 16) 8 ((woff + au.length) % 2 ^ 64)).bind fun s _ =>
      (put s k (fld (o.dw 0) 0 48 + 24) 8 o.fnum.toNat).bind fun s _ =>
        .ok s (BitVec.ofNat 64 pay.length, BitVec.ofNat 64 woff)

/-- An enc completes: with a status other than OK it writes nothing but FKEY, and on an engine that has been
retired it completes with ECC (R257, R411, R412). -/
def State.doEnc (s : State) (k : Nat) (o : EngineOp) : Option (State × EngineOp) :=
  if o.status ≠ 0 then some (s, o)
  else if o.popping then
    if s.whereIs o.job = .gone then (s.setFkey k o).map fun s => (s, o) else none
  else if s.codecRetired k then s.codecFails k o stEcc 0
  else
    match s.asIssuer k o fun s => EngAns.together s (s.encode State.engAsk k o) (s.encode State.engWrite k o) with
    | .wait => none
    | .ok s v => some (s, o.settle 0 v.1 v.2)
    | .fault s st va => s.codecFails k o st va

/-- The output area of a dec whose input does not conform: each byte keeps its value or takes a decoded one, and
the rules leave open which and what (R258, log 8). -/
def State.decScrap (s : State) (k : Nat) (o : EngineOp) : EngAns Unit :=
  let va := fld (o.dw 2) 0 48
  (cutLines va (sessPicture o.sampled)).foldl (fun (acc : EngAns Unit) (a, n) =>
    acc.bind fun t _ => t.engUpdate k (BitVec.ofNat 48 a) n fun i x =>
      if (Config.freeByte s.free (a - va + i)).getLsbD 0 then Config.freeByte (s.free + 1) (a - va + i) else x) (.ok { s with free := s.free + 2 } ())

/-- A decoded picture is written at a VA, its samples row by row at the pitch (R255). What fills the rows up to the
pitch is no part of the picture and stays as it is (log 13). -/
def State.putPicture (s : State) (k : Nat) (b : List Byte) (va : Nat) (px : List Byte) : EngAns Unit :=
  let w := sessWidth b * sessSample b
  (List.range (sessHeight b + sessHeight b / 2)).foldl (fun (acc : EngAns Unit) r =>
    acc.bind fun t _ => t.engWrite k (va + r * sessPitch b) w (bytesNat ((px.drop (r * w)).take w))) (.ok s ())

/-- The bytes of a picture at base that are written before the line at an address is. -/
def pictureBefore (b : List Byte) (base a : Nat) : Nat :=
  let d := (a + 2 ^ 48 - base) % 2 ^ 48
  let w := sessWidth b * sessSample b
  d / sessPitch b * w + min w (d % sessPitch b)

/-- REF and LAST after a dec, with a writer (R258). -/
def State.decNote (s : State) (put : VaWriter) (k : Nat) (o : EngineOp) (ref : List Byte) : EngAns Unit :=
  let sess := o.sampled
  (put s k (sessRef sess) (sessRefBytes sess) (bytesNat (ref.take (sessRefBytes sess)))).bind fun t _ =>
    put t k (fld (o.dw 0) 0 48 + 24) 4 o.fnum.toNat

/-- The work of a dec: STATUS, VAL1 and VAL2 (R246, R258). A fault after the picture leaves REF and LAST as they
stood. -/
def State.decodeUnit (s : State) (k : Nat) (o : EngineOp) : EngAns (BitVec 8 × Word × Word) :=
  let sess := o.sampled
  let len := fld (o.dw 3) 32 32
  (s.engReadClean k (fld (o.dw 1) 0 48) len).bind fun s x =>
  (s.engReadClean k (sessRef sess) (sessRefBytes sess)).bind fun s r =>
    let inp := natBytes len x
    let ref := natBytes (sessRefBytes sess) r
    match Config.codec.dec (sessProf sess) (sessWidth sess) (sessHeight sess) ref inp with
    | none =>
      match s.decScrap k o with
      | .wait => .wait
      | .fault s _ _ => .fault s stBitstream 0
      | .ok s _ => .fault s stBitstream 0
    | some pic =>
      let all := BitVec.ofNat 64 (Config.pictureBytes (sessProf sess) (sessWidth sess) (sessHeight sess))
      let next := Config.codec.decRef (sessProf sess) (sessWidth sess) (sessHeight sess) ref inp
      match s.putPicture k sess (fld (o.dw 2) 0 48) pic with
      | .wait => .wait
      | .fault s st va => .ok s (st, va, BitVec.ofNat 64 (pictureBefore sess (fld (o.dw 2) 0 48) va.toNat))
      | .ok s _ =>
        match EngAns.together s (s.decNote State.engAsk k o next) (s.decNote State.engWrite k o next) with
        | .wait => .wait
        | .fault s st va => .ok s (st, va, all)
        | .ok s _ => .ok s (0, all, 0)

/-- A dec completes. -/
def State.doDec (s : State) (k : Nat) (o : EngineOp) : Option (State × EngineOp) :=
  if o.status ≠ 0 then some (s, o)
  else if s.codecRetired k then some (s, o.settle stEcc 0 0)
  else
    match s.decodeUnit k o with
    | .wait => none
    | .ok s v => some (s, o.settle v.1 v.2.1 v.2.2)
    | .fault t st va => some (t, o.settle st va 0)

/-! ### The tag engine (R119, R259) -/

/-- The slot of a tag-engine command. -/
def EngineOp.slot (o : EngineOp) : Nat := o.fields.imm.toNat % 8192

/-- A line's bytes into a slot, poison carried piece by piece (R387). -/
def csFill (h : Shared) (slot x : Nat) (psn : Nat → Bool) : Shared :=
  (List.range 8).foldl (fun h i => csPut h (128 * slot + 16 * i) ((natBytes 16 (x / 2 ^ (128 * i))).map fun b => (b, psn i))) h

/-- A fill that failed leaves the slot with V, PIN, DIRTY and BUSY 0. -/
def TagEntry.failed (e : TagEntry) : TagEntry := { e with v := false, pin := false, dirty := false, busy := false }

/-- A tag-engine command starts (R119, R259). -/
def State.tagStart (s : State) (k : Nat) (o : EngineOp) : Option (State × EngineOp) :=
  let tag (s : State) (f : TagEntry → TagEntry) : State := s.modCore k fun c => c.modSh fun h => h.modTag o.slot f
  match o.op with
  | .fill =>
    let line := fld (o.dw 0) 7 41 * 128
    match s.engXlate k (BitVec.ofNat 48 line) .rd with
    | .wait => none
    | .fault s st va => some (tag s TagEntry.failed, o.settle st va 0)
    | .ok s ia =>
      some (tag s fun _ => ⟨true, false, false, true, BitVec.ofNat 32 (ia.toNat / 2 ^ 16), false⟩, { o with ia := ia })
  | _ => some (tag s fun e => { e with busy := true, hit := false }, o)

/-- The IA of the line that a slot holds (R259). -/
def TagEntry.lineIa (e : TagEntry) (slot : Nat) : Addr := BitVec.ofNat 48 (e.tag.toNat * 65536 + slot / 16 * 128)

/-- A slot's line is written back through the LLC, without translation; poisoned pieces stay so. -/
def State.writeBack (s : State) (k slot : Nat) : EngAns Unit :=
  let h := (s.core k).sh
  let ia := (tagGet h.tags slot).lineIa slot
  match s.mem.writeIa ia 128 (Cells.nat h.cs (128 * slot) 128) (s.core k).jobId with
  | (_, .wait) => .wait
  | (m, .fault st) => .fault { s with mem := m } st (ia.setWidth 64)
  | (m, .go pl ca) =>
    let m := (List.range 8).foldl (fun m i =>
      if Cells.anyIn h.csPsn (8 * slot + i) 1 then m.poisonPieces (pl.add (16 * i)) 16 else m) m
    .ok ({ s with mem := m }.modCore k fun c => (c.l1Drop (lineOf ia)).noteOwn pl ca) ()

/-- A fill, evict or wback completes (R119, R259). -/
def State.doTag (s : State) (k : Nat) (o : EngineOp) : Option (State × EngineOp) :=
  let tag (s : State) (f : TagEntry → TagEntry) : State := s.modCore k fun c => c.modSh fun h => h.modTag o.slot f
  let e := tagGet (s.core k).sh.tags o.slot
  let back : EngAns Unit := if e.v && !e.pin && (o.op == .wback || e.dirty) then s.writeBack k o.slot else .ok s ()
  let done (e : TagEntry) : TagEntry :=
    if o.op = .evict then { e with v := false, pin := false, dirty := false, busy := false, hit := false }
    else { e with dirty := e.dirty && e.hit && e.v && !e.pin, busy := false, hit := false }
  match o.op with
  | .fill =>
    if o.status ≠ 0 then some (s, o)
    else
      match s.mem.request o.ia .rd 128 (s.core k).jobId with
      | (_, .wait) => none
      | (m, .fault st) => some (tag { s with mem := m } TagEntry.failed, o.settle st (BitVec.ofNat 64 (fld (o.dw 0) 7 41 * 128)) 0)
      | (m, .go pl _) =>
        let s := { s with mem := m }.modCore k fun c =>
          c.modSh fun h => csFill h o.slot (m.get pl 128) fun i => m.poisoned (pl.add (16 * i)) 16
        some (tag s fun e => { e with busy := false }, o)
  | _ =>
    match back with
    | .wait => none
    | .fault s st va => some (tag s done, o.settle st va 0)
    | .ok s _ => some (tag s done, o)

/-! ### Completion (R148, R245, R246, R301) -/

/-- The event record of an operation (R246, R260). -/
def EngineOp.record (o : EngineOp) : EvRec :=
  let payload : BitVec 32 := match o.op with | .post => o.fields.imm | .enc | .dec => o.fnum | _ => 0
  ⟨at' 60 o.op.codes.1.toNat ||| at' 56 o.op.codes.2.toNat ||| at' 48 o.status.toNat ||| at' 44 o.prt ||| payload.setWidth 64,
    o.val1, o.val2, at' 32 o.job.toNat⟩

/-- Whether an operation posts its record. -/
def EngineOp.posts (o : EngineOp) : Bool := o.status != 0 || o.op == .enc || o.op == .dec || o.op == .post

/-- A write of an image; none while the home takes it not, and one that faults is lost (R425). -/
def Memory.imagePut (m : Memory) (a : Addr) (n x : Nat) (job : BitVec 32) : Option Memory :=
  match m.writeIa a n x job with
  | (_, .wait) => none
  | (m, _) => some m

/-- A doubleword of an image; none while the home does not answer, and 0 for one that cannot be read. -/
def Memory.imageDw (m : Memory) (a : Addr) (n : Nat) (job : BitVec 32) : Option (Memory × Nat) :=
  match m.readIa a n job with
  | (m, .ok x _) => some (m, x)
  | (m, .fault _) => some (m, 0)
  | (_, .wait) => none

/-- A semaphore signal applied to an image (R301): the 4 bytes of the semaphore under R40. -/
def Memory.imageSignal (m : Memory) (ria : Addr) (n inc : Nat) (job : BitVec 32) : Option Memory :=
  let a : Addr := ria + BitVec.ofNat 48 (0x400 + 4 * n)
  (m.imageDw a 4 job).bind fun (m, x) =>
    let v := x % 65536 + inc
    m.imagePut a 4 (if 65535 < v then 131071 else v + x / 65536 % 2 * 65536) job

/-- A record appended to an image's event queue, or dropped and counted (R41, R246, R301). -/
def Memory.imageRecord (m : Memory) (ria : Addr) (r : EvRec) (job : BitVec 32) : Option Memory :=
  let put (m : Memory) (off n x : Nat) : Option Memory := m.imagePut (ria + BitVec.ofNat 48 off) n x job
  (m.imageDw (ria + 0x20) 8 job).bind fun (m, seq) =>
  (m.imageDw (ria + 0x1C00) 8 job).bind fun (m, st) =>
  (put m 0x20 8 ((seq + 1) % 2 ^ 32)).bind fun m =>
    let n := st % 128
    let r := { r with dw3 := r.dw3 ||| BitVec.ofNat 64 (seq % 2 ^ 32) }
    if n < 64 then (put m (0x1400 + 32 * n) 32 r.nat).bind fun m => put m 0x1C00 8 (st + 1)
    else
      let lost := st / 65536 % 256
      put m 0x1C00 8 (n + 32768 + (if lost = 255 then 255 else lost + 1) * 65536)

/-- The signal and the record of an operation reach the live job or its image; those of a job that is gone reach
neither (R301). None while a home takes no write of the image. -/
def State.deliver (s : State) (k : Nat) (o : EngineOp) : Option State :=
  let inc := o.fields.sinc.toNat
  let n := o.fields.ssem.toNat
  let live (i : Nat) : State :=
    s.modCore i fun c =>
      let c := if inc = 0 then c else c.semAdd n inc
      if o.posts then c.postRec o.record else c
  match o.left with
  | none => some (live k)
  | some _ =>
    match s.whereIs o.job with
    | .live i => some (live i)
    | .saved _ _ _ j =>
      (if inc = 0 then some s.mem else s.mem.imageSignal j.ria n inc o.job).bind fun m =>
        (if o.posts then m.imageRecord j.ria o.record o.job else some m).map fun m => { s with mem := m }
    | .gone => some s

/-- The region of an operation's job. -/
def State.opRegion (s : State) (k : Nat) (o : EngineOp) : Nat :=
  match o.left with
  | some (_, d) => descRegion d
  | none => descRegion (match (s.core k).job with | some j => j.desc | none => [])

/-- CODEC is logged for an enc or dec that fails (R402, R411). -/
def State.logCodec (s : State) (k : Nat) (o : EngineOp) : State :=
  if (o.op == .enc || o.op == .dec) && o.status != 0 then
    let t := s.graphTag (s.instOf o.job)
    s.logFailure (s.opRegion k o) 7 o.status.toNat t.1 (if t.1.isSome then o.fnum else t.2) o.job
  else s

/-- An operation leaves its queue, with its signal and its record (R148, R245). A macro that it held is
free again, and a copyf whose follow-on it is completes with it (R249, R252). What it has read and written is charged
while its region is known (R296). -/
def State.finishOp (s : State) (k : Nat) (o : EngineOp) : Option State :=
  let s := s.chargeTraffic.modCore k fun c =>
    { c with
      ops := c.ops.filter fun x => x.id != o.id,
      sh := { c.sh with cims := c.sh.cims.map fun m => if m.holder = some o.id then { m with holder := none } else m } }
  ((s.logCodec k o).deliver k o).bind fun s =>
    match o.parent.bind fun i => (s.core k).op? i with
    | some q => (s.modCore k fun c => { c with ops := c.ops.filter fun x => x.id != q.id }).deliver k q
    | none => some s

/-- Engines whose operations complete in queue order (R245). -/
def opInOrder (c : Core) (o : EngineOp) : Bool :=
  let before := c.ops.takeWhile fun x => x.id != o.id
  let eng := cmdEngine o.op
  if eng = 5 ∨ eng = 8 ∨ eng = 9 then !(before.any fun x => cmdEngine x.op == eng)
  else if eng = 3 then !(before.any fun x => cmdEngine x.op == 3 && fld (x.dw 0) 7 3 == fld (o.dw 0) 7 3)
  else true

/-- What an operation that is about to complete has done; none while it cannot complete yet. -/
def State.opEffect (s : State) (k : Nat) (o : EngineOp) : Option (State × EngineOp) :=
  match o.op with
  | .copy _ | .copyf _ => if o.status ≠ 0 then some (s, o) else s.doCopy k o
  | .gath | .scat => if o.status ≠ 0 then some (s, o) else s.doGather k o
  | .awalk => if o.status ≠ 0 then some (s, o) else s.doWalks k o
  | .mq =>
    if o.phase ≠ .released then none
    else if o.status ≠ 0 then some (s, o)
    else some (s.modCore k fun c => (c.modSh fun h => mqWrite h o).modPrt o.prt fun q => q.raise o.fl, o)
  | .cred | .cbc =>
    let s' := if o.phase = .released || o.void k (s.core k).sh then some s else s.collForm k o
    s'.bind fun s =>
      ((s.core k).op? o.id).map fun o =>
        (if o.status = 0 then s.modCore k fun c => c.modSh fun h => regPut h (fld (o.dw 1) 0 18) (o.outs.map fun b => (b, false))
         else s, o)
  | .enc => s.doEnc k o
  | .dec => s.doDec k o
  | .fill | .evict | .wback => if o.status ≠ 0 then some (s, o) else s.doTag k o
  | .post => some (s, o)
  | .patch => none

/-- ENGINE_OP_COMPLETE. A copyf whose copy has succeeded waits for its follow-on (R249). -/
def State.opComplete? (s : State) (k id : Nat) : Option State :=
  ((s.core k).op? id).bind fun o =>
    if (o.phase != .running && o.phase != .released) || !opInOrder (s.core k) o then none
    else
      (s.opEffect k o).bind fun (s, o) =>
        match o.op with
        | .copyf _ => if o.status = 0 then some (s.modOp k o.id fun _ => { o with phase := .copied }) else s.finishOp k o
        | _ => s.finishOp k o

/-- ENGINE_OP_COMPLETE; nothing happens while the operation cannot complete. -/
def State.engineOpComplete (s : State) (k id : Nat) : State := (s.opComplete? k id).getD s

/-- COPYF_FOLLOW_ON: the follow-on enters the matrix queue behind every command in it, once that has room
(R249). Its earlier stores have been performed with the copyf's. -/
def State.copyfFollowOn (s : State) (k id : Nat) : State :=
  let c := s.core k
  match c.op? id with
  | some o =>
    if o.phase = .copied ∧ c.engineLoad 3 < 16 ∧ c.ops.all (fun x => x.parent != some id) then
      let f : CmdFields := { o.fields with ssem := 0, sinc := 0, imm := 0 }
      let q : EngineOp :=
        { o with
          id := c.opId, op := .mq, fields := f, block := o.block2, block2 := [], sampled := [], phase := .queued,
          outs := [], fl := 0, parent := some id, status := 0, val1 := 0, val2 := 0 }
      s.modCore k fun c => { c with ops := c.ops ++ [q], opId := c.opId + 1 }
    else s
  | none => s

/-! ### Start (R245, R273, R318, R379, R380) -/

/-- The pacing of an engine has passed (R318). -/
def Core.paced (c : Core) (code : Nat) : Bool := decide ((c.sh.gap.getD code 0).toNat ≤ c.paceAge.getD code 65535)

/-- The head of an engine's queue, if it may start: forked, paced, its macro or slot free, the codec idle. -/
def Core.startable (c : Core) (k eng : Nat) : Option EngineOp :=
  match c.ops.find? fun o => cmdEngine o.op == eng && o.phase == .queued with
  | none => none
  | some o =>
    let busy : Bool :=
      match o.op with
      | .mq => match mqMacro k o.block with | some m => (c.sh.cim m).holder.isSome | none => false
      | .fill | .evict | .wback => (tagGet c.sh.tags o.slot).busy
      | .enc | .dec => (c.ops.takeWhile fun x => x.id != o.id).any fun x => cmdEngine x.op == 5
      | .patch => true
      | _ => false
    if o.forked && c.paced o.op.codes.1.toNat && !busy then some o else none

/-- What happens at the start of an operation; none while it must wait for a refill or a home. An mq reads its sources
here, an instant that R253 allows (log 41); VAL1 and VAL2 of a malformed command are 0 (R246, log 144). -/
def State.startEffect (s : State) (k : Nat) (o : EngineOp) : Option (State × EngineOp) :=
  let c := s.core k
  if o.malformed k c.sh then some (s, o.settle stHbad 0 0)
  else
    match o.outOfRange c.sh with
    | some a => some (s, o.settle stBound (BitVec.ofNat 64 a) 0)
    | none =>
      match o.op with
      | .cred | .cbc => s.collContribute k o (match c.job with | some j => descRank j.desc | none => 0)
      | .mq =>
        let r := mqOuts c.sh o
        some (s, { o with outs := r.1, fl := r.2 })
      | .enc | .dec => s.codecStart k o
      | .fill | .evict | .wback => s.tagStart k o
      | _ => some (s, o)

/-- The macro that an operation holds from its start on. -/
def Core.hold (c : Core) (k : Nat) (o : EngineOp) : Core :=
  match o.op with
  | .mq =>
    match mqMacro k o.block with
    | some m => if o.status = 0 then c.modSh fun h => h.modCim m fun x => { x with holder := some o.id } else c
    | none => c
  | _ => c

/-- ENGINE_OP_START. -/
def State.engineOpStart (s : State) (k eng : Nat) : State :=
  match (s.core k).startable k eng with
  | none => s
  | some o =>
    match s.startEffect k o with
    | none => s
    | some (s, o) =>
      s.modCore k fun c =>
        ({ (c.modOp o.id fun _ => { o with phase := .running }) with paceAge := c.paceAge.set o.op.codes.1.toNat 0 }).hold k o

end Sys2Proof.Machine
end

