-- ==== Sys2Proof/Machine/Complete.lean ====
section
/-! DEFINITION. How jobs, nodes, frames and commands complete: signal words, MSI-X, the stream table,
queue holds, and the end of a job (R33, R276, R286, R288 to R294, R301, R302, R304 to R307, R358, R405,
R406, R410). -/

namespace Sys2Proof.Machine

/-! ### Accesses of the scheduler by IA -/

/-- A read of n bytes by IA; reserved space faults (R105). -/
def Memory.devRead (m : Memory) (ia n : Nat) : Memory × Acc :=
  if iaReserved (BitVec.ofNat 48 ia) || iaReserved (BitVec.ofNat 48 (ia + n - 1)) then (m, .fault stIarsv)
  else
    match m.readBytes (BitVec.ofNat 48 ia) n 0 with
    | (m, .ok _ true) => (m, .fault stEcc)
    | r => r

/-- A write of n bytes by IA. -/
def Memory.devWrite (m : Memory) (ia n x : Nat) : Memory × Req :=
  if iaReserved (BitVec.ofNat 48 ia) || iaReserved (BitVec.ofNat 48 (ia + n - 1)) then (m, .fault stIarsv)
  else m.writeBytes (BitVec.ofNat 48 ia) n x 0

/-- The bytes of a read by IA. -/
def State.fetchIa (s : State) (ia n : Nat) : EngAns (List Byte) :=
  match s.mem.devRead ia n with
  | (m, .ok x _) => .ok { s with mem := m } (natBytes n x)
  | (m, .fault st) => .fault { s with mem := m } st (BitVec.ofNat 64 ia)
  | (_, .wait) => .wait

/-! ### MSI-X (R307, R311, R410) -/

/-- A vector's state. -/
def State.vector (s : State) (v : Nat) : MsixVec := s.sched.vectors.getD v ⟨16, 64, 0, 0⟩

/-- Change a vector. -/
def State.modVector (s : State) (v : Nat) (f : MsixVec → MsixVec) : State :=
  { s with sched := { s.sched with vectors := s.sched.vectors.set v (f (s.vector v)) } }

/-- Entry i of the MSI-X table of a function. -/
def State.entry (s : State) (fn i : Nat) : MsixEntry := (s.sched.tables.getD fn []).getD i .reset

/-- Change entry i of the MSI-X table of a function. -/
def State.modEntry (s : State) (fn i : Nat) (f : MsixEntry → MsixEntry) : State :=
  { s with sched := { s.sched with tables := s.sched.tables.modify fn fun t => t.modify i f } }

/-- Function and table entry of a device vector (R311). -/
def State.msixEntry (s : State) (v : Nat) : Nat × Nat :=
  let n := v / 256
  if 1 ≤ n ∧ n ≤ s.sched.numVfs then (n, v % 256) else (0, v)

/-- The message of a table entry: it leaves through port 0, waits on the pending bit of a masked entry, or is
discarded while the function's MSI-X is disabled (R410, R413, R414). -/
def State.sendEntry (s : State) (fn i : Nat) : State :=
  let x := s.entry fn i
  if s.sched.msixEn.getD fn false = false then s
  else if x.masked then s.modEntry fn i fun y => { y with pba := true }
  else if s.mem.shut 0 x.addr.toNat then s
  else { s with out := .msix fn i x.addr x.data :: s.out }

/-- The message for a vector, through the entry that delivers it; the pending count is cleared (R307, R311). -/
def State.sendMsix (s : State) (v : Nat) : State :=
  let e := s.msixEntry v
  (s.modVector v fun y => { y with pending := 0 }).sendEntry e.1 e.2

/-- Whether the pending completions of a vector send its message now (R307, R410). -/
def MsixVec.full (x : MsixVec) : Bool := decide (0 < x.pending) && (decide (x.count.toNat ≤ x.pending) || x.time == 0)

/-- A completion with IRQ = 1 on a vector (R307). -/
def State.irq (s : State) (v : Nat) : State :=
  let s := s.modVector v fun x => { x with pending := x.pending + 1, oldest := if x.pending = 0 then s.now else x.oldest }
  if (s.vector v).full then s.sendMsix v else s

/-! ### Signal words (R306) -/

/-- A signal word falls by 1; a fault drops the decrement and logs SIGNAL. No answer while a home holds
the access. -/
def State.signal (s : State) (ia region : Nat) (stream : Option Nat) (tag : BitVec 32) : Option State :=
  if ia = 0 then some s
  else
    let fail (s : State) (st : BitVec 8) : State := s.logFailure region 0x0C st.toNat stream tag 0
    match s.mem.devRead ia 8 with
    | (_, .wait) => none
    | (m, .fault st) => some (fail { s with mem := m } st)
    | (m, .ok x _) =>
      match m.devWrite ia 8 ((x + 2 ^ 64 - 1) % 2 ^ 64) with
      | (_, .wait) => none
      | (m, .fault st) => some (fail { s with mem := m } st)
      | (m, .go _ _) => some { s with mem := m }

/-! ### Commands (R304, R305) -/

/-- A command of a ring. -/
def State.cmd? (s : State) (id : Nat) : Option Command := s.sched.cmds.find? fun c => c.id == id

/-- A submission entry completes: its signal word falls and its interrupt is counted. -/
def State.entryDone (s : State) (ring : Nat) (e : List Word) : Option State :=
  (s.signal (fld (e.getD 1 0) 0 48) ring none ((e.getD 0 0).setWidth 32)).map fun s =>
    if bit (e.getD 0 0) 55 then s.irq (fld (e.getD 0 0) 44 11) else s

/-- A command completes and is forgotten. -/
def State.cmdDone (s : State) (c : Command) : Option State :=
  (s.entryDone c.ring c.entry).map fun s => { s with sched := { s.sched with cmds := s.sched.cmds.filter fun x => x.id != c.id } }

/-- A FENCE of a ring before which no command of the ring is pending (R304). -/
def State.fenceDue (s : State) (ring : Nat) : Option Command :=
  match s.sched.cmds.find? fun c => c.ring == ring with
  | some c => if c.fence then some c else none
  | none => none

/-- The FENCEs that can complete do so. -/
def State.finishFences (ring : Nat) : Nat → State → Option State
  | 0, s => some s
  | n + 1, s =>
    match s.fenceDue ring with
    | some c => (s.cmdDone c).bind (State.finishFences ring n)
    | none => some s

/-- A command completes, and with it the FENCEs that waited for it. -/
def State.finishCmd (s : State) (id : Nat) : Option State :=
  match s.cmd? id with
  | some c => (s.cmdDone c).bind fun s => State.finishFences c.ring s.sched.cmds.length s
  | none => some s

/-! ### The stream table (R286) -/

/-- A stream's entry. -/
def State.stream (s : State) (i : Nat) : Stream := s.sched.streams.getD i ⟨List.replicate 16 0, none, false⟩

/-- Doubleword i of an entry. -/
def Stream.at (t : Stream) (i : Nat) : Word := t.dw.getD i 0

/-- STATE. -/
def Stream.state (t : Stream) : Nat := fld (t.at 0) 62 2
/-- RGN. -/
def Stream.region (t : Stream) : Nat := fld (t.at 0) 59 3
/-- RUNG. -/
def Stream.rung (t : Stream) : Nat := fld (t.at 0) 52 3
/-- NRM1. -/
def Stream.nrm1 (t : Stream) : Nat := fld (t.at 0) 49 3
/-- FCLU. -/
def Stream.fclu (t : Stream) : Nat := fld (t.at 0) 45 4
/-- FNUM. -/
def Stream.fnum (t : Stream) : BitVec 32 := (t.at 0).setWidth 32

/-- A field of a word replaced. -/
def putField (x : Word) (lo len v : Nat) : Word :=
  let mask : Word := BitVec.ofNat 64 ((2 ^ len - 1) * 2 ^ lo)
  (x &&& ~~~mask) ||| (BitVec.ofNat 64 (v * 2 ^ lo) &&& mask)

/-- A field of an entry replaced. -/
def Stream.put (t : Stream) (i lo len v : Nat) : Stream := { t with dw := t.dw.set i (putField (t.at i) lo len v) }

/-- The stream table takes the entry of stream i as the scheduler holds it; while its home takes no write the entry
stays to be written, and a write that faults is lost (R286, log 49). -/
def State.writeStream (s : State) (i : Nat) : State :=
  let x := ((s.stream i).dw.zipIdx.map fun (d, j) => d.toNat * 2 ^ (64 * j)).sum
  let rest := s.sched.stale.filter fun j => j != i
  match s.mem.devWrite (fld s.sched.stbase 0 48 + 128 * i) 128 x with
  | (m, .go _ _) => { s with mem := m, sched := { s.sched with stale := rest } }
  | (m, .fault _) => { s with mem := m, sched := { s.sched with stale := rest } }
  | (_, .wait) => { s with sched := { s.sched with stale := rest ++ [i] } }

/-- A stream's entry is changed, in the scheduler and in the stream table (log 49). -/
def State.putStream (s : State) (i : Nat) (t : Stream) : State :=
  ({ s with sched := { s.sched with streams := s.sched.streams.set i t } } : State).writeStream i

/-! ### Holds of handoff queues (R301) -/

/-- The entries of a queue are discarded; its reserve entry is free again (R409). -/
def Handoff.clear (h : Handoff) : Handoff := { h with ents := [], reserve := false, granted := false }

/-- The ports that a frame holds become free; their entries are discarded where the rule says so. -/
def State.releaseHolds (s : State) (clu g : Nat) (port : Nat → Bool) (discard : Bool) : State :=
  s.modCluster clu fun c =>
    { c with hq := c.hq.mapIdx fun i q =>
        if port i ∧ (q.held.map Prod.fst) = some g then { (if discard then q.clear else q) with held := none } else q }

/-! ### Nodes (R289 to R292, R300, R301) -/

/-- FINAL, FIN and STEPEND of a node record (R289). -/
def NodeInst.isFinal (n : NodeInst) : Bool := bit (n.recd.getD 0 0) 59
/-- FIN. -/
def NodeInst.isFin (n : NodeInst) : Bool := bit (n.recd.getD 0 0) 58
/-- STEPEND. -/
def NodeInst.isStepEnd (n : NodeInst) : Bool := bit (n.recd.getD 0 0) 57

/-- A node that will not run any more. -/
def NodeInst.over (n : NodeInst) : Bool := n.phase == .done || n.phase == .dropped

/-- A node becomes ready once its predecessors have completed and nothing else holds it (R289, R292). -/
def NodeInst.settle (n : NodeInst) (now : Word) : NodeInst :=
  if n.phase = .waiting ∧ n.preds = 0 ∧ n.waits = [] then { n with phase := .ready, readyAt := now } else n

/-- The nodes of an instance after node i has completed. -/
def GraphInst.complete (g : GraphInst) (i : Nat) (now : Word) : GraphInst :=
  let succ := match g.nodes[i]? with | some n => n.succ | none => []
  let old := match g.nodes[i]? with | some n => n.old | none => false
  { g with nodes := g.nodes.mapIdx fun j n =>
      let n : NodeInst := if j = i then { n with phase := .done } else n
      let n : NodeInst := if n.old = old then { n with preds := n.preds - succ.count j } else n
      NodeInst.settle { n with waits := n.waits.filter fun w => w != i } now }

/-- An instance is forgotten. -/
def State.dropGraph (s : State) (id : Nat) : State :=
  { s with sched := { s.sched with graphs := s.sched.graphs.filter fun g => g.id != id } }

/-- A CLOSING stream without a frame in flight closes, and its SCLOSE completes (R294, R304). -/
def State.closeStream (s : State) (i : Nat) : Option State :=
  let t := s.stream i
  if t.state ≠ 2 ∨ (s.sched.graphs.any fun g => g.stream == some i) then some s
  else
    let s := s.putStream i ({ t with closer := none }.put 0 62 2 0)
    match t.closer with
    | some c => s.finishCmd c
    | none => some s

/-- A frame completes: the system-scope release of what its jobs wrote, the signal word, the interrupt (R288, R302,
R306, R406). -/
def State.frameDone (s : State) (g : GraphInst) (i : Nat) : Option State :=
  let t := s.stream i
  let late := decide (g.deadline.toNat < s.now.toNat)
  let s := s.releaseHolds t.fclu g.id (fun _ => true) false
  let s := if late then (s.putStream i (t.put 9 0 32 (fld (t.at 9) 0 32 + 1))).logFailure t.region 4 0 (some i) g.fnum 0 else s
  ((s.readOwners g.fwd).signal (fld (t.at 7) 0 48) t.region (some i) g.fnum).bind fun s =>
    let s := if bit (t.at 7) 59 then s.irq (fld (t.at 7) 48 11) else s
    (s.dropGraph g.id).closeStream i

/-- An instance whose nodes are all over completes (R288, R304, R306). -/
def State.graphCheck (s : State) (id : Nat) : Option State :=
  match s.graph? id with
  | none => some s
  | some g =>
    if g.nodes.all NodeInst.over then
      match g.stream, g.cmd with
      | some i, _ => s.frameDone g i
      | none, some c => ((s.readOwners g.fwd).dropGraph id).finishCmd c
      | none, none => some (s.dropGraph id)
    else some s

/-- A node completes (R289, R292, R301): the end of FIN frees the ports of its frame, and the completion
of a STEPEND node of the present template is a step boundary, evaluated next. -/
def State.nodeDone (s : State) (g n : Nat) : Option State :=
  match s.graph? g with
  | none => some s
  | some gi =>
    match gi.nodes[n]? with
    | none => some s
    | some nd =>
      let s := s.modGraph g fun x => x.complete n s.now
      let clu := match gi.stream with | some i => (s.stream i).fclu | none => 0
      let s := if nd.isFin then
          (s.releaseHolds clu g (fun i => decide (14 ≤ i)) true).releaseHolds clu g (fun _ => true) false
        else s
      if nd.isStepEnd && !nd.old && gi.stream.isSome then
        some { s with sched := { s.sched with boundaries := s.sched.boundaries ++ [(g, n)] } }
      else s.graphCheck g

/-- A node none of whose members is live any more: it completes, or with saved ones is in the ready pool again
(R36). -/
def State.membersLeft (s : State) (g n : Nat) : Option State :=
  match (s.graph? g).bind fun x => x.nodes[n]? with
  | some nd =>
    if nd.live ≠ 0 then some s
    else if nd.saved = [] then s.nodeDone g n
    else some (s.modNode g n fun x => if x.phase = .saved then x else { x with phase := .saved, readyAt := s.now })
  | none => some s

/-- A member of a node has ended: the node completes with its last one. -/
def State.memberEnded (s : State) (g n : Nat) : Option State :=
  (s.modNode g n fun x => { x with live := x.live - 1 }).membersLeft g n

/-! ### The end of a job (R33, R276, R301, R358) -/

/-- A core without its job: operations that go on (enc) keep what they need of it (R301). -/
def Core.free (c : Core) : Core :=
  let desc := match c.job with | some j => j.desc | none => []
  { c with
    prts := List.replicate 12 .empty, xfly := [], cancel := false, locked := 0, lpend := 0, lwait := 0, lleave := 0,
    lockGo := false, late := [], mxUsed := 0, mxFly0 := [], xfly0 := [], refill := none, refillFault := [], prefs := [],
    helper := none, job := none, ringValid := 0, dbg := false, ftbReload := false, engFwd := 0,
    ops := c.ops.map fun o => if o.left.isNone then { o with left := some (c.sh.ftb, desc) } else o }

/-- Operations that the job of a core has outstanding. -/
def Core.jobOps (c : Core) : List EngineOp := c.ops.filter fun o => o.left.isNone

/-- Whether a job has ended (R33). -/
def Core.drained (c : Core) : Bool :=
  let mask := match c.job with | some j => descMask j.desc | none => 0
  (List.range 12).all (fun p => !mask.getLsbD p || (c.prt p).joined) &&
    c.prts.all (fun q => q.fly.isEmpty && q.mops.isEmpty) && c.jobOps.isEmpty && c.late.isEmpty && c.xfly.isEmpty

/-- Ports to which parties of a job have forwarded writes since their last system-scope release (R267, R279). -/
def Core.forwarded (c : Core) : BitVec 4 := c.prts.foldl (fun n q => n ||| q.fwd) c.engFwd

/-- The tile operands of a node, of 16 bytes each, and the IA of its slot (R284, R290). A record that cannot be read
counts as absent (log 123). -/
def State.tileRecs (s : State) (x : GraphInst) (y : NodeInst) : EngAns (Nat × List (List Byte)) :=
  (s.fetchIa (fld s.sched.slotbase 0 48 + 64 * x.slot) 8).bind fun s b =>
    let sia := fld (blockDw b 0) 0 48
    let top := fld (y.recd.getD 4 0) 0 32
    (List.range (fld (y.recd.getD 4 0) 32 16)).foldl (fun acc i =>
      acc.bind fun s (sia, rs) =>
        match s.fetchIa (sia + top + 16 * i) 16 with
        | .ok s r => .ok s (sia, rs ++ [r])
        | .fault s _ _ => .ok s (sia, rs)
        | .wait => .wait) (.ok s (sia, []))

/-- Whether a node has a tile operand with SYS; the release is made for the node as a whole. -/
def State.nodeSys (s : State) (g n : Nat) : EngAns Bool :=
  match (s.graph? g).bind fun x => (x.nodes[n]?).map fun y => (x, y) with
  | none => .ok s false
  | some (x, y) => (s.tileRecs x y).bind fun s r => .ok s (r.2.any fun b => bit (blockDw b 0) 57)

/-- The core of a job that has ended is freed; what the job has forwarded is remembered for its frame's or command's
release (R306). -/
def State.leaveCore (s : State) (k inst : Nat) : State :=
  (s.noteForwards inst (s.core k).forwarded).chargeTraffic.modCore k Core.free

/-- The system-scope release that a SYS operand of its node asks for at the end of the job of core k (R290); none while a
home holds a read. -/
def State.releaseSys (s : State) (g n : Nat) (ports : BitVec 4) : Option State :=
  match s.nodeSys g n with
  | .wait => none
  | .ok s true => some (s.readOwners ports)
  | .ok s false => some s
  | .fault s _ _ => some s

/-- JOB_END: the release of the job boundary, and the core is freed (R33, R276). -/
def State.jobEnd? (s : State) (k : Nat) : Option State :=
  match (s.core k).job with
  | none => none
  | some j =>
    if (j.phase == .running || j.phase == .preempting) && (s.core k).drained then
      (s.releaseSys j.inst j.node (s.core k).forwarded).bind fun s => (s.leaveCore k j.inst).memberEnded j.inst j.node
    else none

/-- JOB_END; nothing happens while the job has not ended. -/
def State.jobEnd (s : State) (k : Nat) : State := (s.jobEnd? k).getD s

/-- Nodes of an instance that are over without having been dispatched. -/
def State.skipNode (s : State) (g n : Nat) : State :=
  s.modGraph g fun x => x.complete n s.now

/-- The end of a FINAL job by firmware (R301): the FIN node of its frame is taken as ended, and the
entries of the ports that the frame holds are discarded. -/
def State.endFinal (s : State) (g n : Nat) : State :=
  match (s.graph? g).bind fun x => (x.nodes[n]?).map fun y => (x, y) with
  | none => s
  | some (x, y) =>
    if y.isFinal then
      let clu := match x.stream with | some i => (s.stream i).fclu | none => 0
      let s := s.releaseHolds clu g (fun i => decide (i < 14)) true
      let fins := (x.nodes.zipIdx.filter fun m => m.1.isFin && (m.1.phase == .waiting || m.1.phase == .ready)).map Prod.snd
      fins.foldl (fun s i => s.skipNode g i) s
    else s

/-- The end of a FIN job by firmware discards the entries of hq14 and hq15 (R301). -/
def State.endFin (s : State) (k : Nat) (hasEnc : Bool) : State :=
  if hasEnc then s.modCluster (cluOf k) fun c => { c with hq := c.hq.mapIdx fun i q => if 14 ≤ i then q.clear else q }
  else s

/-- Memory effects that a job still owes when it is ended: its stores and atomics are performed, in queue order
(R276), and the commands behind them are forked (R273). No answer while one of them is held, or has to be. -/
def State.flushStores (s : State) (k p : Nat) : Option State :=
  (((s.core k).prt p).mops).foldl (fun acc o =>
    acc.bind fun s =>
      let did (t : Option State) : Option State :=
        t.bind fun t => if ((t.core k).prt p).mops.any fun x => x.id == o.id then none else some t
      match o.kind with
      | .store => if o.held then none else did (s.performStore k p o)
      | .amo => if o.held then none else did (s.performAmo k p o)
      | .mark sc => some (s.performMark k p o sc)
      | .fork id => some (s.performFork k p o id)
      | _ => some (s.modPrt k p fun q => q.dropMop o.id)) (some s)

/-- The stores of every partition of a core are performed. -/
def State.flushAll (s : State) (k : Nat) : Option State :=
  (List.range 12).foldl (fun acc p => acc.bind fun s => s.flushStores k p) (some s)

/-- Firmware ends the job of core k without join (R358, R405): the releases of R33 and R290, a JOBEND record with
the trap cause that led to it, and the member counts as ended. Operations but enc have completed. -/
def State.endLive? (s : State) (k : Nat) (cause : Nat) : Option State :=
  match (s.core k).job with
  | none => none
  | some j =>
    if (s.core k).jobOps.any fun o => o.op != .enc then none
    else
      ((s.flushAll k).bind fun s => s.releaseSys j.inst j.node (s.core k).forwarded).bind fun s =>
        let s := s.endFin k ((s.core k).jobOps.any fun o => o.op == .enc)
        let s := s.logJob j.desc j.inst 3 cause
        let s := s.endFinal j.inst j.node
        let s := s.modNode j.inst j.node fun n => { n with saved := n.saved.filter fun x => descJob x.desc != descJob j.desc }
        (s.leaveCore k j.inst).memberEnded j.inst j.node

/-- Cores on which a saved job has an enc outstanding (R301). -/
def State.encCores (s : State) (job : BitVec 32) : List Nat :=
  (List.range 128).filter fun k => (s.core k).ops.any fun o => o.op == .enc && o.job == job

/-- Ports to which parties of a saved job have forwarded writes since their last system-scope release. -/
def SavedJob.forwarded (j : SavedJob) : BitVec 4 := j.parts.foldl (fun n b => n ||| b.fwd) j.engFwd

/-- A saved job is dropped with the same report and the release of its SYS operands (R290, R301, R358). -/
def State.endSaved (s : State) (g n i : Nat) (j : SavedJob) (cause : Nat) : Option State :=
  (s.releaseSys g n j.forwarded).bind fun s =>
  let s := (s.encCores (descJob j.desc)).foldl (fun s k => s.endFin k true) s
  let s := s.logJob j.desc g 3 cause
  let s := s.endFinal g n
  (s.modNode g n fun x => { x with saved := x.saved.eraseIdx i }).membersLeft g n

end Sys2Proof.Machine
end

