-- ==== Sys2Proof/Machine/Image.lean ====
section
/-! DEFINITION. The Rucksack image: how the state of a stopped job is laid out in bytes, and read back
(R50, R51, R53, R118, R183, R229, R348 to R350). -/

namespace Sys2Proof.Machine

/-- Bytes at an offset from RUCK. -/
abbrev Piece := Nat × List Byte

/-- n zero bytes. -/
def zeros (n : Nat) : List Byte := List.replicate n 0

/-- Bytes cut or filled with zeros to a length. -/
def padTo (n : Nat) (bs : List Byte) : List Byte := (bs ++ zeros (n - bs.length)).take n

/-- Doublewords as bytes (R8). -/
def dwBytes (ws : List Word) : List Byte := ws.flatMap fun w => natBytes 8 w.toNat

/-- n bytes of a list from a place, as a number. -/
def natAt (bs : List Byte) (pos n : Nat) : Nat := bytesNat ((bs.drop pos).take n)

/-- The doubleword at a place of a list. -/
def dwAt (bs : List Byte) (pos : Nat) : Word := BitVec.ofNat 64 (natAt bs pos 8)

/-! ### The header (R50) -/

/-- A partition is frozen in the locked group. -/
def Core.freezes (c : Core) : Bool := c.locked != 0

/-- The first 256 bytes of an image. -/
def imageHeader (c : Core) (desc : List Word) (hard : Bool) (nlines : Nat) : List Byte :=
  let d0 := desc.getD 0 0
  padTo 256 (dwBytes
    [bitAt 55 (decide (c.ringValid ≠ 0)) ||| bitAt 54 c.freezes ||| bitAt 53 hard ||| at' 52 (fld d0 44 1) |||
        at' 40 (fld d0 32 12) ||| at' 32 1 ||| at' 0 0x4B525341,
      at' 48 c.lpend.toNat ||| at' 32 c.locked.toNat ||| at' 0 (fld d0 0 32),
      c.sh.scnt, at' 0 nlines, c.evseq.setWidth 64])

/-- The checks of a header at resumption (R52): MAGIC, VER, JOBID, PMASK and KIND. -/
def headerOk (bs : List Byte) (desc : List Word) : Bool :=
  let h := dwAt bs 0
  let d0 := desc.getD 0 0
  fld h 0 32 == 0x4B525341 && fld h 32 8 == 1 && fld (dwAt bs 8) 0 32 == fld d0 0 32 && fld h 40 12 == fld d0 32 12 &&
    fld h 52 1 == fld d0 44 1

/-! ### Partition control blocks (R50, R183) -/

/-- The code of a stop kind. -/
def StopKind.code : StopKind → Nat
  | .boundary => 0
  | .loop => 1
  | .wait => 2
  | .joined => 3
  | .frozen => 4
  | .hard => 5
  | .rendezvous => 6

/-- The stop kind with which a partition is saved: a trapped one as at a wait (R358). -/
def Partition.stopKind (q : Partition) : StopKind :=
  if q.started = false then .boundary
  else if q.joined then .joined
  else
    match q.stop, q.trap with
    | some .hard, _ => .hard
    | _, some _ => .wait
    | some k, none => k
    | none, none => .boundary

/-- The resume PC, as a parcel index: a trapped group's, that of the restart, or the target of a transfer beyond every
store (R375). -/
def Partition.resumePc (q : Partition) : Nat :=
  match q.stopKind, q.trap, q.far with
  | .hard, _, _ => q.rgnPc.toNat
  | _, some t, _ => t.pc.toNat
  | _, none, some x => x.toNat
  | _, none, none => q.pc.toNat

/-- The loop engine's 64 bytes (R183): J is zero after a soft stop that is not a frozen group's, and so is the number
of words of its pass after any other stop. -/
def loopBytes (l : LoopState) (kind : StopKind) : List Byte :=
  padTo 64 (natBytes 4 l.n.toNat ++ natBytes 4 (if kind = .frozen ∨ kind = .hard then l.j.toNat else 0) ++ natBytes 4 l.ibase.toNat ++
    natBytes 4 l.nst.toNat ++ natBytes 4 (l.len.toNat + l.stages.toNat * 2 ^ 16 + (if l.active then 2 ^ 31 else 0)) ++
    natBytes 4 (4 * l.body.toNat) ++ natBytes 4 (if kind = .frozen then l.issued else 0))

/-- The loop engine that 64 bytes give. -/
def loopOf (bs : List Byte) : LoopState :=
  let x := natAt bs 16 4
  ⟨decide (2 ^ 31 ≤ x), BitVec.ofNat 32 (natAt bs 0 4), BitVec.ofNat 33 (natAt bs 4 4), BitVec.ofNat 32 (natAt bs 8 4),
    BitVec.ofNat 32 (natAt bs 12 4), BitVec.ofNat 9 (x % 512), BitVec.ofNat 4 (x / 2 ^ 16 % 16),
    BitVec.ofNat 13 (natAt bs 20 4 / 4), natAt bs 24 4⟩

/-- A list of bits as a number, the first lowest. -/
def bitsNat (l : List Bool) : Nat := l.foldr (fun b n => (if b then 1 else 0) + 2 * n) 0

/-- The partition control block of partition p. -/
def pcbBytes (c : Core) (p : Nat) : List Byte :=
  let q := c.prt p
  let head := natBytes 4 (4 * q.resumePc) ++ natBytes 4 q.stopKind.code ++ natBytes 4 (c.sh.rsc.getD p 0).toNat ++
    natBytes 4 (q.preds.toNat / 2 * 2 + 1)
  let regs := dwBytes ([q.rgnaddr, at' 2 q.rah.toNat] ++ q.bt.map (fun b => at' 2 b.toNat) ++ [q.fpcsr, q.padv, q.mxpad, q.kvpad, q.kvpos])
  let stack := dwBytes [at' 0 q.stack.length] ++ padTo 64 (q.stack.flatMap fun x => natBytes 4 x.toNat)
  head ++ regs ++ stack ++ loopBytes q.loop q.stopKind ++ natBytes 4 (bitsNat (q.xi.map Slot.psn)) ++
    natBytes 4 ((if q.lcol then 2 ^ 15 else 0) + (if q.xcol then 2 ^ 14 else 0)) ++ zeros 8

/-- A partition as its control block gives it; reserved bits of a register read zero whatever the image holds (R11). -/
def Partition.readPcb (q : Partition) (bs : List Byte) : Partition :=
  let rg := dwAt bs 0x10
  let fp := dwAt bs 0x40
  let x := natAt bs 0xF4 4
  { q with
    pc := BitVec.ofNat 13 (natAt bs 0 4 / 4), preds := BitVec.ofNat 16 (natAt bs 12 2), rgnPc := BitVec.ofNat 13 (fld rg 2 13),
    rgnWrem := BitVec.ofNat 9 (fld rg 32 9), rah := BitVec.ofNat 13 (natAt bs 0x18 4 / 4),
    bt := (List.range 4).map fun i => BitVec.ofNat 13 (natAt bs (0x20 + 8 * i) 4 / 4),
    rm := BitVec.ofNat 2 (fld fp 8 2), fpf := BitVec.ofNat 5 (fld fp 0 5), padv := dwAt bs 0x48,
    mxpad := dwAt bs 0x50 &&& mxpadMask,
    kvpad := dwAt bs 0x58 &&& kvpadMask, kvpos := dwAt bs 0x60 &&& kvposMask,
    stack := (List.range (min 16 (natAt bs 0x68 1 % 32))).map fun i => BitVec.ofNat 15 (natAt bs (0x70 + 4 * i) 4),
    loop := loopOf (bs.drop 0xB0), lcol := x / 2 ^ 15 % 2 == 1, xcol := x / 2 ^ 14 % 2 == 1 }

/-! ### Unit records (R348 to R350) -/

/-- The unit records of an area: units in ascending id, macros in ascending index. -/
def recordKeys (x : Ctx) : List (UnitName × BitVec 3) :=
  ((List.range 64).filterMap fun i => x.unitOf (BitVec.ofNat 6 i)).flatMap fun u =>
    if u = .mx then (List.range x.macroCount).map fun m => (u, BitVec.ofNat 3 m) else [(u, 0)]

/-- Port i, for i = 0 to 2. -/
def portOf (i : Nat) : PortSel := if i = 0 then .o1 else if i = 1 then .o2 else .o3

/-- Latch i - 3, for i = 3 to 5. -/
def latchOf (i : Nat) : LatchSel := if i = 3 then .res else if i = 4 then .res1 else .flag

/-- Whether value i of a unit, o1, o2, o3, res, res1, flag, stands in its record of partition p's area
(R348). -/
def valueHere (p : Nat) (u : UnitName) (m : BitVec 3) (i : Nat) : Bool :=
  if i < 3 then u.hasPort (portOf i) && (u != .mx || m == 0) else u.hasLatch (latchOf i) && (u != .mx || p == 9)

/-- Bytes of value i. -/
def valueWidth (p : Nat) (u : UnitName) (i : Nat) : Nat :=
  if i < 3 then portWidth (prtWidth p) u (portOf i) else latchWidth (prtWidth p) u

/-- The values of a record, in its order. -/
def recordValues (p : Nat) (u : UnitName) (m : BitVec 3) : List Nat := (List.range 6).filter (valueHere p u m)

/-- Value i of a unit's ports and latches. -/
def UnitRegs.value (r : UnitRegs) (i : Nat) : Slot := if i < 3 then r.port (portOf i) else r.latch (latchOf i)

/-- Value i replaced. -/
def UnitRegs.setValue (r : UnitRegs) (i : Nat) (x : Slot) : UnitRegs :=
  match i with
  | 0 => { r with o1 := x }
  | 1 => { r with o2 := x }
  | 2 => { r with o3 := x }
  | 3 => { r with res := x }
  | 4 => { r with res1 := x }
  | _ => { r with flag := x }

/-- The ports and latches that a record holds: for mx the ports of the partition and the latches of the
macro (R226). -/
def Core.recordRegs (c : Core) (p : Nat) (u : UnitName) (m : BitVec 3) : UnitRegs :=
  let r := (c.prt p).unit u
  if u = .mx then
    let x := c.sh.cim m
    { r with res := x.res, res1 := x.res1, flag := x.flag }
  else r

/-- The hold entries of a record, oldest first. -/
def Core.recordHolds (c : Core) (p : Nat) (u : UnitName) (m : BitVec 3) : List Fly :=
  (c.prt p).fly.filter fun f => f.unit == u && f.mac == m

/-- Latches that a result in flight writes. -/
def Fly.values (f : Fly) : List Slot := [f.res, f.res1, f.flag].filterMap id

/-- WR of a hold entry. -/
def Fly.wr (f : Fly) : Nat := bitsNat [f.res.isSome, f.res1.isSome, f.flag.isSome]

/-- A hold entry as bytes (R350). A poisoned bld block has bit 49 set (log 19). -/
def holdBytes (w : Nat) (f : Fly) : List Byte :=
  let psn := bitsNat (f.values.map Slot.psn)
  let base := at' 56 f.rem ||| bitAt 55 f.sb ||| at' 52 f.wr ||| at' 49 psn
  let vals := f.values.flatMap fun s => natBytes w s.bits.toNat
  match f.eff with
  | .none => dwBytes [base, 0] ++ vals
  | .bld pl j _ cells eq bad =>
    dwBytes [base ||| bitAt 48 true ||| bitAt 49 bad, at' 48 j.toNat ||| bitAt 51 pl] ++ vals ++ padTo 8192 cells ++ padTo 1024 eq
  | .kvap ka va key val =>
    dwBytes [base ||| bitAt 47 true, 0] ++ vals ++ dwBytes [at' 32 va.toNat ||| at' 0 ka.toNat, 0] ++ padTo 256 key ++ padTo 256 val
  | .kvfrq n data => dwBytes [base ||| bitAt 46 true ||| at' 44 n.toNat, 0] ++ vals ++ padTo 512 (freqBytes data)

/-- What a hold entry leaves out (log 19). -/
def Fly.aside (f : Fly) : HoldAside :=
  ⟨f.seq, f.fpf, f.sec, match f.eff with | .bld _ _ fmt _ _ _ => fmt.toNat | .kvap _ _ key _ => key.length | _ => 0⟩

/-- IVL of a record (R348): of the partition whose cycles count it. -/
def Core.recordIvl (c : Core) (p : Nat) (u : UnitName) (m : BitVec 3) : Nat :=
  let i := (c.sh.cim m).ivl
  if u = .mx ∧ i.on ∧ i.prt = p then i.left else 0

/-- The head of a unit record (R349). -/
def recordHead (c : Core) (x : Ctx) (p : Nat) (u : UnitName) (m : BitVec 3) : List Byte :=
  let r := c.recordRegs p u m
  let psn := bitsNat ((List.range 6).map fun i => valueHere p u m i && (r.value i).psn)
  let tr : Word := if u = .br then
      match (c.prt p).transfer with
      | some t => at' 32 t.delay ||| at' 2 t.target.toNat
      | none => 0
    else 0
  dwBytes
    [at' 58 ((x.unitId u).getD 0).toNat ||| at' 55 m.toNat ||| at' 48 (c.recordHolds p u m).length ||| at' 40 (c.recordIvl p u m) ||| tr,
      if u = .mx then at' 16 psn ||| (if p = 9 then (c.sh.cim m).pblk.setWidth 64 else 0) else at' 0 psn]

/-- A unit record (R349). -/
def recordBytes (c : Core) (x : Ctx) (p : Nat) (u : UnitName) (m : BitVec 3) : List Byte :=
  let r := c.recordRegs p u m
  recordHead c x p u m ++ ((recordValues p u m).flatMap fun i => natBytes (valueWidth p u i) (r.value i).bits.toNat) ++
    (c.recordHolds p u m).flatMap (holdBytes (latchWidth (prtWidth p) u))

/-- The records of partition p's area, one after another. -/
def areaBytes (c : Core) (x : Ctx) (p : Nat) : List Byte := (recordKeys x).flatMap fun (u, m) => recordBytes c x p u m

/-- Bytes of a partition's area with its extension (R348). -/
def areaSize (p : Nat) : Nat := 0x8000 + (if p = 9 then 0xC0000 else if p = 10 then 0x60000 else 0)

/-- The offset from RUCK of a place in partition p's area (R348). -/
def areaOffset (p pos : Nat) : Nat :=
  if pos < 0x8000 then 0x1A000 + 0x8000 * p + pos else (if p = 9 then 0x560000 else 0x620000) + (pos - 0x8000)

/-- A partition's area as pieces of the image. -/
def areaPieces (c : Core) (x : Ctx) (p : Nat) : List Piece :=
  let bs := padTo (areaSize p) (areaBytes c x p)
  if areaSize p = 0x8000 then [(areaOffset p 0, bs)] else [(areaOffset p 0, bs.take 0x8000), (areaOffset p 0x8000, bs.drop 0x8000)]

/-! ### Reading unit records -/

/-- Bytes of a hold entry, from its head. -/
def holdSize (w : Nat) (d : Word) : Nat :=
  16 + w * (fld d 52 1 + fld d 53 1 + fld d 54 1) + (if bit d 48 then 9216 else 0) + (if bit d 47 then 528 else 0) + (if bit d 46 then 512 else 0)

/-- The places of n hold entries from a place on. -/
def holdPlaces (bs : List Byte) (w : Nat) : Nat → Nat → List Nat
  | 0, _ => []
  | n + 1, pos => pos :: holdPlaces bs w n (pos + holdSize w (dwAt bs pos))

/-- A unit record in an area: unit, macro, the places of its head, values and hold entries. -/
structure RecordPlace where
  u : UnitName
  m : BitVec 3
  head : Nat
  vals : List (Nat × Nat)
  holds : List Nat
deriving DecidableEq, Repr

/-- The places of values one after another. -/
def valuePlaces (p : Nat) (u : UnitName) : List Nat → Nat → List (Nat × Nat)
  | [], _ => []
  | i :: is, pos => (i, pos) :: valuePlaces p u is (pos + valueWidth p u i)

/-- Bytes of values. -/
def valuesSize (p : Nat) (u : UnitName) (is : List Nat) : Nat := (is.map (valueWidth p u)).sum

/-- The records of an area, found one after another. -/
def recordPlaces (p : Nat) (bs : List Byte) : List (UnitName × BitVec 3) → Nat → List RecordPlace
  | [], _ => []
  | (u, m) :: ks, pos =>
    let is := recordValues p u m
    let h0 := pos + 16 + valuesSize p u is
    let w := latchWidth (prtWidth p) u
    let hs := holdPlaces bs w (fld (dwAt bs pos) 48 7) h0
    let stop := match hs.getLast? with | some h => h + holdSize w (dwAt bs h) | none => h0
    ⟨u, m, pos, valuePlaces p u is (pos + 16), hs⟩ :: recordPlaces p bs ks stop

/-- The latches that a hold entry writes: index of the value among o1 to flag, place in the entry. -/
def holdValues (w : Nat) (d : Word) : List (Nat × Nat) :=
  ((List.range 3).filter fun i => bit d (52 + i)).zipIdx.map fun (i, n) => (3 + i, 16 + w * n)

/-- A value of n bytes with its poison bit. -/
def slotAt (bs : List Byte) (pos n : Nat) (psn : Bool) : Slot := ⟨BitVec.ofNat 8192 (natAt bs pos n), psn, false⟩

/-- The hold entry at a place (R350). -/
def holdAt (bs : List Byte) (w : Nat) (u : UnitName) (m : BitVec 3) (pos : Nat) (a : HoldAside) : Fly :=
  let d := dwAt bs pos
  let vs := (holdValues w d).zipIdx.map fun ((i, off), n) => (i, slotAt bs (pos + off) w (bit d (49 + n)))
  let get (i : Nat) : Option Slot := (vs.find? fun v => v.1 == i).map Prod.snd
  let x := pos + 16 + w * vs.length
  let eff : FlyEffect :=
    if bit d 48 then
      let e := dwAt bs (pos + 8)
      .bld (bit e 51) (BitVec.ofNat 3 (fld e 48 3)) (BitVec.ofNat 4 a.aux) ((bs.drop x).take 8192) ((bs.drop (x + 8192)).take 1024) (bit d 49)
    else if bit d 47 then
      let e := dwAt bs x
      .kvap (BitVec.ofNat 20 (fld e 0 20)) (BitVec.ofNat 20 (fld e 32 20)) ((bs.drop (x + 16)).take a.aux) ((bs.drop (x + 272)).take a.aux)
    else if bit d 46 then .kvfrq (BitVec.ofNat 2 (fld d 44 2)) (freqBytes ((bs.drop x).take 512))
    else .none
  ⟨a.seq, u, m, fld d 56 8, bit d 55, bit d 55, get 3, get 4, get 5, a.fpf, eff, a.sec⟩

/-- The ports and latches of a record. -/
def RecordPlace.regs (r : RecordPlace) (p : Nat) (bs : List Byte) (old : UnitRegs) : UnitRegs :=
  let d := dwAt bs (r.head + 8)
  let b := if r.u = .mx then 16 else 0
  r.vals.foldl (fun x (i, pos) => x.setValue i (slotAt bs pos (valueWidth p r.u i) (bit d (b + i)))) old

/-- Ports, latches, PBLK and interval of a record go back to their unit. -/
def Core.readRecord (c : Core) (p : Nat) (bs : List Byte) (r : RecordPlace) : Core :=
  let d := dwAt bs r.head
  let regs := r.regs p bs (c.recordRegs p r.u r.m)
  let c := c.modPrt p fun q => { q with
    units := (q.setUnit r.u (if r.u = .mx ∧ r.m ≠ 0 then q.unit .mx else { regs with res := (q.unit r.u).res, res1 := (q.unit r.u).res1, flag := (q.unit r.u).flag })).units }
  if r.u = .mx then
    c.modSh fun h => h.modCim r.m fun x =>
      let x := if p = 9 then { x with res := regs.res, res1 := regs.res1, flag := regs.flag, pblk := BitVec.ofNat 16 (fld (dwAt bs (r.head + 8)) 0 16) } else x
      if fld d 40 8 = 0 then x else { x with ivl := ⟨true, fld d 40 8, p⟩ }
  else
    c.modPrt p fun q =>
      let q := q.setUnit r.u regs
      if r.u = .br ∧ fld d 32 3 ≠ 0 then { q with transfer := some ⟨BitVec.ofNat 13 (fld d 2 13), fld d 32 3⟩ } else q

/-- The hold entries of an area, in the order of the image. -/
def areaHolds (p : Nat) (bs : List Byte) (rs : List RecordPlace) (hs : List HoldAside) : List Fly :=
  ((rs.flatMap fun r => r.holds.map fun h => (r, h)).zipIdx).map fun ((r, h), n) =>
    holdAt bs (latchWidth (prtWidth p) r.u) r.u r.m h (hs.getD n ⟨n, 0, 0, 0⟩)

/-- Partition p's area goes back to its units. -/
def Core.readArea (c : Core) (x : Ctx) (p : Nat) (bs : List Byte) (hs : List HoldAside) : Core :=
  let rs := recordPlaces p bs (recordKeys x) 0
  let c := rs.foldl (fun c r => c.readRecord p bs r) c
  c.modPrt p fun q => { q with fly := sortBy (fun a b => decide (a.seq ≤ b.seq)) (areaHolds p bs rs hs) }

/-! ### Register space (R51, R348) -/

/-- Whether a view covers a byte of the register space (R70). -/
def viewCovers (v : Word) (a : Nat) : Bool :=
  let w := viewWidth v
  let lim := fld v 42 14
  let st := 4 * fld v 26 16
  let d := a - fld v 0 18
  decide (fld v 0 18 ≤ a) && decide (0 < lim) &&
    if st ≤ w then decide (d < st * (lim - 1) + w) else decide (d / st < lim) && decide (d % st < w)

/-- The views of the started partitions. -/
def Core.startedViews (c : Core) : List Word := c.prts.flatMap fun q => if q.started then q.views.filter fun v => fld v 42 14 != 0 else []

/-- The 192 KiB of the register space: uncovered bytes are open (R51). -/
def regBytes (c : Core) (n : Nat) : List Byte :=
  let vs := c.startedViews
  (List.range regEnd).map fun i => if vs.any (viewCovers · i) then Cells.byte c.sh.reg i else Config.freeByte n i

/-- The poison bitmap of the register space, clean at uncovered bytes. -/
def regPsnBytes (c : Core) : List Byte :=
  let vs := c.startedViews
  (List.range (regEnd / 8)).map fun i =>
    BitVec.ofNat 8 (bitsNat ((List.range 8).map fun j => vs.any (viewCovers · (8 * i + j)) && Cells.byte c.sh.regPsn (8 * i + j) != 0))

/-- Cells of a list of bytes, without those that no view covers (R51). -/
def coveredCells (vs : List Word) (bs : List Byte) : List Host.Cell :=
  (cellsOfBytes 0 bs).filter fun x => vs.any (viewCovers · x.1)

/-- Poison bits of the register space from their bitmap. -/
def psnCells (bs : List Byte) : List Host.Cell :=
  bs.zipIdx.flatMap fun (b, i) => (List.range 8).filterMap fun j => if b.getLsbD j then some (8 * i + j, (1 : Byte)) else none

/-! ### Preserved lines (R51, R118) -/

/-- The slots that a bitmap names, in ascending order. -/
def bitmapSlots (x : Nat) : List Nat := (List.range 8192).filter fun i => x / 2 ^ i % 2 = 1

/-- A preserved-line record. It has no place for poison: of a poisoned piece the bytes are saved, and come back clean
(log 114). -/
def lineRecord (h : Shared) (slot : Nat) : List Byte :=
  natBytes 4 slot ++ natBytes 8 (tagGet h.tags slot).word.toNat ++ zeros 4 ++ natBytes 128 (Cells.nat h.cs (128 * slot) 128)

/-- A preserved line goes back to its slot. -/
def Shared.readLine (h : Shared) (bs : List Byte) : Shared :=
  let slot := natAt bs 0 4 % 8192
  let h := csWrite h (128 * slot) 128 (natAt bs 16 128)
  h.modTag slot fun _ => TagEntry.ofWord (BitVec.ofNat 64 (natAt bs 4 8))

/-! ### Macros and frequency tables (R229) -/

/-- A plane's 72 KiB. -/
def planeBytes (x : Plane) : List Byte := Cells.bytes x.cells 0 65536 ++ Cells.bytes x.eq 0 8192

/-- A macro record up to its last plane. -/
def cimBytes (x : Cim) : List Byte :=
  padTo 256 (dwBytes [x.cfg, at' 0 x.p0.fmt.toNat ||| at' 4 x.p1.fmt.toNat ||| bitAt 8 x.act]) ++ planeBytes x.p0 ++ planeBytes x.p1

/-- A plane from its bytes. -/
def planeOf (fmt : Nat) (bs : List Byte) : Plane := ⟨BitVec.ofNat 4 fmt, cellsOfBytes 0 (bs.take 65536), cellsOfBytes 0 ((bs.drop 65536).take 8192)⟩

/-- A macro from its record. -/
def Cim.readRecord (c : Cim) (bs : List Byte) : Cim :=
  let x := dwAt bs 8
  { c with cfg := dwAt bs 0 &&& cfgMask, act := bit x 8, p0 := planeOf (fld x 0 4) (bs.drop 256), p1 := planeOf (fld x 4 4) (bs.drop (256 + 73728)) }

/-- Bytes of a macro record that are written. -/
def cimSize : Nat := 256 + 2 * 73728

/-! ### Exchanges (R53) -/

/-- The record of an exchange in flight. -/
def exchangeBytes (x : Exchange) : List Byte :=
  dwBytes [at' 12 x.snd ||| bitAt 10 x.val.psn ||| at' 8 x.rem ||| at' 4 x.slot.toNat ||| at' 0 x.rcv, 0] ++ natBytes 1024 x.val.bits.toNat

/-- The exchange of a record. -/
def exchangeOf (bs : List Byte) : Exchange :=
  let d := dwAt bs 0
  let r := fld d 0 4
  ⟨fld d 12 4, r, BitVec.ofNat 3 (fld d 4 3), slotAt bs 16 (prtWidth r) (bit d 10), fld d 8 2, true⟩

/-! ### The whole image -/

/-- The bytes of a value at the partition width in a field of 1 KiB. -/
def wideBytes (p : Nat) (x : Slot) : List Byte := padTo 1024 (natBytes (prtWidth p) x.bits.toNat)

/-- The event queue and EVQSTAT. -/
def evqBytes (h : Shared) : List Byte := padTo 2048 (h.evq.flatMap fun r => natBytes 32 r.nat) ++ natBytes 8 h.evqstat.toNat ++ zeros 1016

/-- A record of the event queue from its 32 bytes. -/
def evRecOf (bs : List Byte) : EvRec := ⟨dwAt bs 0, dwAt bs 8, dwAt bs 16, dwAt bs 24⟩

/-- The image of core k's job, `free` being the counter of free values for the open bytes of the register
space. -/
def imagePieces (c : Core) (k : Nat) (desc : List Word) (hard : Bool) (lines : List Nat) (free : Nat) : List Piece :=
  let n := (ctxOf k 0).macroCount
  [(0, imageHeader c desc hard lines.length),
    (0x100, c.prts.flatMap fun q => dwBytes q.views),
    (0x400, c.sh.sema.flatMap fun x => natBytes 4 (x.val.toNat + (if x.ovf then 65536 else 0))),
    (0x800, (List.range 12).flatMap fun p => pcbBytes c p),
    (0x1400, evqBytes c.sh),
    (0x2000, (List.range 12).flatMap fun p => (c.prt p).ofile.flatMap (wideBytes p)),
    (0x7A000, regBytes c free),
    (0x1CC000, regPsnBytes c)] ++
  lines.zipIdx.map (fun (s, i) => (0xAA000 + 144 * i, lineRecord c.sh s)) ++
  (List.range 12).flatMap (fun p => areaPieces c (ctxOf k p) p) ++
  (List.range n).map (fun m => (0x400000 + 0x28000 * m, cimBytes (c.sh.cim (BitVec.ofNat 3 m)))) ++
  [(0x540000, freqBytes (Cells.bytes (c.prt 9).freq 0 2048)), (0x540800, freqBytes (Cells.bytes (c.prt 10).freq 0 2048)),
    (0x680000, (List.range 12).flatMap fun p => (c.prt p).xi.flatMap (wideBytes p)),
    (0x698000, padTo 16 (natBytes 4 c.xfly.length) ++ c.xfly.flatMap exchangeBytes)]

/-- What is read of an image at resumption. -/
structure Image where
  low : List Byte
  areas : List (List Byte)
  reg : List Byte
  regPsn : List Byte
  lines : List (List Byte)
  macs : List (List Byte)
  freq : List Byte
  xi : List Byte
  flying : List (List Byte)
deriving DecidableEq, Repr

/-- Cut a list into pieces of a size. -/
def pieces (z : Nat) (n : Nat) (bs : List Byte) : List (List Byte) := (List.range n).map fun i => (bs.drop (z * i)).take z

/-- Which values of a partition's operand files, exchange slots and ports were read from the register space
(log 19). -/
def Partition.marks (q : Partition) : List Bool :=
  (q.ofile ++ q.xi ++ q.units.flatMap fun r => [r.o1, r.o2, r.o3]).map Slot.reg

/-- A value with its mark again, if it is still poisoned. -/
def Slot.marked (s : Slot) (b : Bool) : Slot := { s with reg := s.psn && b }

/-- A partition with the marks again. -/
def Partition.marked (q : Partition) (l : List Bool) : Partition :=
  let b (i : Nat) : Bool := l.getD i false
  { q with
    ofile := q.ofile.mapIdx fun i s => s.marked (b i), xi := q.xi.mapIdx fun i s => s.marked (b (8 + i)),
    units := q.units.mapIdx fun i r =>
      { r with o1 := r.o1.marked (b (16 + 3 * i)), o2 := r.o2.marked (b (17 + 3 * i)), o3 := r.o3.marked (b (18 + 3 * i)) } }

/-- What stands beside partition p (log 19). -/
def Partition.beside (q : Partition) (x : Ctx) (c : Core) (p : Nat) : Beside where
  left := q.left
  secs := q.secs
  secNo := q.secNo
  rgnSec := q.rgnSec
  predPsn := q.predPsn
  ofPsn := BitVec.ofNat 8 (bitsNat (q.ofile.map Slot.psn))
  idle := q.idle
  spill := q.spill
  swtrap := q.swtrap
  fwd := q.fwd
  holds := ((recordKeys x).flatMap fun (u, m) => c.recordHolds p u m).map Fly.aside
  marks := q.marks
  far := q.far
  loopJ := q.loop.j
  loopIssued := q.loop.issued
  cause := match q.trap with | some t => t.cause | none => 0

/-- A partition as its image and what stands beside it give it, before its stop kind acts. -/
def Partition.revive (q : Partition) (p : Nat) (im : Image) (b : Beside) : Partition :=
  let pcb := (im.low.drop (0x800 + 256 * p)).take 256
  let file (bs : List Byte) (psn : Nat) : List Slot :=
    (List.range 8).map fun j => slotAt bs (8192 * p + 1024 * j) (prtWidth p) (psn / 2 ^ j % 2 == 1)
  let kind := natAt pcb 4 4
  let q := q.readPcb pcb
  { q with
    loop := if kind = 4 ∨ kind = 5 then q.loop else { q.loop with j := b.loopJ, issued := b.loopIssued },
    far := b.far,
    views := (List.range 8).map fun v => dwAt im.low (0x100 + 64 * p + 8 * v) &&& viewMask,
    ofile := file (im.low.drop 0x2000) b.ofPsn.toNat, xi := file im.xi (natAt pcb 0xF0 1),
    freq := if p = 9 then cellsOfBytes 0 (freqBytes (im.freq.take 2048)) else if p = 10 then cellsOfBytes 0 (freqBytes (im.freq.drop 2048)) else [],
    left := b.left, secs := b.secs, secNo := b.secNo, rgnSec := b.rgnSec, predPsn := b.predPsn, idle := b.idle,
    spill := b.spill, swtrap := b.swtrap, fwd := b.fwd }

/-- Stop kind of partition p in an image. -/
def Image.kind (im : Image) (p : Nat) : Nat := natAt im.low (0x804 + 256 * p) 4

/-- A partition continues by its stop kind (R52): a loop starts again at its first pass, a joined one
stays joined, one at a rendezvous waits there. -/
def Core.continueAs (c : Core) (p kind : Nat) : Core :=
  match kind with
  | 1 => c.modPrt p fun q =>
      if q.loop.n = 0 then { q with loop := .zero }
      else
        let q : Partition := { q with loop := { q.loop with active := true, j := 0, nst := q.loop.n, issued := 0 } }
        q.drivePreds
  | 3 => c.modPrt p fun q => { q with joined := true }
  | 5 => c.restart p
  | 6 => { c with lwait := putBit c.lwait p true }
  | _ => c

/-- All the state of R50, R51 and R53 goes back to core k, whose partitions have been started with their
instruction stores (R52). A partition that is not started has its padding registers, exchange slots, ports and latches
too (R73, R177), and mat0's area holds the latches and PBLK of the macros (R226, R348). -/
def Core.revive (c : Core) (k : Nat) (im : Image) (parts : List Beside) (bivls : List Interval) (ringValid : Nat) (xmarks : List Bool) : Core :=
  let h := dwAt im.low 0
  let h1 := dwAt im.low 8
  let evn := min 64 (natAt im.low 0x1C00 1 % 128)
  let st := dwAt im.low 0x1C00
  let reg : Shared := { c.sh with
    sema := (List.range 256).map fun i => ⟨BitVec.ofNat 16 (natAt im.low (0x400 + 4 * i) 2), natAt im.low (0x402 + 4 * i) 1 % 2 == 1⟩,
    rsc := (List.range 12).map fun p => BitVec.ofNat 32 (natAt im.low (0x808 + 256 * p) 4),
    evq := (List.range evn).map fun i => evRecOf (im.low.drop (0x1400 + 32 * i)),
    evLost := BitVec.ofNat 8 (fld st 16 8), evOvf := bit st 15, scnt := dwAt im.low 0x10,
    cims := (List.range 8).map fun m => match im.macs[m]? with
      | some bs => { (Cim.zero).readRecord bs with bivl := bivls.getD m ⟨false, 0, 0⟩ }
      | none => .zero }
  let c : Core := { c with
    sh := im.lines.foldl Shared.readLine reg, evseq := BitVec.ofNat 32 (natAt im.low 0x20 4), ringValid := ringValid,
    locked := if bit h 54 then BitVec.ofNat 12 (fld h1 32 12) else 0, lpend := BitVec.ofNat 12 (fld h1 48 12),
    xfly := (im.flying.map exchangeOf).mapIdx fun i x => { x with val := x.val.marked (xmarks.getD i false) } }
  let b (p : Nat) : Beside := parts.getD p ⟨0, [], 0, 0, 0, 0, 0, .idle, none, 0, [], [], none, 0, 0, 0⟩
  let c := (List.range 12).foldl (fun c p =>
    ((c.modPrt p fun q => q.revive p im (b p)).readArea (ctxOf k p) p (im.areas.getD p []) (b p).holds).modPrt p fun q =>
      q.marked (b p).marks) c
  let vs := c.startedViews
  let c := c.modSh fun s => { s with reg := coveredCells vs im.reg, regPsn := psnCells im.regPsn }
  let c := (List.range 12).foldl (fun c p => if (c.prt p).started then c.continueAs p (im.kind p) else c) c
  { c with seq := c.prts.foldl (fun n q => q.fly.foldl (fun n f => max n (f.seq + 1)) n) c.seq }

end Sys2Proof.Machine
end

