-- ==== Sys2Proof/Machine/Rucksack.lean ====
section
/-! DEFINITION. Pre-emption, the save and the launch of jobs: stops, hard stops, the write of an image
and its read at resumption, and the start of a fresh job (R31, R32, R48 to R53, R181, R276, R361, R425). -/

namespace Sys2Proof.Machine

/-! ### Requests and stops (R36, R48, R181) -/

/-- The request reaches the partitions: the loop of a decoupled one takes it as an lbrk, and so does that of one at the
lock rendezvous, which stops there with what is left of its loop, and that of one that is trapped, whose loop keeps the
cut (log 113). -/
def Core.requestStop (c : Core) : Core :=
  let c := c.killHelper
  { c with prts := c.prts.mapIdx fun p q => if c.isLocked p then q else q.breakLoop }

/-- The job of a core is asked to stop. -/
def State.askStop (s : State) (k : Nat) : State :=
  match (s.core k).job with
  | some j =>
    if j.phase = .running then
      s.modCore k fun c => { c.requestStop with job := some { j with phase := .preempting, since := s.now } }
    else s
  | none => s

/-- PREEMPT_REQUEST: a request for one member of a gang is a request for all (R36). -/
def State.preemptRequest (s : State) (k : Nat) : State :=
  match (s.core k).job with
  | some j =>
    let mates := (List.range 128).filter fun i =>
      match (s.core i).job with
      | some x => x.inst == j.inst && x.node == j.node
      | none => false
    mates.foldl State.askStop s
  | none => s

/-- What stops a partition before it fetches, once its job is being pre-empted (R48): a locked member is
frozen, one at the rendezvous stops there, and one between sections stops before the next, or at the wait of its
header. -/
def Core.stopKindNow (c : Core) (p : Nat) : Option StopKind :=
  let q := c.prt p
  if !c.preempting || !q.started || q.joined || q.trap.isSome || q.stop.isSome then none
  else if c.lwait.getLsbD p then some .rendezvous
  else if c.isLocked p then some .frozen
  else if q.left = 0 ∧ q.idle = 0 ∧ q.transfer = none ∧ q.swtrap = none then
    match q.fetchHeader with
    | .header len mask wait =>
      let v := c.headerVerdict p len mask wait
      if v.stalls && (firstCause v.causes).isNone then some .wait else some .boundary
    | _ => some .boundary
  else none

/-- The partition stops where it stands. -/
def State.stopHere (s : State) (k p : Nat) (kind : StopKind) : State := s.modPrt k p fun q => { q with stop := some kind }

/-! ### The hard stop (R49, R361) -/

/-- Every port and latch of a partition and every exchange slot is lost, and results in flight are
discarded. -/
def Partition.loseAll (q : Partition) : Partition :=
  { q with
    units := q.units.map fun r => r.poison lostSlot, xi := q.xi.map fun _ => lostSlot, fly := [], transfer := none, far := none,
    idle := 0, swtrap := none, spill := .idle, refused := 0, qwait := none, probed := false,
    mops := q.mops.filter fun o => o.kind == .store || o.isBarrier || o.isFork }

/-- A partition loses what is in flight, and a started one stops at once, to restart at RGNADDR: the sections before
RGNADDR's have retired. One that has joined restarts too while a section of it has not retired, whose results are lost;
with none left it is already stopped, and stays joined (log 139). -/
def Partition.stopHard (q : Partition) : Partition :=
  if q.started = false then q.loseAll
  else if q.joined && q.secs.isEmpty then { q.loseAll with stop := some .joined }
  else { q.loseAll with stop := some .hard, secs := [], joined := false }

/-- A macro loses its latches, and its intervals and holder are cleared. -/
def Cim.lose (c : Cim) : Cim :=
  { c with res := lostSlot, res1 := lostSlot, flag := lostSlot, ivl := ⟨false, 0, 0⟩, bivl := ⟨false, 0, 0⟩, holder := none }

/-- The core at a hard pre-emption: no locked group is left, and operations other than enc are discarded
with the tag entries they kept busy (log 47). -/
def Core.stopHard (c : Core) : Core :=
  let rsc := (List.range 12).map fun p => c.sh.rsc.getD p 0 + BitVec.ofNat 32 (c.prt p).skippedSecs
  let tags := c.sh.tags.map fun (i, e) => (i, if e.busy then { e with busy := false, hit := false } else e)
  { c with
    sh := { c.sh with rsc := rsc, cims := c.sh.cims.map Cim.lose, tags := tags },
    prts := c.prts.map Partition.stopHard, xfly := [], locked := 0, lpend := 0, lwait := 0, lleave := 0, lockGo := false,
    cancel := false, late := [], mxFly0 := [], xfly0 := [], refill := none, refillFault := [], prefs := [],
    ops := c.ops.filter fun o => o.op == .enc || o.left.isSome }

/-- T_pre has passed since the request (R49). -/
def State.hardDue (s : State) (k : Nat) : Bool :=
  match (s.core k).job with
  | some j => j.phase == .preempting && decide (j.since.toNat + 1000 * s.sched.tpre.toNat ≤ s.now.toNat)
  | none => false

/-- HARD_PREEMPT. -/
def State.hardPreempt (s : State) (k : Nat) : State :=
  if s.hardDue k then
    s.modCore k fun c => { c.stopHard with job := c.job.map fun j => { j with phase := .hardStop } }
  else s

/-! ### The save (R48 to R51, R276, R425) -/

/-- Whether a partition no longer keeps the image from being written. -/
def Partition.settled (q : Partition) : Bool :=
  (!q.started || q.joined || q.stop.isSome || q.trap.isSome) && q.mops.isEmpty && !(q.fly.any fun f => f.sb && !f.ready) &&
    !(match q.spill with | .wanted _ _ | .counted _ _ _ => true | _ => false)

/-- The conditions of the soft write (R48). -/
def Core.settled (c : Core) : Bool :=
  c.prts.all Partition.settled && c.xfly.all (fun x => x.locked && c.isLocked x.snd && c.isLocked x.rcv) && c.refill.isNone &&
    c.late.isEmpty && c.jobOps.all (fun o => o.op == .enc)

/-- What the end of an ACLK applies has been applied: signals, writes of semaphores and tag operations, and a br.bkt
(R40, R177, R224). -/
def Core.applied (c : Core) : Bool := c.semAdds.isEmpty && c.semWrs.isEmpty && c.tagWrs.isEmpty && c.bktWr.isNone

/-- The image of a core may be written now. -/
def Core.saveDue (c : Core) : Bool :=
  match c.job with
  | some j => ((j.phase == .preempting && c.settled) || j.phase == .hardStop) && c.applied
  | none => false

/-- The pieces of an image are written at its IA, up to the first that faults; no answer while a home holds
one. -/
def writePieces (ria : Addr) (job : BitVec 32) : List Piece → Memory → Option (Memory × Bool)
  | [], m => some (m, true)
  | (off, bs) :: ps, m =>
    match m.writeBytes (ria + BitVec.ofNat 48 off) bs.length (bytesNat bs) job with
    | (_, .wait) => none
    | (m, .fault _) => some (m, false)
    | (m, .go _ _) => writePieces ria job ps m

/-- The slots of the preserved lines (R29, R51): none without a bitmap, no list when its read fails. -/
def State.presvSlots (s : State) (k : Nat) : EngAns (Option (List Nat)) :=
  let v := fld ((s.core k).descDw 7) 0 48
  if v = 0 then .ok s (some [])
  else
    match s.engReadClean k v 1024 with
    | .ok s x => .ok s (some (bitmapSlots x))
    | .fault s _ _ => .ok s none
    | .wait => .wait

/-- A member of a node has been saved: with its last live member the node is in the ready pool again. -/
def State.memberSaved (s : State) (j : Job) (sv : SavedJob) : State :=
  s.modNode j.inst j.node fun n =>
    let n : NodeInst := { n with saved := n.saved ++ [sv], live := n.live - 1 }
    if n.live = 0 then { n with phase := .saved, readyAt := s.now } else n

/-- The descriptor of a saved job: RESUME = 1. -/
def resumeDesc (d : List Word) : List Word := d.set 1 (d.getD 1 0 ||| bitAt 63 true)

/-- RUCKSACK_WRITE, its stores performed. A write that faults ends the job (R425), and so does a bitmap of
preserved lines that cannot be read. -/
def State.save? (s : State) (k : Nat) : Option State :=
  match (s.core k).job with
  | none => none
  | some j =>
    if (s.core k).saveDue = false then none
    else
      (s.flushAll k).bind fun s =>
        match s.presvSlots k with
        | .ok s (some ls) =>
          let c := s.core k
          let hard := j.phase == .hardStop
          (writePieces j.ria c.jobId (imagePieces c k j.desc hard ls s.free) s.mem).bind fun (m, good) =>
            let s := { s with mem := m, free := s.free + 1 }
            if good then
              let sv : SavedJob :=
                ⟨resumeDesc j.desc, j.ria, j.reloc, c.prts.mapIdx fun p q => q.beside (ctxOf k p) c p, c.sh.cims.map Cim.bivl, c.ringValid, c.xfly.map fun x => x.val.reg, c.engFwd⟩
              some ((s.leaveCore k j.inst).memberSaved j sv)
            else s.endLive? k 0
        | .ok s none => s.endLive? k 0
        | _ => none

/-- RUCKSACK_WRITE; nothing happens while the image cannot be written. -/
def State.rucksackWrite (s : State) (k : Nat) : State := (s.save? k).getD s

/-! ### Reading an image (R52, R425) -/

/-- What the read of an image answers: the bytes, a failure, or a hold. -/
inductive ReadAns (α : Type) where
  | ok (m : Memory) (x : α)
  | bad (m : Memory)
  | wait

/-- One read after another. -/
def ReadAns.bind {α β : Type} (a : ReadAns α) (f : Memory → α → ReadAns β) : ReadAns β :=
  match a with
  | .ok m x => f m x
  | .bad m => .bad m
  | .wait => .wait

/-- n bytes of an image; a fault or a poisoned piece is a failure. -/
def readPiece (ria : Addr) (job : BitVec 32) (m : Memory) (off n : Nat) : ReadAns (List Byte) :=
  match m.readBytes (ria + BitVec.ofNat 48 off) n job with
  | (m, .ok x false) => .ok m (natBytes n x)
  | (m, .ok _ true) => .bad m
  | (m, .fault _) => .bad m
  | (_, .wait) => .wait

/-- Several pieces of an image. -/
def readPieces (ria : Addr) (job : BitVec 32) : Memory → List (Nat × Nat) → ReadAns (List (List Byte))
  | m, [] => .ok m []
  | m, (off, n) :: ps =>
    (readPiece ria job m off n).bind fun m b => (readPieces ria job m ps).bind fun m bs => .ok m (b :: bs)

/-- The image at an IA, as far as it is restored. -/
def readImage (ria : Addr) (job : BitVec 32) (nm : Nat) (m : Memory) : ReadAns Image :=
  let rd := readPiece ria job
  (rd m 0 0x1A000).bind fun m low =>
  (readPieces ria job m ((List.range 12).map fun p => (areaOffset p 0, 0x8000))).bind fun m areas =>
  (readPieces ria job m [(0x560000, 0xC0000), (0x620000, 0x60000)]).bind fun m exts =>
  (rd m 0x7A000 regEnd).bind fun m reg =>
  (rd m 0x1CC000 (regEnd / 8)).bind fun m psn =>
  let nl := min 8192 (fld (dwAt low 0x18) 0 14)
  (rd m 0xAA000 (144 * nl)).bind fun m lines =>
  (readPieces ria job m ((List.range nm).map fun i => (0x400000 + 0x28000 * i, cimSize))).bind fun m macs =>
  (rd m 0x540000 4096).bind fun m freq =>
  (rd m 0x680000 0x18000).bind fun m xi =>
  (rd m 0x698000 16).bind fun m xh =>
  let nx := min 96 (natAt xh 0 1 % 128)
  (rd m 0x698010 (1040 * nx)).bind fun m xs =>
  let area (p : Nat) : List Byte := areas.getD p [] ++ (if p = 9 then exts.getD 0 [] else if p = 10 then exts.getD 1 [] else [])
  .ok m ⟨low, (List.range 12).map area, reg, psn, pieces 144 nl lines, macs, freq, xi, pieces 1040 nx xs⟩

/-! ### Launch (R31, R32, R35, R276, R285, R362) -/

/-- The state that a fresh job finds on a core (R32, R226): core-store lines that are not pinned lose their
poison, and they and the register space hold open values (R32). -/
def Core.fresh (c : Core) (free : Nat) : Core :=
  let pinned (a : Nat) : Bool := let t := tagGet c.sh.tags (a / 128); t.v && t.pin
  let open' : List Host.Cell := (List.range 1048576).filterMap fun a =>
    let b := if pinned a then Cells.byte c.sh.cs a else Config.freeByte free a
    if b = 0 then none else some (a, b)
  let reg : List Host.Cell := (List.range regEnd).filterMap fun a =>
    let b := Config.freeByte (free + 1) a
    if b = 0 then none else some (a, b)
  { c with
    sh := { Shared.empty with
      reg := reg, cs := open', csPsn := c.sh.csPsn.filter (fun x => pinned (16 * x.1)), tags := c.sh.tags, gap := c.sh.gap },
    prts := List.replicate 12 .empty, semAdds := [], semWrs := [], tagWrs := [], bktWr := none, xfly := [], cancel := false,
    locked := 0, lpend := 0, lwait := 0, lleave := 0, lockGo := false, late := [], mxUsed := 0, mxFly0 := [], xfly0 := [],
    refill := none, refillFault := [], l1 := [], l1Old := [], engFwd := 0, prefs := [], helper := none, evseq := 0, ringValid := 0, ftbReload := false }

/-- n bytes at a VA, as the scheduler reads them through the entries of a job (R100, R285). -/
def State.readWindows (s : State) (win : List FtbEntry) (va n : Nat) : EngAns (List Byte) :=
  (cutLines va n).foldl (fun acc (a, k) =>
    acc.bind fun s bs =>
      match ftbLookup win (BitVec.ofNat 48 a) .rd with
      | .ok ia _ => (s.fetchIa ia.toNat k).bind fun s b => .ok s (bs ++ b)
      | .fault st => .fault s st (BitVec.ofNat 64 a)
      | .miss => .fault s stFmiss (BitVec.ofNat 64 a)) (.ok s [])

/-- Where the 16 relocation records of a job stand in its Rucksack, as an offset (log 106). -/
def relocOff : Nat := 0x7FF000

/-- RELOC: the VA of the records (log 106). -/
def relocVa : Nat := 0x8E0000000000 + relocOff

/-- Relocation records as memory holds them (R29, R101). -/
def relocBytes (es : List FtbEntry) : List Byte := es.flatMap fun e => [e.vabase, e.valimit, e.iabase, e.attr].flatMap fun w => natBytes 8 w.toNat

/-- The state after a write, also one that faulted; no answer while a home holds it. -/
def State.wrote (s : State) (r : Memory × Req) : Option State :=
  match r with
  | (_, .wait) => none
  | (m, _) => some { s with mem := m }

/-- The relocation records that the scheduler has built for a job are written where RELOC names them, as its launch
begins; no answer while a home holds the write. A write that faults is left to the read of step 2 of R31, which meets the
same page (log 106). -/
def State.writeReloc (s : State) (j : Job) : Option State :=
  s.wrote (s.mem.writeBytes (j.ria + BitVec.ofNat 48 relocOff) 512 (bytesNat (relocBytes j.reloc)) (descJob j.desc))

/-- The relocation records that RELOC of a job names, read through the entries that the scheduler has built (R29, R100,
R285). -/
def State.readReloc (s : State) (j : Job) : EngAns (List FtbEntry) :=
  (s.readWindows (j.reloc.map fun e => e.loaded true) (fld (j.desc.getD 5 0) 0 48) 512).bind fun s b =>
    .ok s ((List.range 16).map fun i => ⟨blockDw b (4 * i), blockDw b (4 * i + 1), blockDw b (4 * i + 2), blockDw b (4 * i + 3)⟩)

/-- FTB entries 0 to 15 from the relocation records; the others are invalid (R31, R101). -/
def pinnedFtb (reloc : List FtbEntry) : List FtbEntry :=
  (List.range 128).map fun i => if i < 16 then (reloc.getD i ⟨0, 0, 0, 0⟩).loaded true else ⟨0, 0, 0, 0⟩

/-- Debug mode of core k at a job's start (R362). -/
def Firmware.debugs (f : Firmware) (k : Nat) : Bool := if k < 64 then bit f.dbg0 k else bit f.dbg1 (k - 64)

/-- FTB entries 0 to 15 are loaded from RELOC, and the others are invalidated (step 2 of R31). -/
def State.loadReloc (s : State) (k : Nat) (j : Job) : EngAns Unit :=
  match s.writeReloc j with
  | none => .wait
  | some s => (s.readReloc j).bind fun s es => .ok (s.modCore k fun c => c.modSh fun h => { h with ftb := pinnedFtb es }) ()

/-- A job's descriptor is loaded on core k, with the pinned entries that the scheduler has built for it (R31, R285). -/
def State.loadJob (s : State) (k : Nat) (j : Job) : State :=
  let s := s.modCore k fun c =>
    let c := c.fresh s.free
    let sh := { c.sh with ftb := pinnedFtb j.reloc, fillptr := 16 }
    { c with sh := sh, sh0 := sh, job := some j, dbg := s.fw.debugs k }
  { s with free := s.free + 2 }

/-- STRMp of a descriptor. -/
def descStrm (d : List Word) (p : Nat) : Word := d.getD (8 + p) 0

/-- A partition's instruction store (R31). -/
def State.loadStore (s : State) (k p : Nat) : EngAns (List (BitVec 32)) :=
  let d := (s.core k).descDw (8 + p)
  let n := fld d 48 16
  (s.engReadClean k (fld ((s.core k).descDw 2) 0 48 + fld d 0 32) (4 * n)).bind fun s x =>
    .ok s ((List.range n).map fun i => BitVec.ofNat 32 (x / 2 ^ (32 * i)))

/-- The view table's doublewords for a partition (R29). -/
def State.loadViews (s : State) (k p : Nat) : EngAns (List Word) :=
  (s.engReadClean k (fld ((s.core k).descDw 3) 0 48 + 64 * p) 64).bind fun s x =>
    .ok s ((List.range 8).map fun v => BitVec.ofNat 64 (x / 2 ^ (64 * v)) &&& viewMask)

/-- A partition is started with its stream: fresh at ENTRY (R31, R32). -/
def Partition.start (d : Word) (store : List (BitVec 32)) (views : List Word) : Partition :=
  let e : Pc := BitVec.ofNat 13 (fld d 32 16)
  { Partition.empty with started := true, pc := e, rgnPc := e, entry := e, store := store, slen := fld d 48 16, views := views }

/-- The started partitions receive their streams, and at a fresh start their views. -/
def State.startPrts (s : State) (k : Nat) (fresh : Bool) : EngAns Unit :=
  let d := match (s.core k).job with | some j => j.desc | none => []
  ((List.range 12).filter fun p => (descMask d).getLsbD p).foldl (fun acc p =>
    acc.bind fun s _ =>
      (s.loadStore k p).bind fun s ps =>
        (if fresh then s.loadViews k p else .ok s (List.replicate 8 0)).bind fun s vs =>
          .ok (s.modPrt k p fun _ => Partition.start (d.getD (8 + p) 0) ps vs) ()) (.ok s ())

/-- The fills that CS tile operands ask for (R290): slot and VA. -/
def State.tileFills (s : State) (k : Nat) : EngAns (List (Nat × Nat)) :=
  match (s.core k).job.bind fun j => (s.graph? j.inst).bind fun g => (g.nodes[j.node]?).map fun n => (g, n) with
  | none => .ok s []
  | some (g, n) =>
    (s.tileRecs g n).bind fun s rs =>
      .ok s (rs.2.flatMap fun r =>
        let d := blockDw r 0
        let win := if fld d 60 4 = 15 then 0x8F0000000000 else 0x800000000000 + fld d 60 4 * 0x10000000000
        let lines := (fld (blockDw r 1) 0 32 + 127) / 128
        if bit d 58 then (List.range lines).map fun l => (fld d 44 13 + l, win + fld d 0 40 + 128 * l) else [])

/-- One CS fill (R259, R290): the slot is tagged and filled, with the poison of its pieces (R387), or left as a failed
fill leaves it. -/
def State.tileFill (k : Nat) (acc : Option State) (x : Nat × Nat) : Option State :=
  acc.bind fun s =>
    if 8192 ≤ x.1 then some s
    else
      match s.engXlate k (BitVec.ofNat 48 x.2) .rd with
      | .wait => none
      | .fault s _ _ => some (s.modCore k fun c => c.modSh fun h => h.modTag x.1 TagEntry.failed)
      | .ok s ia =>
        match s.mem.request ia .rd 128 (s.core k).jobId with
        | (_, .wait) => none
        | (m, .fault _) => some ({ s with mem := m }.modCore k fun c => c.modSh fun h => h.modTag x.1 TagEntry.failed)
        | (m, .go pl _) =>
          some ({ s with mem := m }.modCore k fun c => c.modSh fun h =>
            (csFill h x.1 (m.get pl 128) fun i => m.poisoned (pl.add (16 * i)) 16).modTag x.1 fun _ => ⟨true, false, false, false, BitVec.ofNat 32 (ia.toNat / 65536), false⟩)

/-- The rejection of a descriptor on core k (R30, R405): a DESC record, and the member counts as ended. -/
def State.rejectLive (s : State) (k : Nat) (sub : Nat) : Option State :=
  match (s.core k).job with
  | some j => ((s.logJob j.desc j.inst 2 sub).leaveCore k j.inst).memberEnded j.inst j.node
  | none => some s

/-- Whether the members of a core's gang have all come to the end of their launches. -/
def State.gangOf (s : State) (k : Nat) : List Nat :=
  match (s.core k).job with
  | some j => (List.range 128).filter fun i =>
      match (s.core i).job with
      | some x => x.inst == j.inst && x.node == j.node
      | none => false
  | none => []

/-- What the launch of a member comes to. -/
inductive LaunchAns where
  | ok (s : State)
  | reject (s : State) (sub : Nat)
  | wait

/-- A fresh member is loaded: instruction stores, views and tile operands (R31). A read that faults is
rejected as a bad address (log 50). -/
def State.launchFresh (s : State) (k : Nat) : LaunchAns :=
  match s.startPrts k true with
  | .wait => .wait
  | .fault s _ _ => .reject s 3
  | .ok s _ =>
    match s.tileFills k with
    | .wait => .wait
    | .fault s _ _ => .ok s
    | .ok s fs =>
      match fs.foldl (State.tileFill k) (some s) with
      | some s => .ok s
      | none => .wait

/-- The image of a saved job, for a core with a number of macros, if its header passes the checks of R52 and all of it
can be read (R30, R425). -/
def SavedJob.image (sv : SavedJob) (nm : Nat) (m : Memory) : ReadAns Image :=
  (readPiece sv.ria (descJob sv.desc) m 0 256).bind fun m h =>
    if headerOk h sv.desc then readImage sv.ria (descJob sv.desc) nm m else .bad m

/-- A member is restored from its image (R52). A read of the image or of the instruction stores that faults is a failed
check of the resumption, SUB 5 (R425, log 50). -/
def State.launchSaved (s : State) (k : Nat) (sv : SavedJob) : LaunchAns :=
  match sv.image (ctxOf k 0).macroCount s.mem with
  | .wait => .wait
  | .bad m => .reject { s with mem := m } 5
  | .ok m im =>
    match ({ s with mem := m } : State).startPrts k false with
    | .wait => .wait
    | .fault s _ _ => .reject s 5
    | .ok s _ =>
      .ok (s.modCore k fun c =>
        let c := c.revive k im sv.parts sv.bivls sv.ringValid sv.xmarks
        { c with engFwd := sv.engFwd, ops := c.ops.map fun o => if o.job = descJob sv.desc then { o with left := none } else o })

end Sys2Proof.Machine
end

