-- ==== Sys2Proof/Machine/Frames.lean ====
section
/-! DEFINITION. Model slots, task graphs and frames: the residency check, instances of templates,
frame releases and step boundaries (R284 to R294, R405, R406). -/

namespace Sys2Proof.Machine

/-! ### Slots and buffers (R284, R285) -/

/-- Doublewords of a structure. -/
def dwsOf (bs : List Byte) (n : Nat) : List Word := (List.range n).map (blockDw bs)

/-- A check of the scheduler that fails. -/
def EngAns.fails {α : Type} (s : State) : EngAns α := .fault s stHbad 0

/-- A structure of n doublewords at an IA. -/
def State.readDws (s : State) (ia n : Nat) : EngAns (List Word) :=
  if n = 0 then .ok s [] else (s.fetchIa ia (8 * n)).bind fun s b => .ok s (dwsOf b n)

/-- A slot record. -/
def State.slotRec (s : State) (slot : Nat) : EngAns (List Word) := s.readDws (fld s.sched.slotbase 0 48 + 64 * slot) 8

/-- STATE of a slot record. -/
def slotState (r : List Word) : Nat := fld (r.getD 0 0) 62 2
/-- NBUF. -/
def slotBufs (r : List Word) : Nat := fld (r.getD 0 0) 52 4
/-- NTMPL. -/
def slotTemplates (r : List Word) : Nat := fld (r.getD 0 0) 48 4
/-- SIA. -/
def slotSia (r : List Word) : Nat := fld (r.getD 0 0) 0 48
/-- SSIZE. -/
def slotSize (r : List Word) : Nat := fld (r.getD 1 0) 0 40

/-- Words in pairs. -/
def pairUp : List Word → List (Word × Word)
  | a :: b :: rest => (a, b) :: pairUp rest
  | _ => []

/-- The limits of a buffer record (R285). -/
def bufOk (r : Word × Word) : Bool :=
  let ia := fld r.1 0 48
  let z := r.2.toNat
  ia % 4096 == 0 && fld r.1 48 12 == 0 && z % 4096 == 0 && decide (4096 ≤ z) && decide (z ≤ 2 ^ 40) && decide (ia + z ≤ 12 * 2 ^ 44)

/-- The buffer records of an invocation. -/
def State.bufRecs (s : State) (ia n : Nat) : EngAns (List (Word × Word)) := (s.readDws ia (2 * n)).bind fun s ws => .ok s (pairUp ws)

/-- The residency check at an INVOKE or a release (R285): the slot record and the buffer records. -/
def State.resident (s : State) (slot bufs : Nat) : EngAns (List Word × List (Word × Word)) :=
  (s.slotRec slot).bind fun s r =>
    if slotState r ≠ 2 then .fails s
    else (s.bufRecs bufs (slotBufs r)).bind fun s bs => if bs.all bufOk then .ok s (r, bs) else .fails s

/-! ### Templates and instances (R289) -/

/-- IA of template i of a slot. -/
def State.templateIa (s : State) (r : List Word) (i : Nat) : EngAns Nat :=
  (s.readDws (slotSia r + fld (r.getD 2 0) 0 32 + 8 * i) 1).bind fun s ws => .ok s (slotSia r + (ws.getD 0 0).toNat)

/-- The node records of a template. -/
def State.templateNodes (s : State) (r : List Word) (i : Nat) : EngAns (List (List Word)) :=
  (s.templateIa r i).bind fun s t =>
    (s.readDws t 8).bind fun s h =>
      let n := fld (h.getD 0 0) 0 10
      if n = 0 then .fails s
      else (s.readDws (t + 64) (8 * n)).bind fun s ws => .ok s ((List.range n).map fun j => (ws.drop (8 * j)).take 8)

/-- The successors of a node. -/
def State.nodeSucc (s : State) (r : List Word) (nd : List Word) : EngAns (List Nat) :=
  let n := fld (nd.getD 2 0) 10 10
  if n = 0 then .ok s []
  else (s.fetchIa (slotSia r + fld (nd.getD 3 0) 0 32) (2 * n)).bind fun s b => .ok s ((List.range n).map fun j => natAt b (2 * j) 2)

/-- STEP of a node record. -/
def nodeStep (nd : List Word) : Nat := fld (nd.getD 0 0) 42 8

/-- The nodes of a template, none of them ready yet. -/
def State.buildNodes (s : State) (r : List Word) (i : Nat) : EngAns (List NodeInst) :=
  (s.templateNodes r i).bind fun s recs =>
    recs.foldl (fun acc nd =>
      acc.bind fun s ns =>
        (s.nodeSucc r nd).bind fun s sc =>
          .ok s (ns ++ [⟨nd, sc, fld (nd.getD 2 0) 0 10, .waiting, 0, false, [], [], 0, false⟩])) (.ok s [])

/-- Nodes that have no predecessor are ready. -/
def settleAll (ns : List NodeInst) (now : Word) : List NodeInst := ns.map fun n => n.settle now

/-- A new instance enters the scheduler. -/
def State.addGraph (s : State) (g : GraphInst) : State :=
  { s with sched := { s.sched with graphs := s.sched.graphs ++ [g], nextGraph := s.sched.nextGraph + 1 } }

/-! ### Rungs and slack (R287, R291) -/

/-- Fields of a rung record. -/
structure Rung where
  lath : Nat
  latw : Nat
  interp : Nat
  steps : Nat
  cstep : Nat
  cfin : Nat
deriving DecidableEq, Repr

/-- A rung record of a ladder. -/
def State.rung? (s : State) (ladder i : Nat) : EngAns (List Word) := s.readDws (ladder + 32 * i) 4

/-- The rung that a record gives. -/
def rungOf (r : List Word) : Rung :=
  let d := r.getD 0 0
  ⟨fld d 48 16, fld d 32 16, fld d 16 8, fld d 0 8, fld (r.getD 1 0) 0 40, fld (r.getD 2 0) 0 40⟩

/-- The stated ranges of a rung record. -/
def rungOk (r : List Word) : Bool :=
  let d := r.getD 0 0
  let x := rungOf r
  let within (lo hi n : Nat) : Bool := decide (lo ≤ n) && decide (n ≤ hi)
  within 1 1024 x.lath && within 1 1024 x.latw && within 1 8 x.interp && within 1 255 x.steps && fld d 24 8 == 0 && fld d 8 8 == 0 &&
    fld (r.getD 1 0) 40 24 == 0 && fld (r.getD 2 0) 40 24 == 0 && r.getD 3 0 == 0

/-- e_rem (R291). -/
def Rung.rem (r : Rung) (s : Nat) : Int := ((r.steps : Int) - s) * r.cstep + r.cfin

/-- LADDER of a stream. -/
def Stream.ladder (t : Stream) : Nat := fld (t.at 4) 0 48

/-- e_rem of a frame that starts on a rung; with a rung record that cannot be read it counts as 0 (log 52). -/
def State.startRem (s : State) (t : Stream) (g : Nat) : EngAns Int :=
  match s.rung? t.ladder g with
  | .wait => .wait
  | .fault s _ _ => .ok s 0
  | .ok s r => .ok s ((rungOf r).rem 0)

/-- The key of a node of an instance, from the e_rem of its last step or rung (R291); smaller goes first. -/
def GraphInst.key (g : GraphInst) : Int :=
  match g.stream with
  | none => if g.deadline = 0 then 2 ^ 64 - 1 else g.deadline.toNat
  | some _ => (g.deadline.toNat : Int) - g.erem

/-! ### Frame releases (R285, R288, R293) -/

/-- T0 + k PERIOD of the next frame. -/
def Stream.releaseAt (t : Stream) : Nat := (t.at 1).toNat + t.fnum.toNat * fld (t.at 2) 0 40

/-- Whether the next frame of a stream is to be instantiated now. -/
def State.releaseDue (s : State) (i : Nat) : Bool :=
  let t := s.stream i
  t.state == 1 && !t.moving && decide (t.releaseAt ≤ s.now.toNat) &&
    !(s.sched.graphs.any fun g => g.stream == some i && decide (g.fnum.toNat + 2 ≤ t.fnum.toNat))

/-- The rung on which a frame starts (R293). -/
def State.startRung (s : State) (t : Stream) : EngAns Nat :=
  let g := t.rung
  if g = 0 then .ok s 0
  else
    match s.rung? t.ladder (g - 1) with
    | .wait => .wait
    | .fault s _ _ => .ok s g
    | .ok s r =>
      let spare : Int := (fld (t.at 3) 0 40 : Int) - (rungOf r).rem 0
      .ok s (if (1000 * fld (t.at 3) 48 16 : Int) ≤ spare then g - 1 else g)

/-- A frame that fails the residency check completes at once without a job (R285). -/
def State.failFrame (s : State) (i : Nat) (t : Stream) : Option State :=
  let s := (s.putStream i (t.put 0 0 32 (t.fnum.toNat + 1))).logFailure t.region 1 4 (some i) t.fnum 0
  (s.signal (fld (t.at 7) 0 48) t.region (some i) t.fnum).bind fun s =>
    (if bit (t.at 7) 59 then s.irq (fld (t.at 7) 48 11) else s).closeStream i

/-- FRAME_RELEASE; no answer while a home holds an access. A template that cannot be read, or whose NNODE is 0, is taken
as a failed residency check, of a frame as of an INVOKE (log 129). -/
def State.release? (s : State) (i : Nat) : Option State :=
  if s.releaseDue i = false then none
  else
    let t := s.stream i
    match (s.startRung t).bind fun s g => (s.startRem t g).bind fun s e => .ok s (g, e) with
    | .wait => none
    | .fault _ _ _ => none
    | .ok s (g, e) =>
      let slot := fld (t.at 0) 55 4
      match (s.resident slot (fld (t.at 5) 0 48)).bind fun s x => (s.buildNodes x.1 g).bind fun s ns => .ok s (x.2, ns) with
      | .wait => none
      | .fault s _ _ => s.failFrame i (t.put 0 52 3 g)
      | .ok s (bufs, ns) =>
        let gi : GraphInst :=
          { id := s.sched.nextGraph, stream := some i, fnum := t.fnum, region := t.region, slot := slot, rung := g, steps := 0,
            deadline := BitVec.ofNat 64 (t.releaseAt + fld (t.at 3) 0 40), cmd := none, bufs := bufs,
            adid := BitVec.ofNat 12 (fld (t.at 0) 33 12), aden := bit (t.at 0) 32, floored := false, adapted := false, fwd := 0, erem := e,
            nodes := settleAll ns s.now }
        some ((s.putStream i (((t.put 0 52 3 g).put 0 0 32 (t.fnum.toNat + 1)).put 10 0 8 0)).addGraph gi)

/-- FRAME_RELEASE; nothing happens while no frame is due. -/
def State.frameRelease (s : State) (i : Nat) : State := (s.release? i).getD s

/-! ### Step boundaries (R292, R406) -/

/-- A node that has been dispatched and has not completed. -/
def NodeInst.active (n : NodeInst) : Bool := n.phase == .running || n.phase == .saved

/-- Whether a FINAL node of the instance has started. -/
def GraphInst.finalStarted (g : GraphInst) : Bool := g.nodes.any fun n => n.isFinal && !n.old && (n.active || n.phase == .done)

/-- The nodes of a new template that an in-place drop instantiates from step s' on (R292): earlier steps
are taken as complete, and nodes of step s' or of none without a remaining predecessor wait for the frame's running
jobs. -/
def dropNodes (ns : List NodeInst) (s' base : Nat) (running : List Nat) : List NodeInst :=
  let gone (n : NodeInst) : Bool := decide (nodeStep n.recd < s')
  ns.mapIdx fun i n =>
    let before := ((ns.filter gone).map fun m => m.succ.count i).sum
    let n : NodeInst := { n with preds := n.preds - before, succ := n.succ.map (· + base) }
    if gone n then { n with phase := .dropped }
    else if n.preds = 0 ∧ (nodeStep n.recd = s' ∨ nodeStep n.recd = 255) then { n with waits := running } else n

/-- An in-place drop: nodes not yet dispatched are discarded, running ones belong to the old template. -/
def GraphInst.drop (g : GraphInst) (rung s' : Nat) (erem : Int) (ns : List NodeInst) (now : Word) : GraphInst :=
  let olds := g.nodes.map fun n =>
    let n : NodeInst := if n.phase = .waiting ∨ n.phase = .ready then { n with phase := .dropped } else n
    { n with old := true }
  let running := (olds.zipIdx.filter fun x => x.1.active).map Prod.snd
  { g with rung := rung, steps := s', erem := erem, nodes := olds ++ settleAll (dropNodes ns s' olds.length running) now }

/-- ceil(a / b). -/
def ceilDiv (a b : Nat) : Nat := (a + b - 1) / b

/-- The boundary of an instance of a stream: slack, SLACK, a drop or a FLOOR record. A stream that has already dropped
below this frame's rung keeps its rung, and a rung record or a template that cannot be read changes no rung (log 52). STEP
is that of the boundary evaluated last, of whichever frame in flight (R286, log 147). -/
def State.evalBoundary (s : State) (i : Nat) (g : GraphInst) (step : Nat) : EngAns Unit :=
  let t := s.stream i
  (s.rung? t.ladder g.rung).bind fun s r =>
    let x := rungOf r
    let done := step + 1
    let slack : Int := (g.deadline.toNat : Int) - s.now.toNat - x.rem done
    let t := (t.put 10 0 8 done).put 8 0 64 (unsigned 64 slack)
    let s := s.modGraph g.id fun y => { y with steps := done, erem := x.rem done }
    if 0 ≤ slack then .ok (s.putStream i t) ()
    else if g.rung < t.nrm1 then
      match s.rung? t.ladder (g.rung + 1) with
      | .wait => .wait
      | .fault s _ _ => .ok (s.putStream i t) ()
      | .ok s r' =>
        let x' := rungOf r'
        let t := if t.rung ≤ g.rung then (t.put 0 52 3 (g.rung + 1)).put 9 32 32 (fld (t.at 9) 32 32 + 1) else t
        if x'.latw = x.latw ∧ x'.lath = x.lath ∧ x'.interp = x.interp ∧ g.finalStarted = false then
          let s' := ceilDiv (done * x'.steps) x.steps
          match (s.slotRec g.slot).bind fun s sr => s.buildNodes sr (g.rung + 1) with
          | .wait => .wait
          | .fault s _ _ => .ok (s.putStream i t) ()
          | .ok s ns => .ok ((s.putStream i (t.put 10 0 8 s')).modGraph g.id fun y => y.drop (g.rung + 1) s' (x'.rem s') ns s.now) ()
        else .ok (s.putStream i t) ()
    else
      let s := s.putStream i t
      if g.floored then .ok s ()
      else .ok ((s.logFailure t.region 5 0 (some i) g.fnum 0).modGraph g.id fun y => { y with floored := true }) ()

/-- STEP_BOUNDARY: the oldest boundary is evaluated (R294); no answer while a home holds an access of it. A ladder that
can no longer be read leaves everything as it is (log 52). -/
def State.stepBoundary? (s : State) (graph node : Nat) : Option State :=
  match s.sched.boundaries with
  | (g, n) :: rest =>
    if g = graph ∧ n = node then
      let s : State := { s with sched := { s.sched with boundaries := rest } }
      match s.graph? g with
      | none => some s
      | some gi =>
        match gi.stream, gi.nodes[n]? with
        | some i, some nd =>
          match s.evalBoundary i gi (nodeStep nd.recd) with
          | .wait => none
          | .fault s _ _ => s.graphCheck g
          | .ok s _ => s.graphCheck g
        | _, _ => s.graphCheck g
    else none
  | [] => none

/-- STEP_BOUNDARY; nothing happens when it is not the oldest boundary. -/
def State.stepBoundary (s : State) (graph node : Nat) : State := (s.stepBoundary? graph node).getD s

end Sys2Proof.Machine
end

