-- ==== Sys2Proof/Machine/Rings.lean ====
section
/-! DEFINITION. Submission rings: doorbells, entries and their rejections, INVOKE, SOPEN, SCLOSE, SUPDATE,
FENCE and NOP, and the host's writes of MSI-X and SR-IOV state (R286, R300, R303 to R307, R311, R403,
R404, R410, R417, R418). -/

namespace Sys2Proof.Machine

/-! ### Rings -/

/-- Ring n. -/
def State.ring (s : State) (n : Nat) : Ring := s.sched.rings.getD n ⟨0, 4, 0, 0, 0, false⟩

/-- Change ring n. -/
def State.modRing (s : State) (n : Nat) (f : Ring → Ring) : State :=
  { s with sched := { s.sched with rings := s.sched.rings.set n (f (s.ring n)) } }

/-- SQ_DOORBELL: TAIL takes the value written, unless the ring would overflow (R303, R404). -/
def State.sqDoorbell (s : State) (n : Nat) (tail : BitVec 32) : State :=
  s.modRing n fun r => if (tail - r.head).toNat ≤ 2 ^ r.log2n.toNat then { r with tail := tail } else { r with err := true, code := 7 }

/-- SQSTAT_WRITE: a 1 in bit 0 clears ERR. -/
def State.sqstatWrite (s : State) (n : Nat) (x : Word) : State :=
  s.modRing n fun r => if bit x 0 then { r with err := false } else r

/-- The read of the entry at a ring's head; it waits while the ring has none. -/
def State.headRead (s : State) (n : Nat) : EngAns (List Word) :=
  let r := s.ring n
  if r.head = r.tail then .wait else s.readDws (fld r.base 0 48 + 64 * (r.head.toNat % 2 ^ r.log2n.toNat)) 8

/-- The entry at a ring's head, when there is one and it can be read (log 53). -/
def State.headEntry (s : State) (n : Nat) : Option (State × List Word) :=
  match s.headRead n with
  | .ok s e => some (s, e)
  | _ => none

/-- OPC of an entry. -/
def entryOpc (e : List Word) : Nat := fld (e.getD 0 0) 56 8

/-- TAG of an entry. -/
def entryTag (e : List Word) : BitVec 32 := (e.getD 0 0).setWidth 32

/-- Operand bits that an opcode defines, DW2 to DW7 (R304). -/
def operandMasks (opc : Nat) : List Word :=
  match opc with
  | 1 => [lowMask 7, lowMask 48, lowMask 64, 0, 0, 0]
  | 2 => [lowMask 10, lowMask 48, 0, 0, 0, 0]
  | 3 => [lowMask 10, 0, 0, 0, 0, 0]
  | 4 => [lowMask 25, lowMask 16, 0, 0, 0, 0]
  | _ => [0, 0, 0, 0, 0, 0]

/-- A bit that is defined as zero is set, or SIGADDR is not aligned (R304). -/
def entryStray (e : List Word) : Bool :=
  let masks : List Word := [0xFFFFF000FFFFFFFF, 0x0000FFFFFFFFFFF8] ++ operandMasks (entryOpc e)
  (e.zip masks).any fun (x, m) => x &&& ~~~m != 0

/-- Whether an MSIV of region n lies where R311 wants it. -/
def State.msivOk (s : State) (n v : Nat) : Bool := decide (n = 0) || decide (s.sched.numVfs < n) || decide (v / 256 = n)

/-- HEAD advances past an entry. -/
def State.advanceHead (s : State) (n : Nat) : State := s.modRing n fun r => { r with head := r.head + 1 }

/-- A rejected entry (R404). -/
def State.rejectEntry (s : State) (n : Nat) (e : List Word) (code : Nat) : Option State :=
  let s := (s.advanceHead n).modRing n fun r => { r with err := true, code := BitVec.ofNat 8 code }
  (s.logFailure n 1 code none (entryTag e) 0).entryDone n e

/-- The checks that stand before every opcode's own: the firmware core, the opcode, zero bits, MSIV. -/
def State.entryCode (s : State) (n : Nat) (e : List Word) : Nat :=
  if s.dev.fwhalt then 8
  else if 5 < entryOpc e then 1
  else if entryStray e then 2
  else if s.msivOk n (fld (e.getD 0 0) 44 11) = false then 6
  else 0

/-- A command that does not complete at once is kept (R304). -/
def State.addCmd (s : State) (n : Nat) (e : List Word) (fence : Bool) : State × Nat :=
  let id := s.sched.nextCmd
  ({ s with sched := { s.sched with cmds := s.sched.cmds ++ [⟨id, n, e, fence⟩], nextCmd := id + 1 } }, id)

/-! ### The commands -/

/-- FENCE and NOP have no effect of their own. -/
def State.takeFence (s : State) (n : Nat) (e : List Word) : Option State :=
  let r := (s.advanceHead n).addCmd n e true
  State.finishFences n r.1.sched.cmds.length r.1

/-- INVOKE (R285, R304, R305): an instance, or a code; no answer while a home holds a read of its checks. -/
def State.takeInvoke (s : State) (n : Nat) (e : List Word) : Option State :=
  let slot := fld (e.getD 2 0) 0 4
  let i := fld (e.getD 2 0) 4 3
  let nodes := (s.resident slot (fld (e.getD 3 0) 0 48)).bind fun s x =>
    if slotTemplates x.1 ≤ i then .fails s else (s.buildNodes x.1 i).bind fun s ns => .ok s (x.2, ns)
  match nodes with
  | .wait => none
  | .fault s _ _ => s.rejectEntry n e 4
  | .ok s (bufs, ns) =>
    let (s, id) := (s.advanceHead n).addCmd n e false
    some (s.addGraph
      { id := s.sched.nextGraph, stream := none, fnum := 0, region := n, slot := slot, rung := i, steps := 0,
        deadline := e.getD 4 0, cmd := some id, bufs := bufs, adid := 0, aden := false, floored := false, adapted := false, fwd := 0, erem := 0,
        nodes := settleAll ns s.now })

/-- The bits of a SOPEN image that the RW fields take (R286). -/
def streamMasks : List Word :=
  [lowMask 64, lowMask 64, lowMask 40, 0xFFFF00FFFFFFFFFF, lowMask 48, lowMask 48, lowMask 16, lowMask 60, lowMask 64, lowMask 64,
    lowMask 8, 0, 0, 0, 0, 0]

/-- The RW fields of an image, with the region forced and the RO fields at their first values (R286,
R304). -/
def openEntry (im : List Word) (region fclu : Nat) : List Word :=
  let d0 := im.getD 0 0
  [at' 62 1 ||| at' 59 region ||| at' 55 (fld d0 55 4) ||| at' 49 (fld d0 49 3) ||| at' 45 fclu ||| at' 32 (fld d0 32 13),
    im.getD 1 0, im.getD 2 0, im.getD 3 0, im.getD 4 0, im.getD 5 0, im.getD 6 0, im.getD 7 0] ++ List.replicate 8 0

/-- A buffer holds n bytes at a VA of its window (R285, R286). -/
def inBuffer (b : Nat) (r : Word × Word) (va n : Nat) : Bool :=
  let w := 0x800000000000 + b * 0x10000000000
  decide (w ≤ va) && decide (va + n ≤ w + r.2.toNat)

/-- The structures at the heads of a stream's buffers are well formed (R130, R255, R256, R286, R288). -/
def structuresOk (frb bsb csb kvb : List Word) (im6 : Word) (bufs : List (Word × Word)) : Bool :=
  let buf (i : Nat) : Word × Word := bufs.getD i (0, 0)
  let nslot := fld (frb.getD 0 0) 0 16
  let frame := decide (2 ≤ nslot) && decide (nslot ≤ 1024) && decide (fld (frb.getD 1 0) 0 16 < nslot) && fld (frb.getD 0 0) 48 16 == 0 &&
    fld (frb.getD 1 0) 16 48 == 0 && frb.getD 2 0 == 0 && frb.getD 3 0 == 0
  let size := (bsb.getD 1 0).toNat
  let base := fld (bsb.getD 0 0) 0 48
  let bs := fld (bsb.getD 0 0) 48 16 == 0 && base % 4096 == 0 && size % 4096 == 0 && decide (65536 ≤ size) && inBuffer (fld im6 8 4) (buf (fld im6 8 4)) base size
  let sess := dwBytes' csb
  let cs := !sessBad sess && inBuffer (fld im6 4 4) (buf (fld im6 4 4)) (sessRef sess) (sessRefBytes sess)
  let d := kvb.getD 0 0
  let depth := fld d 52 6
  let kv := decide (1 ≤ depth) && decide (depth ≤ 32) && fld d 58 6 == 0 && fld d 48 4 == 0
  frame && bs && cs && kv
where
  /-- Doublewords as bytes. -/
  dwBytes' (ws : List Word) : List Byte := ws.flatMap fun w => natBytes 8 w.toNat

/-- The structure checks of SOPEN; one that cannot be read fails (log 53), and a buffer record beyond the limits of R285
fails with them, for code 5 (log 130). -/
def State.checkStructures (s : State) (im : List Word) (r : List Word) : EngAns Unit :=
  let d6 := im.getD 6 0
  let nbuf := slotBufs r
  let ids := [fld d6 12 4, fld d6 8 4, fld d6 4 4, fld d6 0 4]
  if ids.any fun i => decide (nbuf ≤ i) then .fails s
  else
    (s.bufRecs (fld (im.getD 5 0) 0 48) nbuf).bind fun s bufs =>
      if bufs.all bufOk = false then .fails s
      else
        let ia (i : Nat) : Nat := fld (bufs.getD (fld d6 i 4) (0, 0)).1 0 48
        (s.readDws (ia 12) 4).bind fun s frb =>
        (s.readDws (ia 8) 4).bind fun s bsb =>
        (s.readDws (ia 4) 8).bind fun s csb =>
        (s.readDws (ia 0) 2).bind fun s kvb => if structuresOk frb bsb csb kvb d6 bufs then .ok s () else .fails s

/-- The rung records of a ladder are in range. -/
def State.checkLadder (s : State) (ladder n : Nat) : EngAns Unit :=
  (List.range n).foldl (fun acc i => acc.bind fun s _ => (s.rung? ladder i).bind fun s r => if rungOk r then .ok s () else .fails s) (.ok s ())

/-- FCOR of every FINAL node of a slot's templates. -/
def State.finalCors (s : State) (r : List Word) : EngAns (List Nat) :=
  (List.range (slotTemplates r)).foldl (fun acc i =>
    acc.bind fun s cs =>
      (s.templateNodes r i).bind fun s ns =>
        .ok s (cs ++ (ns.filter fun n => bit (n.getD 0 0) 59).map fun n => fld (n.getD 0 0) 32 3)) (.ok s [])

/-- Open streams that a cluster finishes: each counts until it is CLOSED (log 131). -/
def State.streamsOf (s : State) (c : Nat) : Nat := (s.sched.streams.filter fun t => t.state != 0 && t.fclu == c).length

/-- A cluster that may finish a stream whose FINAL nodes run on these cores (R19, R300, R417). -/
def State.mayFinish (s : State) (cors : List Nat) (c : Nat) : Bool :=
  !(c == 0 && cors.contains 0) && !(s.dev.coreret.getD (8 * c + 7) false) && !(s.cluster c).codecRet &&
    !(cors.any fun x => s.dev.coreret.getD (8 * c + x) false)

/-- FCLU: the cluster with the fewest streams, the lower index on a tie (R300). -/
def State.pickFclu (s : State) (cors : List Nat) : Option Nat :=
  ((List.range 16).filter (s.mayFinish cors)).foldl (fun acc c =>
    match acc with
    | some b => if s.streamsOf c < s.streamsOf b then some c else some b
    | none => some c) none

/-- Fields of a SOPEN image in their stated ranges (R286). ADID counts when ADEN is 1 (log 53). -/
def imageFieldsOk (im r : List Word) : Bool :=
  let d0 := im.getD 0 0
  let per := fld (im.getD 2 0) 0 40
  let doff := fld (im.getD 3 0) 0 40
  decide (fld d0 49 3 < slotTemplates r) && (!bit d0 32 || decide (fld d0 33 12 < fld (r.getD 3 0) 32 13)) && decide (8333333 ≤ per) &&
    decide (per ≤ 10000000000) && decide (1 ≤ doff) && decide (doff ≤ 4 * per)

/-- FCLU of a stream whose image names a slot record, its structures in order (R286, R300). -/
def State.openCluster (s : State) (im r : List Word) : EngAns Nat :=
  if imageFieldsOk im r = false then .fails s
  else
    (s.checkLadder (fld (im.getD 4 0) 0 48) (fld (im.getD 0 0) 49 3 + 1)).bind fun s _ =>
    (s.checkStructures im r).bind fun s _ =>
    (s.finalCors r).bind fun s cors =>
      match s.pickFclu cors with
      | some c => .ok s c
      | none => .fails s

/-- The code with which a SOPEN is rejected, or FCLU; none while a home holds a read of its checks. -/
def State.checkOpen (s : State) (n : Nat) (im : List Word) : Option (State × (Nat ⊕ Nat)) :=
  if (im.zip streamMasks).any fun (x, m) => x &&& ~~~m != 0 then some (s, .inl 2)
  else if s.msivOk n (fld (im.getD 7 0) 48 11) = false then some (s, .inl 6)
  else
    match s.slotRec (fld (im.getD 0 0) 55 4) with
    | .wait => none
    | .fault s _ _ => some (s, .inl 4)
    | .ok s r =>
      if slotState r ≠ 2 then some (s, .inl 4)
      else
        match s.openCluster im r with
        | .wait => none
        | .fault s _ _ => some (s, .inl 5)
        | .ok s c => some (s, .inr c)

/-- SOPEN (R286, R300, R304). -/
def State.takeSopen (s : State) (n : Nat) (e : List Word) : Option State :=
  let i := fld (e.getD 2 0) 0 10
  if (s.stream i).state ≠ 0 then s.rejectEntry n e 3
  else
    match s.readDws (fld (e.getD 3 0) 0 48) 16 with
    | .wait => none
    | .fault s _ _ => s.rejectEntry n e 5
    | .ok s im =>
      match s.checkOpen n im with
      | none => none
      | some (s, .inl code) => s.rejectEntry n e code
      | some (s, .inr c) => ((s.advanceHead n).putStream i ⟨openEntry im n c, none, false⟩).entryDone n e

/-- SCLOSE (R294, R304). -/
def State.takeSclose (s : State) (n : Nat) (e : List Word) : Option State :=
  let i := fld (e.getD 2 0) 0 10
  let t := s.stream i
  if t.state ≠ 1 then s.rejectEntry n e 3
  else
    let (s, id) := (s.advanceHead n).addCmd n e false
    (s.putStream i ({ t with closer := some id }.put 0 62 2 2)).closeStream i

/-- SUPDATE (R294, R304). -/
def State.takeSupdate (s : State) (n : Nat) (e : List Word) : Option State :=
  let d := e.getD 2 0
  let i := fld d 0 10
  let t := s.stream i
  if t.state ≠ 1 then s.rejectEntry n e 3
  else
    let t := if bit d 23 then (t.put 0 33 12 (fld d 10 12)).put 0 32 1 (fld d 22 1) else t
    let t := if bit d 24 then t.put 3 48 16 (fld (e.getD 3 0) 0 16) else t
    ((s.advanceHead n).putStream i t).entryDone n e

/-- The entry at the head of ring n is taken when its opcode is one of a kind; no answer when there is
none such, or while a home holds an access of it. -/
def State.takeEntry? (s : State) (n : Nat) (kind : Nat → Bool) (act : State → List Word → Option State) : Option State :=
  (s.headEntry n).bind fun (s, e) =>
    if kind (entryOpc e) = false then none
    else
      let c := s.entryCode n e
      if c ≠ 0 then s.rejectEntry n e c else act s e

/-- A read of the entry at a ring's head that its home has refused: the entry stays, and the home's count of the read
stands (R114, log 53). -/
def State.headRefused (s : State) (n : Nat) : Option State :=
  match s.headRead n with
  | .fault t _ _ => some t
  | _ => none

/-- The entry at the head of ring n is taken, or nothing happens but what a refused read leaves. -/
def State.takeEntry (s : State) (n : Nat) (kind : Nat → Bool) (act : State → List Word → Option State) : State :=
  (s.takeEntry? n kind act).getD ((s.headRefused n).getD s)

/-- SQ_NOP, and the entries with a reserved opcode, which are rejected (R403). -/
def State.sqNop (s : State) (n : Nat) : State :=
  s.takeEntry n (fun o => o == 0 || decide (5 < o)) fun s e => (s.advanceHead n).entryDone n e

/-- SQ_INVOKE. -/
def State.sqInvoke (s : State) (n : Nat) : State := s.takeEntry n (· == 1) fun s e => s.takeInvoke n e

/-- SQ_SOPEN. -/
def State.sqSopen (s : State) (n : Nat) : State := s.takeEntry n (· == 2) fun s e => s.takeSopen n e

/-- SQ_SCLOSE. -/
def State.sqSclose (s : State) (n : Nat) : State := s.takeEntry n (· == 3) fun s e => s.takeSclose n e

/-- SQ_SUPDATE. -/
def State.sqSupdate (s : State) (n : Nat) : State := s.takeEntry n (· == 4) fun s e => s.takeSupdate n e

/-- SQ_FENCE. -/
def State.sqFence (s : State) (n : Nat) : State := s.takeEntry n (· == 5) fun s e => s.takeFence n e

/-! ### MSI-X and SR-IOV (R307, R311, R410) -/

/-- Whether TIME has passed since a vector's oldest pending completion. -/
def State.coalesceDue (s : State) (v : Nat) : Bool :=
  let x := s.vector v
  decide (0 < x.pending) && decide (x.oldest.toNat + 1000 * x.time.toNat ≤ s.now.toNat)

/-- MSIX_COALESCE_TIMEOUT. -/
def State.msixTimeout (s : State) (v : Nat) : State := if s.coalesceDue v then s.sendMsix v else s

/-- MSIX_COALESCE_WRITE: COUNT of 0 is taken as 1 (log 53), TIME over 1,000 as 1,000. -/
def State.msixCoalesce (s : State) (v : Nat) (x : Word) : State :=
  let n := fld x 16 8
  let s := s.modVector v fun y => { y with count := BitVec.ofNat 8 (max 1 n), time := BitVec.ofNat 10 (min 1000 (fld x 0 10)) }
  if (s.vector v).full || s.coalesceDue v then s.sendMsix v else s

/-- A table entry is unmasked: a message that waits on its pending bit is sent, if its function's MSI-X is enabled. -/
def State.unmaskEntry (s : State) (fn i : Nat) : State :=
  let send := (s.entry fn i).pba && s.sched.msixEn.getD fn false
  let s := s.modEntry fn i fun x => { x with masked := false, pba := x.pba && !send }
  if send then s.sendEntry fn i else s

/-- MSIX_VECTOR_UNMASK: the entry that delivers a vector is unmasked and its function's MSI-X enabled; a held message is
sent. -/
def State.msixUnmask (s : State) (v : Nat) : State :=
  let e := s.msixEntry v
  ({ s with sched := { s.sched with msixEn := s.sched.msixEn.set e.1 true } } : State).unmaskEntry e.1 e.2

/-- SRIOV_NUMVFS_WRITE: at most seven VFs (R311; log 118). -/
def State.sriovWrite (s : State) (m : Nat) : State := { s with sched := { s.sched with numVfs := min 7 m } }

end Sys2Proof.Machine
end

