-- ==== Sys2Proof/Machine/Sched.lean ====
section
/-! DEFINITION. The dispatcher: regions and budgets, the ready pool, placement, turns, ageing and
pre-emption, the descriptor checks, launch, and adapter prefetch (R29 to R31, R35, R52, R285, R289, R290,
R295 to R301, R405, R407). -/

namespace Sys2Proof.Machine

/-! ### Regions (R295, R296) -/

/-- A budget without limit. -/
def unlimited (b : BitVec 32) : Bool := b == 0xFFFFFFFF

/-- ns of core time are charged in μs, the remainder carried. -/
def Region.chargeCore (r : Region) (ns : Nat) : Region :=
  { r with crem := (r.crem + ns) % 1000, cbal := r.cbal - ((r.crem + ns) / 1000 : Nat) }

/-- ns of codec time. -/
def Region.chargeCodec (r : Region) (ns : Nat) : Region :=
  { r with krem := (r.krem + ns) % 1000, kbal := r.kbal - ((r.krem + ns) / 1000 : Nat) }

/-- Cores that hold a job, by region. -/
def State.heldCores (s : State) : List Nat := s.cores.filterMap fun c => c.job.map fun j => descRegion j.desc

/-- Codec engines at work, by region: an enc or dec that has started (R296). -/
def State.busyCodecs (s : State) : List Nat :=
  s.cores.zipIdx.flatMap fun (c, k) =>
    (c.ops.filter fun o => cmdEngine o.op == 5 && o.phase == .running).map fun o => s.opRegion k o

/-- 5 ns of SCHTNOW are charged, and the bytes counted meanwhile. -/
def State.chargeTime (s : State) : State :=
  let s := s.heldCores.foldl (fun s r => s.modRegion r fun x => x.chargeCore 5) s
  let s := s.busyCodecs.foldl (fun s r => s.modRegion r fun x => x.chargeCodec 5) s
  s.chargeTraffic

/-- A balance after a refill. -/
def refilled (bud : BitVec 32) (bal : Int) : Int := if unlimited bud then 0 else bud.toNat + max (min bal 0) (-(bud.toNat : Int))

/-- A region after a refill. -/
def Region.refill (r : Region) : Region :=
  { r with cbal := refilled r.cbud r.cbal, bbal := refilled r.bbud r.bbal, kbal := refilled r.kbud r.kbal, refused := false }

/-- A period boundary has come. -/
def State.refillDue (s : State) : Bool := decide (s.sched.lastPeriod.toNat + 1000 * s.sched.period.toNat ≤ s.now.toNat)

/-- BUDGET_REFILL. -/
def State.budgetRefill (s : State) : State :=
  if s.refillDue then
    let p := s.sched.lastPeriod + BitVec.ofNat 64 (1000 * s.sched.period.toNat)
    { s with sched := { s.sched with regions := s.sched.regions.map Region.refill, lastPeriod := p } }
  else s

/-- Balances that are not positive, of limited budgets: bit 0 core, 1 bytes, 2 codec (R402). -/
def Region.spent (r : Region) : Nat :=
  let bad (bud : BitVec 32) (bal : Int) : Bool := !unlimited bud && decide (bal ≤ 0)
  bitsNat [bad r.cbud r.cbal, bad r.bbud r.bbal, bad r.kbud r.kbal]

/-- A region that has budget left. -/
def Region.hasBudget (r : Region) : Bool := r.spent == 0

/-- The use that turns compare (R297). -/
def Region.use (r : Region) : Int := if unlimited r.cbud then -r.cbal else r.cbud.toNat - r.cbal

/-- Whether region a has less use per weight than b. -/
def Region.lighter (a b : Region) : Bool := decide (a.use * b.weight.toNat < b.use * a.weight.toNat)

/-! ### The ready pool (R289, R291, R300, R301) -/

/-- A node of the ready pool. -/
structure Ready where
  graph : Nat
  node : Nat
  region : Nat
  stream : Nat
  key : Int
  since : Word
  size : Nat
deriving DecidableEq, Repr

/-- Gang size of a node. -/
def nodeSize (nd : List Word) : Nat := fld (nd.getD 0 0) 50 6 + 1

/-- KIND of a node. -/
def nodeKind (nd : List Word) : Bool := bit (nd.getD 0 0) 60

/-- The cores on which a node may run (R19, R300, R417). FINAL and FIN nodes of a stream have one; those of
an INVOKE, which has no FCLU, are placed as other nodes are (log 51). -/
def State.places (s : State) (g : GraphInst) (n : NodeInst) : List Nat :=
  let any := (List.range 128).filter fun k => k != 0 && isFcore k == nodeKind n.recd && !(s.dev.coreret.getD k false)
  match g.stream with
  | none => any
  | some i =>
    let c := (s.stream i).fclu
    if n.isFin then any.filter (· == 8 * c + 7)
    else if n.isFinal then any.filter (· == 8 * c + fld (n.recd.getD 0 0) 32 3)
    else any

/-- The handoff ports that a node holds while its frame needs them, in its cluster (R301). -/
def nodePorts (n : NodeInst) : List Nat :=
  let c := fld (n.recd.getD 0 0) 32 3
  if n.isFin then [14, 15] else if n.isFinal then [2 * c, 2 * c + 1] else []

/-- Another frame holds a port that a node needs (R301). -/
def State.portsTaken (s : State) (g : GraphInst) (n : NodeInst) : Bool :=
  match g.stream with
  | none => false
  | some i =>
    (nodePorts n).any fun p => match (hqAt (s.cluster (s.stream i).fclu).hq p).held with | some (h, _) => h != g.id | none => false

/-- The FIN node of an earlier frame of the stream has not completed (R300). -/
def State.finWaits (s : State) (g : GraphInst) (n : NodeInst) : Bool :=
  n.isFin && g.stream.isSome && s.sched.graphs.any fun h =>
    h.stream == g.stream && decide (h.fnum.toNat < g.fnum.toNat) && h.nodes.any fun m => m.isFin && !m.over

/-- The ready nodes that a test lets through, in key order (R289, R291). The nodes of an INVOKE, which has no stream,
stand behind those of every stream with the same key, by node index, and two of one index as their instances were made
(log 132). -/
def State.readyNodes (s : State) (may : GraphInst → NodeInst → Bool) : List Ready :=
  let rs := s.sched.graphs.flatMap fun g =>
    (g.nodes.zipIdx.filter fun x => (x.1.phase == .ready || x.1.phase == .saved) && may g x.1).map fun (n, i) =>
      (⟨g.id, i, g.region, g.stream.getD 1024, g.key, n.readyAt, if n.phase = .saved then n.saved.length else nodeSize n.recd⟩ : Ready)
  sortBy (fun a b => decide (a.key < b.key ∨ (a.key = b.key ∧ (a.stream < b.stream ∨ (a.stream = b.stream ∧ a.node ≤ b.node))))) rs

/-- The ready nodes that neither their ports nor the FIN order keep from a dispatch (R297, R300, R301). -/
def State.readyPool (s : State) : List Ready := s.readyNodes fun g n => !s.portsTaken g n && !s.finWaits g n

/-- The node of a pool entry. -/
def State.readyNode (s : State) (r : Ready) : Option (GraphInst × NodeInst) :=
  (s.graph? r.graph).bind fun g => (g.nodes[r.node]?).map fun n => (g, n)

/-- Free cores on which a node may run. -/
def State.freeFor (s : State) (r : Ready) : List Nat :=
  match s.readyNode r with
  | some (g, n) => (s.places g n).filter fun k => (s.core k).job.isNone
  | none => []

/-- User cores of a kind (R30, R417). -/
def State.userCores (s : State) (fcore : Bool) : Nat :=
  ((List.range 128).filter fun k => k != 0 && isFcore k == fcore && !(s.dev.coreret.getD k false)).length

/-- A node that no set of cores can serve: of its kind, or of its place, which may have been retired (R30, R417). -/
def State.misfit (s : State) (g : GraphInst) (n : NodeInst) : Bool :=
  (n.isFinal && nodeKind n.recd) || (n.isFin && !nodeKind n.recd) || decide (s.userCores (nodeKind n.recd) < nodeSize n.recd) ||
    decide ((s.places g n).length < nodeSize n.recd)

/-- A node can be dispatched now: enough free cores, or none needed because it will be rejected. -/
def State.canDispatch (s : State) (r : Ready) : Bool :=
  decide (r.size ≤ (s.freeFor r).length) || (match s.readyNode r with | some (g, n) => s.misfit g n | none => false)

/-! ### Descriptors (R29, R30, R289) -/

/-- What the scheduler replaces in a descriptor template (R285, R289), every other bit as it stands: RELOC names the 16
records that it has built, RUCK the Rucksack (log 106). -/
def fillDesc (t : List Word) (job : BitVec 32) (rank size region slot : Nat) (kind : Bool) (stream : Option Nat) (gang : BitVec 16) : List Word :=
  let d0 := t.getD 0 0
  let d1 := t.getD 1 0
  let x0 := (d0 &&& 0x000F0FFF00000000) ||| at' 58 rank ||| at' 52 (size - 1) ||| at' 45 region ||| bitAt 44 kind ||| job.setWidth 64
  let x1 := (d1 &&& 0x000003FF0000FFFF#64) ||| (d1 &&& 0x7F00000000000000#64) ||| at' 52 slot ||| at' 42 (stream.getD 0) |||
    at' 16 (if size = 1 then 0 else gang.toNat)
  let va (i n : Nat) : Word := (t.getD i 0 &&& 0xFFFF000000000000#64) ||| BitVec.ofNat 64 n
  (((t.set 0 x0).set 1 x1).set 5 (va 5 relocVa)).set 6 (va 6 0x8E0000000000)

/-- The check of R30 that a descriptor fails first, 1 to 4; 0 when it passes them. Of the addresses, IMAGE and RUCK are
to be aligned to 4 KiB and SOFF to 4 bytes, as R29 says, and VIEWTAB to 8 bytes; RANGETAB and PRESV may stand anywhere
(log 106). -/
def descCheck (d : List Word) (misfit : Bool) : Nat :=
  let mask := fld (d.getD 0 0) 32 12
  let high (i : Nat) : Bool := fld (d.getD i 0) 48 16 != 0
  let stray := [2, 3, 4, 5, 6, 7].any high || fld (d.getD 1 0) 56 7 != 0 || fld (d.getD 1 0) 32 10 != 0 || fld (d.getD 1 0) 0 16 != 0 ||
    [20, 21, 22, 23].any fun i => d.getD i 0 != 0
  let started := (List.range 12).filter fun p => mask / 2 ^ p % 2 = 1
  let soff := started.any fun p => fld (d.getD (8 + p) 0) 0 2 != 0
  let strm := started.any fun p =>
    let x := d.getD (8 + p) 0
    decide (fld x 48 16 < 2) || decide (6144 < fld x 48 16) || decide (fld x 48 16 ≤ fld x 32 16)
  if mask = 0 then 1
  else if misfit then 2
  else if fld (d.getD 2 0) 0 12 ≠ 0 ∨ fld (d.getD 6 0) 0 12 ≠ 0 ∨ fld (d.getD 3 0) 0 3 ≠ 0 ∨ stray ∨ soff then 3
  else if strm then 4
  else 0

/-- The 16 relocation records of a job (R285). -/
def relocs (bufs : List (Word × Word)) (ria : Addr) (slot : List Word) : List FtbEntry :=
  let win (b : Nat) : Nat := 0x800000000000 + b * 0x10000000000
  let entry (b ia z : Nat) (attr : Word) : FtbEntry := ⟨at' 0 (win b), at' 0 (win b + z - 1), at' 0 ia, attr⟩
  (List.range 14).map (fun b =>
    match bufs[b]? with
    | some (d, z) => entry b (fld d 0 48) z.toNat (bitAt 63 true ||| bitAt 61 true ||| bitAt 60 (bit d 63) ||| bitAt 59 (bit d 62) ||| at' 57 (fld d 60 2))
    | none => ⟨0, 0, 0, 0⟩) ++
  [entry 14 ria.toNat 0x800000 (bitAt 63 true ||| bitAt 61 true ||| bitAt 60 true ||| bitAt 59 true),
    entry 15 (slotSia slot) (slotSize slot) (bitAt 63 true ||| bitAt 61 true)]

/-- The IA window of the pool for the next Rucksack: 8 MiB at a page, below IA 0xC000_0000_0000 (R285, log 54). -/
def State.takePool (s : State) : State × Addr :=
  ({ s with sched := { s.sched with pool := s.sched.pool + 1 } }, BitVec.ofNat 48 (Config.poolPage s.sched.pool % (12 * 2 ^ 32 - 2047) * 4096))

/-- The next JOBID; 0 is none. -/
def State.takeJob (s : State) : State × BitVec 32 :=
  let j := s.sched.nextJob
  ({ s with sched := { s.sched with nextJob := if j + 1 = 0 then 1 else j + 1 } }, j)

/-- The next GANGID; 0 is none. -/
def State.takeGang (s : State) : State × BitVec 16 :=
  let j := s.sched.nextGang
  ({ s with sched := { s.sched with nextGang := if j + 1 = 0 then 1 else j + 1 } }, j)

/-! ### Dispatch (R30, R35, R285, R301) -/

/-- Every member of a node that has not started is rejected, and the node counts as ended (R30, R405). -/
def State.rejectNode (s : State) (g n : Nat) (descs : List (List Word)) (sub : Nat) : Option State :=
  let s := descs.foldl (fun s d => s.logJob d g 2 sub) s
  s.nodeDone g n

/-- The ports of a FINAL or FIN node are held by its frame from its dispatch on (R301). -/
def State.holdPorts (s : State) (g : GraphInst) (n : NodeInst) (node : Nat) : State :=
  match g.stream with
  | none => s
  | some i =>
    s.modCluster (s.stream i).fclu fun c =>
      { c with hq := c.hq.mapIdx fun p q => if (nodePorts n).contains p then { q with held := some (g.id, node) } else q }

/-- The members of a node take their cores (R31, R35). -/
def State.takeCores (s : State) (g node : Nat) (ms : List (Nat × List Word × Addr × List FtbEntry)) : State :=
  let s := ms.foldl (fun s (k, d, ria, rel) => s.loadJob k ⟨d, .launching, g, node, ria, rel, 0⟩) s
  s.modNode g node fun n => { n with phase := .running, live := ms.length }

/-- n bytes of the slot area at an offset, as a job sees them through FTB entry 15 (R100, R285). -/
def State.readSlotArea (s : State) (slot : List Word) (off n : Nat) : EngAns (List Byte) :=
  s.readWindows ((relocs [] 0 slot).map fun e => e.loaded true) (0x8F0000000000 + off) n

/-- A slot record at a dispatch; one that cannot be read counts as zero, which names no resident slot (log 50). -/
def State.slotNow (s : State) (slot : Nat) : EngAns (List Word) :=
  match s.slotRec slot with
  | .fault s _ _ => .ok s (List.replicate 8 0)
  | a => a

/-- A descriptor template (R289); one that cannot be read counts as zero, and fails the first check of R30 (log 50). -/
def State.descTemplate (s : State) (slot : List Word) (off : Nat) : EngAns (List Word) :=
  match s.readSlotArea slot off 192 with
  | .wait => .wait
  | .fault s _ _ => .ok s (List.replicate 24 0)
  | .ok s b => .ok s (dwsOf b 24)

/-- A node that has not run is dispatched on cores (R30, R289). -/
def State.dispatchFresh (s : State) (g : GraphInst) (n : NodeInst) (node : Nat) (cores : List Nat) : Option State :=
  let size := nodeSize n.recd
  match (s.slotNow g.slot).bind fun s r => (s.descTemplate r (fld (n.recd.getD 0 0) 0 32)).bind fun s t => .ok s (r, t) with
  | .wait => none
  | .fault _ _ _ => none
  | .ok s (r, t) =>
    let (s, gang) := if size = 1 then (s, 0) else s.takeGang
    let mk (acc : State × List (List Word)) (i : Nat) : State × List (List Word) :=
      let (s, job) := acc.1.takeJob
      (s, acc.2 ++ [fillDesc t job i size g.region g.slot (nodeKind n.recd) g.stream gang])
    let (s, descs) := (List.range size).foldl mk (s, [])
    let sub := match (descs.map fun d => descCheck d (s.misfit g n)).find? (· ≠ 0) with
      | some x => x
      | none => if slotState r = 2 ∨ slotState r = 3 then 0 else 6
    if sub ≠ 0 then s.rejectNode g.id node descs sub
    else
      let mem (acc : State × List (Nat × List Word × Addr × List FtbEntry)) (x : Nat × List Word) :=
        let (s, ria) := acc.1.takePool
        (s, acc.2 ++ [(x.1, x.2, ria, relocs g.bufs ria r)])
      let (s, ms) := (cores.zip descs).foldl mem (s, [])
      some ((s.takeCores g.id node ms).holdPorts g n node)

/-- The saved members of a node are rejected, and the node counts as ended (R30, R405). -/
def State.rejectSaved (s : State) (g : Nat) (n : NodeInst) (node sub : Nat) : Option State :=
  let s := n.saved.foldl (fun s sv => s.logJob sv.desc g 2 sub) s
  (s.modNode g node fun x => { x with saved := [] }).nodeDone g node

/-- The saved member of lowest GRK. -/
def NodeInst.lowest (n : NodeInst) : Option SavedJob :=
  (sortBy (fun (a b : SavedJob) => decide (descRank a.desc ≤ descRank b.desc)) n.saved).head?

/-- A saved node is dispatched again (R36, R52): its members keep their descriptors and images. The checks of R30 that
can fail here are the second, the fifth of the member of lowest GRK before the sixth, and the sixth. -/
def State.dispatchSaved (s : State) (g : GraphInst) (n : NodeInst) (node : Nat) (cores : List Nat) : Option State :=
  match s.slotNow g.slot with
  | .wait => none
  | .fault _ _ _ => none
  | .ok s r =>
    if s.misfit g n then s.rejectSaved g.id n node 2
    else if slotState r = 2 ∨ slotState r = 3 then
      some (s.takeCores g.id node ((cores.zip n.saved).map fun (k, sv) => (k, sv.desc, sv.ria, sv.reloc)))
    else
      match n.lowest with
      | none => s.rejectSaved g.id n node 6
      | some sv =>
        match sv.image (ctxOf (if nodeKind n.recd then 7 else 0) 0).macroCount s.mem with
        | .wait => none
        | .bad m => ({ s with mem := m } : State).rejectSaved g.id n node 5
        | .ok m _ => ({ s with mem := m } : State).rejectSaved g.id n node 6

/-- A node of the pool is dispatched: on as many cores as it has members, or to be rejected (R35). -/
def State.dispatch (s : State) (r : Ready) : Option State :=
  (s.readyNode r).bind fun (g, n) =>
    let cores := (s.freeFor r).take r.size
    if s.canDispatch r = false then none
    else if n.phase = .saved then s.dispatchSaved g n r.node cores else s.dispatchFresh g n r.node cores

/-! ### Turns (R297, R407) -/

/-- The regions that a turn refuses for the first time in a period log BUDGET (R407). -/
def State.refuse (s : State) (pool : List Ready) : State :=
  (List.range 8).foldl (fun s n =>
    let r := s.region n
    if r.en && !r.hasBudget && !r.refused && pool.any fun x => x.region == n then
      (s.logFailure n 9 r.spent none 0 0).modRegion n fun x => { x with refused := true }
    else s) s

/-- A node that has waited T_grace. -/
def State.isAged (s : State) (r : Ready) : Bool := decide (r.since.toNat + 1000 * s.sched.grace.toNat ≤ s.now.toNat)

/-- The oldest of a list of nodes. -/
def oldest (rs : List Ready) : Option Ready :=
  rs.foldl (fun acc r => match acc with | some o => if r.since.toNat < o.since.toNat then some r else some o | none => some r) none

/-- Running jobs that fit a node's placement and may be pre-empted for it, those of the regions with the
greatest use first. -/
def State.victims (s : State) (r : Ready) (aged : List Nat) : List Nat :=
  match s.readyNode r with
  | none => []
  | some (g, n) =>
    let reg (k : Nat) : Nat := match (s.core k).job with | some j => descRegion j.desc | none => 0
    let run := (s.places g n).filter fun k =>
      match (s.core k).job with | some j => j.phase == .running && !aged.contains (descRegion j.desc) | none => false
    sortBy (fun a b => !((s.region (reg a)).lighter (s.region (reg b)))) run

/-- Cores of a node's placement that are being freed already. -/
def State.coming (s : State) (r : Ready) : Nat :=
  match s.readyNode r with
  | none => 0
  | some (g, n) => ((s.places g n).filter fun k =>
      match (s.core k).job with | some j => j.phase == .preempting || j.phase == .hardStop | none => false).length

/-- Pre-emption requests until enough cores of a node's placement are free or coming. -/
def State.evict (r : Ready) : List Nat → State → State
  | [], s => s
  | k :: ks, s =>
    let s := if (s.freeFor r).length + s.coming r < r.size then s.preemptRequest k else s
    State.evict r ks s

/-- What a turn does once its regions are known. -/
def State.turn (s : State) (pool : List Ready) : Option State :=
  let live := pool.filter fun x => (s.region x.region).en && (s.region x.region).hasBudget
  let old := live.filter s.isAged
  match oldest old with
  | some r =>
    let mine := (oldest (live.filter fun x => x.region == r.region)).getD r
    if s.canDispatch mine then s.dispatch mine else some (State.evict mine (s.victims mine (old.map Ready.region)) s)
  | none =>
    let firsts := (List.range 8).filterMap fun n => (live.filter fun x => x.region == n).find? s.canDispatch
    let best := firsts.foldl (fun acc r =>
      match acc with
      | some b => if (s.region r.region).lighter (s.region b.region) then some r else some b
      | none => some r) (none : Option Ready)
    match best with
    | some r => s.dispatch r
    | none => some s

/-! ### Prefetch (R290, R299) -/

/-- Lines of n bytes at an IA. -/
def linesAt (ia n : Nat) : List Addr := (List.range ((ia % 128 + n + 127) / 128)).map fun i => BitVec.ofNat 48 (ia / 128 * 128 + 128 * i)

/-- A line is prefetched into the LLC (R218). A prefetch that its home refuses or holds is not made (log 23). -/
def Memory.prefetchLine (m : Memory) (a : Addr) : Memory := (m.request a .rd 128 0).1

/-- Lines are prefetched into the LLC. -/
def State.prefetchLines (s : State) (ls : List Addr) : State := { s with mem := ls.foldl Memory.prefetchLine s.mem }

/-- The lines of a tile operand with PF, as far as the windows of its instance map them (R218, R285, R290). -/
def tileLines (g : GraphInst) (slot : List Word) (r : List Byte) : List Addr :=
  let d := blockDw r 0
  let win := (relocs g.bufs 0 slot).map fun e => e.loaded true
  let va := 0x800000000000 + fld d 60 4 * 0x10000000000 + fld d 0 40
  if bit d 59 then
    (linesAt va (fld (blockDw r 1) 0 32)).filterMap fun a => match ftbLookup win a .rd with | .ok ia _ => some ia | _ => none
  else []

/-- The PF tile operands of a node that has become ready (R290); nothing happens while a record of them is held. -/
def State.prefetchTiles (s : State) (g : GraphInst) (i : Nat) (n : NodeInst) : State :=
  match (s.slotRec g.slot).bind fun s slot => (s.tileRecs g n).bind fun s rs => .ok s (slot, rs.2) with
  | .wait => s
  | .fault s _ _ => s.modNode g.id i fun m => { m with prefetched := true }
  | .ok s (slot, rs) => (s.prefetchLines (rs.flatMap (tileLines g slot))).modNode g.id i fun m => { m with prefetched := true }

/-- Every ready node's tiles are prefetched, once. -/
def State.prefetchReady (s : State) : State :=
  s.sched.graphs.foldl (fun s g =>
    (g.nodes.zipIdx.filter fun x => x.1.phase == .ready && !x.1.prefetched).foldl (fun s x => s.prefetchTiles g x.2 x.1) s) s

/-- The matrices of the adapter of a node's stream, if its entry is valid (R299). -/
def State.adapterLines (s : State) (g : GraphInst) : EngAns (List Addr) :=
  (s.slotRec g.slot).bind fun s slot =>
    if fld (slot.getD 3 0) 32 13 ≤ g.adid.toNat then .ok s []
    else
      (s.readDws (slotSia slot + fld (slot.getD 3 0) 0 32 + 32 * g.adid.toNat) 4).bind fun s e =>
        let z := fld (e.getD 2 0) 0 32
        .ok s (if bit (e.getD 0 0) 63 then
            linesAt (slotSia slot + fld (e.getD 0 0) 0 40) z ++ linesAt (slotSia slot + fld (e.getD 1 0) 0 40) z
          else [])

/-- A node of the pool has its stream's adapter prefetched, once per stream and frame (R299). -/
def State.prefetchAdapter (s : State) (r : Ready) : State :=
  match s.readyNode r with
  | none => s
  | some (g, n) =>
    if g.adapted || !g.aden || !bit (n.recd.getD 0 0) 56 then s
    else
      match s.adapterLines g with
      | .wait => s
      | .fault s _ _ => s.modGraph g.id fun x => { x with adapted := true }
      | .ok s ls => (s.prefetchLines ls).modGraph g.id fun x => { x with adapted := true }

/-- A turn may begin: T_turn has passed, and the firmware core runs (R297, R418). -/
def State.turnDue (s : State) : Bool :=
  s.dev.booted && !s.dev.fwhalt && decide (s.sched.lastTurn.toNat + 2000 ≤ s.now.toNat)

/-- DISPATCH_TURN. -/
def State.dispatchTurn (s : State) : State :=
  if s.turnDue = false then s
  else
    let pool := s.readyPool
    let s := ((s.readyNodes fun _ _ => true).take s.sched.lookahead.toNat).foldl State.prefetchAdapter s.prefetchReady
    let s := s.refuse pool
    let s := (s.turn pool).getD s
    { s with sched := { s.sched with lastTurn := s.now } }

/-! ### The end of a launch (R30, R31, R35, R52, R405, R425) -/

/-- The image that a member resumes from. -/
def State.savedOf (s : State) (j : Job) : Option SavedJob :=
  ((s.graph? j.inst).bind fun g => g.nodes[j.node]?).bind fun n => n.saved.find? fun x => descJob x.desc == descJob j.desc

/-- A member's FTB is loaded from RELOC, and its program is loaded or its image restored. Records that cannot be read are rejected as a read
of the program is (log 50). -/
def State.launchMember (s : State) (k : Nat) : LaunchAns :=
  match (s.core k).job with
  | none => .ok s
  | some j =>
    let resumed := bit (j.desc.getD 1 0) 63
    match s.loadReloc k j with
    | .wait => .wait
    | .fault s _ _ => .reject s (if resumed then 5 else 3)
    | .ok s _ =>
      if resumed then
        match s.savedOf j with
        | some sv => s.launchSaved k sv
        | none => .reject s 5
      else s.launchFresh k

/-- The members of a gang are loaded one after another, lowest rank first; the first failure is the gang's. -/
def launchMembers : List Nat → State → LaunchAns
  | [], s => .ok s
  | k :: ks, s =>
    match s.launchMember k with
    | .ok s => launchMembers ks s
    | a => a

/-- Every member begins to issue in the same ACLK. -/
def State.startMembers (s : State) (ks : List Nat) : State :=
  ks.foldl (fun s k =>
    match (s.core k).job with
    | some j =>
      let s := s.modNode j.inst j.node fun n => { n with saved := n.saved.filter fun x => descJob x.desc != descJob j.desc }
      s.modCore k fun c => { c with job := some { j with phase := .running }, sh0 := c.sh }
    | none => s) s

/-- A gang is rejected whole (R30). -/
def State.rejectGang (s : State) (ks : List Nat) (sub : Nat) : Option State :=
  ks.foldl (fun acc k =>
    acc.bind fun s =>
      let s := match (s.core k).job with
        | some j => s.modNode j.inst j.node fun n => { n with saved := n.saved.filter fun x => descJob x.desc != descJob j.desc }
        | none => s
      s.rejectLive k sub) (some s)

/-- JOB_LAUNCH_COMPLETE: the launch of core k's job and of its gang, which is asked to stop at once when a core of it has
been retired meanwhile (R417); no answer while it cannot end. -/
def State.launch? (s : State) (k : Nat) : Option State :=
  match (s.core k).job with
  | none => none
  | some j =>
    if j.phase ≠ .launching then none
    else
      let rank (i : Nat) : Nat := match (s.core i).job with | some x => descRank x.desc | none => 0
      let ks := sortBy (fun a b => decide (rank a ≤ rank b)) (s.gangOf k)
      match launchMembers ks s with
      | .wait => none
      | .ok s => some (ks.foldl (fun s i => if s.dev.coreret.getD i false && !s.dev.fwhalt then s.preemptRequest i else s) (s.startMembers ks))
      | .reject s sub => s.rejectGang ks sub

/-- JOB_LAUNCH_COMPLETE; nothing happens while the launch cannot end. -/
def State.jobLaunchComplete (s : State) (k : Nat) : State := (s.launch? k).getD s

end Sys2Proof.Machine
end

