-- ==== Sys2Proof/Machine/Patch.lean ====
section
/-! DEFINITION. The patch engine of the firmware core: the reply written into live state or into an image,
and what ACT then does (R355 to R358, R370). -/

namespace Sys2Proof.Machine

/-! ### Entries and destinations (R355, R357) -/

/-- A retry-ring entry, DW0 to DW7. -/
structure RingEntry where
  dw : List Word
deriving DecidableEq, Repr

/-- Doubleword i. -/
def RingEntry.at (e : RingEntry) (i : Nat) : Word := e.dw.getD i 0
/-- V. -/
def RingEntry.valid (e : RingEntry) : Bool := bit (e.at 0) 63
/-- KIND. -/
def RingEntry.kind (e : RingEntry) : Nat := fld (e.at 0) 60 3
/-- PRT. -/
def RingEntry.prt (e : RingEntry) : Nat := fld (e.at 0) 56 4
/-- UNIT. -/
def RingEntry.unit (e : RingEntry) : Nat := fld (e.at 0) 50 6
/-- JOBID. -/
def RingEntry.job (e : RingEntry) : BitVec 32 := (e.at 0).setWidth 32
/-- RIA. -/
def RingEntry.ria (e : RingEntry) : Addr := (e.at 2).setWidth 48
/-- SEQ. -/
def RingEntry.seq (e : RingEntry) : Nat := fld (e.at 5) 0 32
/-- Offset of a gath element in the register space. -/
def RingEntry.off (e : RingEntry) : Nat := fld (e.at 4) 0 18
/-- Bytes of a gath element, cut at the end of the register space. -/
def RingEntry.size (e : RingEntry) : Nat := min (fld (e.at 4) 32 32) (regEnd - e.off)

/-- Bytes of the reply (R356). -/
def RingEntry.reply (e : RingEntry) : Nat := if e.kind = 3 then e.size else if e.kind = 4 then 24 else 128

/-- The values that a reply gives to res, res1 and flag. -/
def RingEntry.values (e : RingEntry) (x : Nat) : List (Nat × Slot) :=
  if e.kind = 4 then [(3, ⟨BitVec.ofNat 8192 (x % 2 ^ 64), false, false⟩), (4, ⟨BitVec.ofNat 8192 (x / 2 ^ 64 % 2 ^ 64), false, false⟩),
      (5, ⟨BitVec.ofNat 8192 (x / 2 ^ 128 % 2 ^ 64), false, false⟩)]
  else [(3, ⟨BitVec.ofNat 8192 x, false, false⟩)]

/-- A value that carries the poison of an entry (R351). -/
def Slot.carries (s : Slot) (seq : Nat) : Bool := s.psn && s.bits.toNat % 2 ^ 32 == seq

/-- Values replaced among the latches of a unit. -/
def UnitRegs.patch (r : UnitRegs) (vs : List (Nat × Slot)) : UnitRegs := vs.foldl (fun r (i, x) => r.setValue i x) r

/-- Values replaced in a result in flight, where it writes them. -/
def Fly.patch (f : Fly) (vs : List (Nat × Slot)) : Fly :=
  let get (i : Nat) (old : Option Slot) : Option Slot := old.map fun o => match vs.find? fun v => v.1 == i with | some v => v.2 | none => o
  { f with res := get 3 f.res, res1 := get 4 f.res1, flag := get 5 f.flag }

/-- A partition after a reply: the latch and the hold entries that carry the entry's INDEX (R357). -/
def Partition.patch (q : Partition) (u : UnitName) (seq : Nat) (vs : List (Nat × Slot)) : Partition :=
  let r := q.unit u
  let q := if r.res.carries seq then q.setUnit u (r.patch vs) else q
  { q with fly := q.fly.map fun f =>
      if f.unit == u && (match f.res with | some x => x.carries seq | none => false) then f.patch vs else f }

/-- A reply in live state. -/
def Core.patch (c : Core) (k : Nat) (e : RingEntry) (x : Nat) : Core :=
  if e.kind = 3 then c.modSh fun h => regWrite h e.off e.size x false
  else
    match (ctxOf k e.prt).unitOf (BitVec.ofNat 6 e.unit) with
    | some u => c.modPrt e.prt fun q => q.patch u e.seq (e.values x)
    | none => c

/-! ### A reply in an image (R348 to R350, R357) -/

/-- n bytes of memory in place of others; a status when the write faults. -/
def putPiece (ria : Addr) (job : BitVec 32) (m : Memory) (off : Nat) (bs : List Byte) : ReadAns Unit :=
  match m.writeBytes (ria + BitVec.ofNat 48 off) bs.length (bytesNat bs) job with
  | (m, .go _ _) => .ok m ()
  | (m, .fault _) => .bad m
  | (_, .wait) => .wait

/-- Bytes of a list replaced from a place on. -/
def putBytes (bs : List Byte) (pos : Nat) (new : List Byte) : List Byte := bs.take pos ++ new ++ bs.drop (pos + new.length)

/-- A bit of the doubleword at a place cleared. -/
def clearBitAt (bs : List Byte) (pos b : Nat) : List Byte := putBytes bs pos (natBytes 8 (putBit (dwAt bs pos) b false).toNat)

/-- A record's latches after a reply. -/
def patchLatches (p : Nat) (bs : List Byte) (r : RecordPlace) (vs : List (Nat × Slot)) : List Byte :=
  r.vals.foldl (fun bs (i, pos) =>
    match vs.find? fun v => v.1 == i with
    | some v => clearBitAt (putBytes bs pos (natBytes (valueWidth p r.u i) v.2.bits.toNat)) (r.head + 8) i
    | none => bs) bs

/-- A hold entry after a reply. -/
def patchHold (p : Nat) (u : UnitName) (bs : List Byte) (h : Nat) (vs : List (Nat × Slot)) : List Byte :=
  let w := latchWidth (prtWidth p) u
  ((holdValues w (dwAt bs h)).zipIdx).foldl (fun bs ((i, off), n) =>
    match vs.find? fun v => v.1 == i with
    | some v => clearBitAt (putBytes bs (h + off) (natBytes w v.2.bits.toNat)) h (49 + n)
    | none => bs) bs

/-- An area after a reply (R357). -/
def patchArea (x : Ctx) (p : Nat) (u : UnitName) (seq : Nat) (vs : List (Nat × Slot)) (bs : List Byte) : List Byte :=
  match (recordPlaces p bs (recordKeys x) 0).find? fun r => r.u == u with
  | none => bs
  | some r =>
    let w := latchWidth (prtWidth p) u
    let here (pos : Nat) (psn : Bool) : Bool := (slotAt bs pos w psn).carries seq
    let latch := match r.vals.find? fun v => v.1 == 3 with | some v => here v.2 (bit (dwAt bs (r.head + 8)) 3) | none => false
    let bs1 := if latch then patchLatches p bs r vs else bs
    r.holds.foldl (fun b h => if bit (dwAt bs h) 52 && here (h + 16) (bit (dwAt bs h) 49) then patchHold p u b h vs else b) bs1

/-- A reply in the image of a saved job. -/
def patchImage (e : RingEntry) (x : Nat) (m : Memory) : ReadAns Unit :=
  let rd := readPiece e.ria e.job
  if e.kind = 3 then
    let lo := e.off / 8
    let n := (e.off + e.size + 7) / 8 - lo
    (putPiece e.ria e.job m (0x7A000 + e.off) (natBytes e.size x)).bind fun m _ =>
      (rd m (0x1CC000 + lo) n).bind fun m bs =>
        let bs := bs.zipIdx.map fun (b, i) =>
          (List.range 8).foldl (fun b j => if e.off ≤ 8 * (lo + i) + j ∧ 8 * (lo + i) + j < e.off + e.size then putBit b j false else b) b
        putPiece e.ria e.job m (0x1CC000 + lo) bs
  else
    let c : Ctx := ⟨prtKind e.prt, false, false⟩
    match c.unitOf (BitVec.ofNat 6 e.unit) with
    | none => .ok m ()
    | some u =>
      let off := areaOffset e.prt 0
      (rd m off 0x8000).bind fun m bs => putPiece e.ria e.job m off (patchArea c e.prt u e.seq (e.values x) bs)

/-! ### The engine (R356 to R358) -/

/-- What a patch operation comes to: the state after it, a status, or a wait. -/
inductive PatchAns where
  | ok (s : State)
  | status (s : State) (st : BitVec 8) (va : Word)
  | wait

/-- The job's count of valid entries falls by 1 (R355). -/
def State.dropValid (s : State) (job : BitVec 32) : State :=
  match s.whereIs job with
  | .live k => s.modCore k fun c => { c with ringValid := c.ringValid - 1 }
  | .saved g n i _ => s.modNode g n fun x => { x with saved := x.saved.mapIdx fun j y => if j = i then { y with ringValid := y.ringValid - 1 } else y }
  | .gone => s

/-- A job is being restored, and a patch waits for it (R357). -/
def State.restoring (s : State) (job : BitVec 32) : Bool :=
  s.cores.any fun c => match c.job with | some j => descJob j.desc == job && j.phase == .launching | none => false

/-- The reply goes to its destination (R357). -/
def State.placeReply (s : State) (e : RingEntry) (x : Nat) : PatchAns :=
  match s.whereIs e.job with
  | .gone => .ok s
  | .live k => .ok (s.modCore k fun c => c.patch k e x)
  | .saved _ _ _ _ =>
    match patchImage e x s.mem with
    | .ok m _ => .ok { s with mem := m }
    | .bad m => .status { s with mem := m } stEcc (e.ria.setWidth 64)
    | .wait => .wait

/-- The patch of a non-zero ENTRY (R357). -/
def State.patchEntry (s : State) (o : EngineOp) (ia : Nat) : PatchAns × Nat :=
  match s.mem.devRead ia 64 with
  | (_, .wait) => (.wait, 0)
  | (m, .fault st) => (.status { s with mem := m } st (BitVec.ofNat 64 ia), 0)
  | (m, .ok y _) =>
    let s := { s with mem := m }
    let e : RingEntry := ⟨(List.range 8).map fun i => BitVec.ofNat 64 (y / 2 ^ (64 * i))⟩
    if e.job ≠ (o.dw 0).setWidth 32 ∨ e.valid = false then (.status s stHbad (BitVec.ofNat 64 ia), 0)
    else
      match s.engReadClean 0 (fld (o.dw 2) 0 48) e.reply with
      | .wait => (.wait, 0)
      | .fault s st va => (.status s st va, 0)
      | .ok s x =>
        match s.placeReply e x with
        | .ok s =>
          match s.mem.devWrite ia 8 (fld (e.at 0) 0 63) with
          | (_, .wait) => (.wait, 0)
          | (m, .fault st) => (.status { s with mem := m } st (BitVec.ofNat 64 ia), 0)
          | (m, .go _ _) => (.ok ({ s with mem := m }.dropValid e.job), e.prt)
        | a => (a, 0)

/-- What ACT does on partition p of a live job; none while an end of the job must wait (R358). -/
def State.actLive (s : State) (k p act : Nat) : Option State :=
  let q := (s.core k).prt p
  match act, q.trap with
  | 1, some _ => some (s.modPrt k p Partition.reissue)
  | 2, some _ => some (s.modCore k fun c => c.restart p)
  | 3, t => s.endLive? k (match t with | some t => t.cause.toNat | none => 0)
  | _, _ => some s

/-- What ACT does on partition p of a saved job (R358): a stop kind of 2 becomes 5, or the job is dropped. -/
def State.actSaved (s : State) (g n i : Nat) (j : SavedJob) (p act : Nat) : Option State :=
  let job := descJob j.desc
  let off := 0x804 + 256 * p
  match act with
  | 2 =>
    match readPiece j.ria job s.mem off 4 with
    | .wait => none
    | .bad m => some { s with mem := m }
    | .ok m bs =>
      if bytesNat bs = 2 then
        match putPiece j.ria job m off (natBytes 4 5) with
        | .wait => none
        | .bad m => some { s with mem := m }
        | .ok m _ => some { s with mem := m }
      else some { s with mem := m }
  | 3 => s.endSaved g n i j (match j.parts[p]? with | some b => b.cause.toNat | none => 0)
  | _ => some s

/-- What ACT does (R358). -/
def State.patchAct (s : State) (job : BitVec 32) (p act : Nat) : Option State :=
  match s.whereIs job with
  | .live k => s.actLive k p act
  | .saved g n i j => s.actSaved g n i j p act
  | .gone => some s

/-- The block of a patch with a bit set that is defined as zero (R356, R380). -/
def patchStray (b : List Byte) : Bool :=
  let masks : List Word := [0xC0000FFFFFFFFFFF, lowMask 48, lowMask 48] ++ List.replicate 13 0
  blockStray b masks

/-- The patch operation that is to run: the head of engine 7's queue on the firmware core. -/
def State.patchHead (s : State) : Option EngineOp :=
  (s.core 0).ops.find? fun o => o.op == .patch

/-- A patch operation whose ACT is as given runs and completes; no answer while there is none, or while it
waits. -/
def State.patch? (s : State) (act : Nat) : Option State :=
  match s.patchHead with
  | none => none
  | some o =>
    let job : BitVec 32 := (o.dw 0).setWidth 32
    let fail (s : State) (st : BitVec 8) (va : Word) : Option State := s.finishOp 0 (o.settle st va 0)
    if !o.forked || !(s.core 0).paced 7 || fld (o.dw 0) 62 2 != act || s.restoring job then none
    else
      let s := s.modCore 0 fun c => { c with paceAge := c.paceAge.set 7 0 }
      if patchStray o.block then fail s stHbad 0
      else
        let ia := fld (o.dw 1) 0 48
        let r : PatchAns × Nat := if ia = 0 then (.ok s, fld (o.dw 0) 40 4) else s.patchEntry o ia
        match r.1 with
        | .wait => none
        | .status s st va => fail s st va
        | .ok s => (s.patchAct job r.2 act).bind fun s => s.finishOp 0 o

/-- PATCH_APPLY with an ACT; nothing happens while no such operation can run. -/
def State.patchApply (s : State) (act : Nat) : State := (s.patch? act).getD s

end Sys2Proof.Machine
end

