-- ==== Sys2Proof/Machine/Device.lean ====
section
/-! DEFINITION. The part around its cores: boot, power and clocks, sensors, links, measurements, telemetry,
requests that reach homes from outside, the handoff queues' delay, and the retirement of units (R17, R75,
R107, R110, R115, R278, R308 to R310, R315, R316, R319 to R323, R344, R384, R387, R400, R412 to R417). -/

namespace Sys2Proof.Machine

/-- Change the device's registers. -/
def State.modDev (s : State) (f : Device → Device) : State := { s with dev := f s.dev }

/-- A number up to a greatest value of n bits. -/
def satInc {n : Nat} (x : BitVec n) : BitVec n := if x.toNat + 1 < 2 ^ n then x + 1 else x

/-! ### Measured boot (R315, R316, R415) -/

/-- The first check of the boot ROM that fails, as BOOTST; 0 when none does (R415). -/
def bootCheck (image record : Option (List Byte)) : Nat :=
  match image, record with
  | none, _ => 1
  | some _, none => 2
  | some i, some r =>
    if !Config.ecdsaVerifies i then 3
    else if !Config.lmsVerifies i then 4
    else if !Config.ecdsaVerifies r then 5
    else if !Config.lmsVerifies r then 6
    else 0

/-- The digests of the measured objects, indices 1 to 4 (R316). -/
def measure (image record config : List Byte) : List (BitVec 384) :=
  [Config.sha384 Config.bootRom, Config.sha384 image, Config.sha384 record, Config.sha384 config]

/-- What a reset leaves as it was: what is outside the part, the boot flash, and the bytes of GDDR7
(log 55). -/
def State.afterReset (s : State) : State :=
  { State.reset with
    mem := { Memory.reset with
      gddr := s.mem.gddr, psn := s.mem.psn.filter fun x => decide (x.1 < 5 * 2 ^ 60), own0 := s.mem.own0, own1 := s.mem.own1, own2 := s.mem.own2, own3 := s.mem.own3 },
    dev := { Device.reset with image := s.dev.image, record := s.dev.record, fwconfig := s.dev.fwconfig },
    inbox := s.inbox, out := s.out, free := s.free }

/-- A partition of the firmware core as the firmware image starts it: at parcel 0 of its stream (R315, log 107). -/
def firmwarePrt (image : List Byte) (p : Nat) : Partition :=
  let ps := (Config.firmwareStream image p).take Config.storeParcels
  if ps = [] then .empty else { Partition.empty with started := true, store := ps, slen := ps.length }

/-- The FTB with which a firmware image is entered: entries 0 to 15 of the image, and pinned (R101, R315, log 107). -/
def firmwareFtb (image : List Byte) : List FtbEntry :=
  (List.range 128).map fun i =>
    let dw := Config.firmwareFtb image i
    if i < 16 then FtbEntry.loaded ⟨dw 0, dw 1, dw 2, dw 3⟩ true else ⟨0, 0, 0, 0⟩

/-- The boot ROM enters the firmware on the firmware core (R315 step 4, log 107). -/
def Core.enterFirmware (c : Core) (image : List Byte) : Core :=
  let sh := { c.sh with ftb := firmwareFtb image }
  { c with sh := sh, sh0 := sh, prts := (List.range 12).map (firmwarePrt image) }

/-- The trims and the port roles of a module record (R28, R308, R315). -/
def State.trimmed (s : State) (record : List Byte) : State :=
  { s with
    clusters := s.clusters.mapIdx fun c y => { y with bias := Config.biasTrim record c },
    dev := { s.dev with
      vdd := BitVec.ofNat 10 (Config.vddTrim record),
      ports := s.dev.ports.mapIdx fun p y => { y with root := p != 0 && Config.rootPort record p } } }

/-- RESET: every register at its reset value, then the boot ROM: it enters the firmware, or stops with
BOOTST, which the board controller receives. -/
def State.boot (s : State) : State :=
  let s := s.afterReset
  let code := bootCheck s.dev.image s.dev.record
  let image := s.dev.image.getD []
  let record := s.dev.record.getD []
  if code = 0 then
    ((s.trimmed record).modDev fun d => { d with booted := true, meas := measure image record d.fwconfig }).modCore 0 fun c =>
      c.enterFirmware image
  else
    { s.modDev (fun d => { d with bootst := BitVec.ofNat 8 code }) with out := .bootStatus (BitVec.ofNat 8 code) :: s.out }

/-- A port of the part, and a change of it. -/
def State.port (s : State) (p : Nat) : Port := s.dev.ports.getD p ⟨4, 4, 0, 0, false⟩

/-- Change a port. -/
def State.modPort (s : State) (p : Nat) (f : Port → Port) : State :=
  s.modDev fun d => { d with ports := d.ports.set p (f (s.port p)) }

/-- Whether a request of a port, to an address, reaches the part: its link is up, the boot has not failed for a peer
port, and the IDE stream that carries the address is not Insecure (R413 to R415, log 56). -/
def State.portOpen (s : State) (p : Nat) (a : Nat := 0) : Bool :=
  decide (p < 4) && !s.mem.shut p a && (p == 0 || s.dev.booted)

/-- A port in the endpoint role, which answers DOE and SPDM (R308, R316). -/
def State.endpoint (s : State) (p : Nat) : Bool := p == 0 || !(s.port p).root

/-- GET_MEASUREMENTS: the digest of an index and its signature (R316); none before the boot has recorded
them. Every request on a port after a failed boot is answered with ERROR (R415). -/
def State.getMeasurements (s : State) (path : MeasPath) (index : Nat) : State :=
  let up := match path with | .spdm p => s.portOpen p && s.endpoint p | .smbus => true
  let answer : State :=
    match (if index = 0 then none else s.dev.meas[index - 1]?) with
    | some d => { s with out := .measurement path index d (Config.spdmSignature d) :: s.out }
    | none => s
  if !up then s
  else
    match path with
    | .spdm p => if s.dev.bootst = 0 then answer else { s with out := .doe p .spdm true :: s.out }
    | .smbus => answer

/-- DOE_REQUEST: after a failed boot only GET_VERSION and GET_CAPABILITIES of SPDM are answered (R308,
R415). -/
def State.doeRequest (s : State) (port : Nat) (q : DoeReq) : State :=
  let err := s.dev.bootst != 0 && (q == .spdm || q == .securedSpdm)
  if s.portOpen port && s.endpoint port then { s with out := .doe port q err :: s.out } else s

/-! ### Power, bias and clocks (R319 to R323, R416) -/

/-- Millivolts rounded up to 5. -/
def up5 (v : Nat) : Nat := (v + 4) / 5 * 5

/-- The greatest of a list. -/
def greatest (l : List Nat) : Nat := l.foldl max 0

/-- Vmin of the module record's trim table (R319). -/
def State.vminTrim (s : State) (c f : Nat) (b : Int) : Nat := Config.vmin (s.dev.record.getD []) c f b

/-- The least VDD at which cluster d runs where it stands. -/
def State.vminNow (s : State) (d : Nat) : Nat := s.vminTrim d (s.cluster d).fstep.toNat (s.cluster d).bias.toInt

/-- A request takes its place behind those that were written before it; it replaces a waiting one of its
own kind. -/
def queuePower (l : List PowerReq) (same : PowerReq → Bool) (r : PowerReq) (waits : Bool) : List PowerReq :=
  if waits then
    match l.find? same with
    | some h => (l.takeWhile fun x => !same x) ++ [h] ++ (((l.dropWhile fun x => !same x).drop 1).filter fun x => !same x) ++ [r]
    | none => l ++ [r]
  else l ++ [r]

/-- A request of cluster c. -/
def ofCluster (c : Nat) : PowerReq → Bool
  | .cluster d _ => d == c
  | .vmin _ => false

/-- A VMIN request. -/
def ofVmin : PowerReq → Bool
  | .cluster _ _ => false
  | .vmin _ => true

/-- CPREQ_WRITE: the request is in progress, or waits behind the cluster's own (R319, R320). -/
def State.cpreqWrite (s : State) (c : Nat) (x : Word) : State :=
  if 16 ≤ c then s
  else
    let busy := (s.cluster c).pend
    let s := s.modCluster c fun y => if busy then { y with queued := some x } else { y with pend := true }
    s.modDev fun d => { d with power := queuePower d.power (ofCluster c) (.cluster c x) busy }

/-- VMIN_WRITE. -/
def State.vminWrite (s : State) (x : Word) : State :=
  let busy := s.dev.vpend
  s.modDev fun d =>
    { d with
      vpend := true, vqueued := if busy then some x else d.vqueued, power := queuePower d.power ofVmin (.vmin x) busy }

/-- A cluster's request is carried out: frequency and bias, or a status (R320). -/
def State.serveCluster (s : State) (c : Nat) (x : Word) : State :=
  let f1 := fld x 0 6
  let b1 : BitVec 8 := BitVec.ofNat 8 (fld x 8 8)
  let v1 := up5 (max (max s.dev.vmin.toNat (s.vminTrim c f1 b1.toInt)) (greatest (((List.range 16).filter (· != c)).map s.vminNow)))
  if 32 < f1 ∨ b1.toInt < -30 ∨ 30 < b1.toInt ∨ (s.dev.minclu.getLsbD c ∧ 0 < f1) then s.modCluster c fun y => { y with status := 3 }
  else if 900 < v1 then s.modCluster c fun y => { y with status := 2 }
  else
    (s.modCluster c fun y => { y with status := 0, fstep := BitVec.ofNat 6 f1, bias := b1 }).modDev fun d => { d with vdd := BitVec.ofNat 10 v1 }

/-- A VMIN request is carried out (R320). -/
def State.serveVmin (s : State) (x : Word) : State :=
  let m := fld x 0 10
  if m < 680 then s.modDev fun d => { d with vstatus := 1 }
  else if 900 < m then s.modDev fun d => { d with vstatus := 2 }
  else
    let v1 := up5 (max m (greatest ((List.range 16).map s.vminNow)))
    s.modDev fun d => { d with vmin := BitVec.ofNat 10 m, vdd := BitVec.ofNat 10 v1, vstatus := 0 }

/-- POWER_CONTROLLER_REQUEST_DONE: the oldest request ends, and the one that waited behind it is in
progress. -/
def State.powerDone (s : State) : State :=
  match s.dev.power with
  | [] => s
  | .cluster c x :: rest =>
    let s := (s.modDev fun d => { d with power := rest }).serveCluster c x
    s.modCluster c fun y => { y with pend := y.queued.isSome, queued := none }
  | .vmin x :: rest =>
    let s := (s.modDev fun d => { d with power := rest }).serveVmin x
    s.modDev fun d => { d with vpend := d.vqueued.isSome, vqueued := none }

/-- 10 μs have passed since the last sample (R322). -/
def State.ratioDue (s : State) : Bool := decide (s.sched.lastRatio.toNat + 10000 ≤ s.now.toNat)

/-- The change between two ratios. -/
def apart (a b : Nat) : Nat := (a - b) + (b - a)

/-- A cluster's sample. -/
def Cluster.sample (c : Cluster) : Cluster :=
  let r := if c.startedN = 0 then 0 else 1023 * c.stalledN / c.startedN
  { c with
    seq := c.seq + 1, ratio := BitVec.ofNat 10 r, stalledN := 0, startedN := 0,
    sens := c.sens.map fun x => { x with moved := max x.moved (apart r x.ratio0) } }

/-- SRATIO_SAMPLE. -/
def State.sratioSample (s : State) : State :=
  if s.ratioDue then
    { s with clusters := s.clusters.map Cluster.sample, sched := { s.sched with lastRatio := s.sched.lastRatio + 10000 } }
  else s

/-- The clusters next to cluster c in the mesh (R17). -/
def meshNear (c : Nat) : List Nat :=
  (List.range 16).filter fun d => apart (c / 4) (d / 4) + apart (c % 4) (d % 4) == 1

/-- Twice the median of a list of numbers; for an even count the middle two are averaged (log 57). -/
def median2 (l : List Int) : Option Int :=
  let l := sortBy (fun a b => decide (a ≤ b)) l
  let n := l.length
  if n = 0 then none else some (l.getD ((n - 1) / 2) 0 + l.getD (n / 2) 0)

/-- Readings of the other valid sensors of a cluster and of its mesh neighbours. -/
def State.otherTemps (s : State) (c i : Nat) : List Int :=
  let of (d : Nat) : List Int := ((s.cluster d).sens.zipIdx.filter fun x => !x.1.excl && !(d == c && x.2 == i)).map fun x => x.1.temp.toInt
  (c :: meshNear c).flatMap of

/-- A sensor after a reading (R416). -/
def Sensor.read (x : Sensor) (raw : BitVec 16) (ratio : Nat) (others : List Int) : Sensor :=
  let y : Sensor := if raw = x.temp then { x with same := x.same + 1 } else { x with temp := raw, same := 0, ratio0 := ratio, moved := 0 }
  let away := match median2 others with
    | some m => decide (m + 480 < 2 * raw.toInt) || decide (2 * raw.toInt + 480 < m)
    | none => false
  let y := { y with off := if away then y.off + 1 else 0 }
  let why : BitVec 3 :=
    if 10000 ≤ y.same ∧ 256 ≤ y.moved then 1 else if raw.toInt < -640 ∨ 2400 < raw.toInt then 2 else if 10 ≤ y.off then 3 else 0
  if x.excl || why = 0 then y else { y with excl := true, why := why }

/-- A cluster without a valid sensor is held at the least ACLK (R416). -/
def State.holdCluster (s : State) (c : Nat) : State :=
  if (s.cluster c).sens.all Sensor.excl then
    (s.modCluster c fun y => { y with fstep := 0 }).modDev fun d => { d with minclu := putBit d.minclu c true }
  else s

/-- SENSOR_READ. -/
def State.sensorRead (s : State) (c i : Nat) (raw : BitVec 16) : State :=
  match (s.cluster c).sens[i]? with
  | none => s
  | some x =>
    let y := x.read raw (s.cluster c).ratio.toNat (s.otherTemps c i)
    let s := s.modCluster c fun z => { z with sens := z.sens.set i y }
    if y.excl && !x.excl then (s.modDev fun d => { d with replace := true }).holdCluster c else s

/-- BOARD_CONTROLLER_TELEMETRY: the readings that firmware has (R323). -/
def State.telemetry (s : State) (power current coolant : Nat) : State :=
  s.modDev fun d => { d with bpower := power, bcurrent := current, bcoolant := coolant }

/-! ### Links (R308 to R310, R413, R414) -/

/-- FLIT_REPLAY. -/
def State.flitReplay (s : State) (p : Nat) : State := s.modPort p fun x => { x with replay := satInc x.replay }

/-- A port narrows or goes down: LINK is logged in region 0 (R402). -/
def State.logLink (s : State) (p : Nat) : State := s.logFailure 0 0x0A p none 0 0

/-- LANE_FAULT: MAXW falls to the widest width without the failing lanes, and the link retrains to it. -/
def State.laneFault (s : State) (p : Nat) (maxw : BitVec 3) : State :=
  if 4 ≤ p ∨ (s.port p).maxw.toNat ≤ maxw.toNat then s
  else
    ((s.modPort p fun x => { x with maxw := maxw, width := maxw }).modDev
      fun d => { d with replace := true }).logLink p

/-- L0P_WIDTH_CHANGE: to a width that the port has and that MAXW allows. -/
def State.l0p (s : State) (p : Nat) (w : BitVec 3) : State :=
  if w = 0 ∨ (s.port p).maxw.toNat < w.toNat then s else s.modPort p fun x => { x with width := w }

/-- The Insecure flag of an IDE stream. -/
def State.setInsecure (s : State) (p strm : Nat) (b : Bool) : State :=
  { s with mem := { s.mem with insecure := s.mem.insecure.modify p fun x => putBit x strm b } }

/-- IDE_INTEGRITY_FAIL. -/
def State.ideFail (s : State) (p strm : Nat) : State :=
  (s.modPort p fun x => { x with idefail := satInc x.idefail }).setInsecure p strm true

/-- IDE_KM: a key set of AES-256-GCM makes a stream secure again; any other is refused (R310). -/
def State.ideKm (s : State) (p strm : Nat) (gcm : Bool) : State :=
  if gcm then s.setInsecure p strm false else s

/-- LINK_DOWN (R414, R417). -/
def State.linkDown (s : State) (p : Nat) : State :=
  if 4 ≤ p ∨ s.mem.down.getLsbD p then s
  else
    ({ (s.modPort p (fun x => { x with maxw := 0, width := 0 })).modDev (fun d => { d with replace := true }) with
      mem := { s.mem with down := putBit s.mem.down p true } }).logLink p

/-- PORT_RESET: a down link comes back at its reset width (log 58). -/
def State.portReset (s : State) (p : Nat) : State :=
  if s.mem.down.getLsbD p then
    { s.modPort p (fun x => { x with maxw := 4, width := 4 }) with mem := { s.mem with down := putBit s.mem.down p false } }
  else s

/-! ### Requests from outside (R107, R110, R115, R278, R387) -/

/-- The bytes of one line for a host or peer, each with its poison. -/
def Memory.hostLine (m : Memory) (a n : Nat) : ReadAns (List (Byte × Bool)) :=
  let ia : Addr := BitVec.ofNat 48 a
  if iaReserved ia then .bad m
  else
    match m.request ia .rd n 0 with
    | (_, .wait) => .wait
    | (m, .fault _) => .bad m
    | (m, .go p _) => .ok m ((List.range n).map fun i => (BitVec.ofNat 8 (m.get (p.add i) 1), m.poisoned (p.add i) 1))

/-- The bytes that a host or peer reads. -/
def Memory.hostRead (m : Memory) (ia : Addr) (len : Nat) : ReadAns (List (Byte × Bool)) :=
  (cutLines ia.toNat len).foldl (fun acc (a, n) => acc.bind fun m bs => (m.hostLine a n).bind fun m b => .ok m (bs ++ b)) (.ok m [])

/-- A read of memory by a host or a peer: one completion, with EP when a piece of it is poisoned, whose bytes read as zero (R278,
R387). A read that its home refuses is completed without data, with EP (log 59). -/
def State.hostRead? (s : State) (port : Nat) (ia : Addr) (len tag : Nat) : Option State :=
  if s.portOpen port ia.toNat = false then some s
  else
    match s.mem.hostRead ia len with
    | .wait => none
    | .bad m => some { s with mem := m, out := .completion port tag [] true :: s.out }
    | .ok m bs => some { s with mem := m, out := .completion port tag (bs.map fun b => if b.2 then 0 else b.1) (bs.any Prod.snd) :: s.out }

/-- A write of one line by a party that takes no report: a fault is recorded (R383). -/
def Memory.hostWriteLine (m : Memory) (a : Nat) (bs : List Byte) : Option Memory :=
  let ia : Addr := BitVec.ofNat 48 a
  if iaReserved ia then some m
  else
    match m.storeIa ia bs.length (bytesNat bs) 0 with
    | (_, .wait) => none
    | (m, _) => some m

/-- A write of memory by a host or a peer; no answer while a home holds it. -/
def State.hostWrite? (s : State) (port : Nat) (ia : Addr) (data : List Byte) : Option State :=
  if s.portOpen port ia.toNat = false then some s
  else
    ((cutLines ia.toNat data.length).foldl (fun acc (a, n) =>
      acc.bind fun m => m.hostWriteLine a ((data.drop (a - ia.toNat)).take n)) (some s.mem)).map fun m => { s with mem := m }

/-- The bytes of a request that lie in its line. -/
def lineBytes (ia : Addr) (bs : List Byte) : List Byte := bs.take (128 - ia.toNat % 128)

/-- A request is served at its home; none when it must wait (R107, R113). An atomic leaves the bytes that it
carries. -/
def Memory.serve (m : Memory) (kind : AccKind) (ia : Addr) (data : List Byte) (job : BitVec 32) : Option Memory :=
  let bs := lineBytes ia data
  if iaReserved ia then some m
  else
    match kind with
    | .rd => match m.request ia .rd bs.length job with | (_, .wait) => none | (m, _) => some m
    | .wr => match m.storeIa ia bs.length (bytesNat bs) job with | (_, .wait) => none | (m, _) => some m
    | .at =>
      match m.request ia .at bs.length job with
      | (_, .wait) => none
      | (m, .go p _) => some ((m.put p bs.length (bytesNat bs)).cleanPieces p bs.length)
      | (m, .fault _) => some m

/-- A request is served or forwarded, or held for a MOVING page; no answer while it waits in the mesh or for its
home (R390). -/
def State.homeRequest? (s : State) (r : HomeReq) : Option State :=
  match s.mem.serve r.kind r.ia r.data r.job with
  | some m => some { s with mem := m }
  | none =>
    let h := homeOf r.ia
    if s.mem.isMoving r.ia && decide ((s.mem.home h).held.length < 64) then
      (s.mem.hold ⟨r.kind, r.ia, r.data, r.job, none⟩).map fun m => { s with mem := m }
    else none

/-- HOME_REQUEST; nothing happens while it waits. -/
def State.homeRequest (s : State) (r : HomeReq) : State := (s.homeRequest? r).getD s

/-- A held request proceeds: the entry that a partition's queue keeps is performed, or the request itself. -/
def State.releaseHeld (s : State) (r : HeldReq) : Option State :=
  match r.origin with
  | none => (s.mem.serve r.kind r.ia r.data r.job).map fun m => { s with mem := m }
  | some (k, p, id) =>
    let s := s.modPrt k p fun q => { q with mops := q.mops.map fun o => if o.id = id then { o with held := false } else o }
    match ((s.core k).prt p).mops.find? fun o => o.id == id with
    | some o => s.performMop k p o
    | none => some s

/-- A held request proceeds, which was counted as it came to be held (R114). -/
def State.released (s : State) (r : HeldReq) : Option State :=
  (({ s with mem := { s.mem with proceeds := some (r.ia.toNat / 128) } } : State).releaseHeld r).map fun t =>
    { t with mem := { t.mem with proceeds := none } }

/-- What a home holds. -/
def State.setHeld (s : State) (home : Nat) (l : List HeldReq) : State :=
  { s with mem := s.mem.modHome home fun h => { h with held := l } }

/-- The held requests of a home, in order of arrival: those to pages that are still MOVING stay. One that proceeds does
so behind those that arrived before it alone. -/
def State.proceed (home : Nat) (s : State) (r : HeldReq) : State :=
  if s.mem.isMoving r.ia then s
  else
    let l := (s.mem.home home).held
    let before := l.takeWhile fun x => x != r
    let after := (l.dropWhile fun x => x != r).drop 1
    match (s.setHeld home before).released r with
    | some t =>
      let x := (t.mem.home home).held
      t.setHeld home (x.take before.length ++ after ++ x.drop before.length)
    | none => s

/-- HELD_REQUESTS_PROCEED. -/
def State.heldProceed (s : State) (home : Nat) : State := ((s.mem.home home).held).foldl (State.proceed home) s

/-- A page-TLB entry that an invalidation of an IA page drops: one of the same leaf (R110). -/
def PageEntry.inLeaf (e : PageEntry) (pg : BitVec 36) : Bool :=
  let z := (pteSize e.pte).getD 4096 / 4096
  e.page.toNat / z == pg.toNat / z

/-- HOME_INVALIDATE: all of a home's cached translations, or those of one page. -/
def State.homeInvalidate (s : State) (home : Nat) (pg : Option (BitVec 36)) : State :=
  { s with mem := s.mem.modHome home fun h =>
      { h with pages := match pg with | none => [] | some p => h.pages.filter fun e => !e.inLeaf p } }

/-- A doubleword of a range entry, its reserved bits zero (R107). -/
def RangeEntry.put (e : RangeEntry) (dw : Fin 4) (x : Word) : RangeEntry :=
  match dw with
  | 0 => { e with dw0 := x &&& 0x0000FFFFFFFFF000 }
  | 1 => { e with dw1 := x &&& 0x0000FFFFFFFFF000 }
  | 2 => { e with dw2 := x &&& 0xFFFFFFFFFFFFF000 }
  | 3 => { e with dw3 := x &&& 0xF000000000000000, bad := false }

/-- A home's registers after a write: an entry that has lost its parity serves again once its DW3 is written (R107,
R108, R111, R385). -/
def Home.write (h : Home) : HomeRegWrite → Home
  | .llcFlush _ => h
  | .range i dw x => { h with ranges := h.ranges.modify i fun e => e.put dw x }
  | .hptbase x => { h with hptbase := x &&& 0x0000003FFFFFF000 }
  | .cairnbase x => { h with cairnbase := x }

/-- A home's lines of an IA page are written back and leave the LLC (R115 step 2, log 110). -/
def Memory.flushPage (m : Memory) (home : Nat) (pg : BitVec 36) : Option Memory :=
  let here (l : Nat) : Bool := l / 4096 == pg.toNat && homeOf (BitVec.ofNat 48 l) == home
  ((m.llc.map LlcLine.line).filter here).foldl (fun acc l => acc.bind fun m => m.evictLine l) (some m)

/-- Firmware writes a register of a home, or has it flush a page; no answer while a writeback waits. -/
def State.homeRegisterWrite? (s : State) (home : Nat) (w : HomeRegWrite) : Option State :=
  match w with
  | .llcFlush pg => (s.mem.flushPage home pg).map fun m => { s with mem := m }
  | w => some { s with mem := s.mem.modHome home fun h => h.write w }

/-- HOME_REGISTER_WRITE; nothing happens while a writeback waits. -/
def State.homeRegisterWrite (s : State) (home : Nat) (w : HomeRegWrite) : State := (s.homeRegisterWrite? home w).getD s

/-! ### Records for the firmware core (R344, R384) -/

/-- The firmware core's event queue has room. -/
def State.fwRoom (s : State) : Bool := decide ((s.core 0).sh.evq.length < 64)

/-- A record enters the firmware core's event queue. -/
def State.fwPost (s : State) (r : EvRec) : State := s.modCore 0 fun c => c.modSh fun h => { h with evq := h.evq ++ [r] }

/-- TRAP_RECORD_POSTED: the oldest trap record of a core. -/
def State.trapRecordPosted (s : State) (k : Nat) : State :=
  match (s.core k).trapOut with
  | r :: rest => if s.fwRoom then (s.modCore k fun c => { c with trapOut := rest }).fwPost r else s
  | [] => s

/-- MEM_RECORD_POSTED: the oldest memory record of a home, or of a core's structures (source 0x80 + core). -/
def State.memRecordPosted (s : State) (src : Nat) : State :=
  if s.fwRoom = false then s
  else if src < 36 then
    match (s.mem.home src).recs with
    | r :: rest => { s with mem := s.mem.modHome src fun h => { h with recs := rest } }.fwPost r
    | [] => s
  else
    match s.dev.coreRecs.find? fun r => fld r.dw0 40 8 == src with
    | some r => (s.modDev fun d => { d with coreRecs := d.coreRecs.erase r }).fwPost r
    | none => s

/-! ### Handoff queues (R75) -/

/-- The oldest entry that the reader does not see yet, and its age. -/
def Handoff.nextAge (h : Handoff) : Option Nat := (h.ents.find? fun e => !e.vis).map HqEntry.age

/-- That entry becomes visible. -/
def Handoff.reveal (h : Handoff) : Handoff :=
  let n := h.visible
  { h with ents := h.ents.mapIdx fun i e => if i = n then { e with vis := true } else e }

/-- QUEUE_ENTRY_VISIBLE: from 8 FCLK after its push on. -/
def State.queueEntryVisible (s : State) (clu port : Nat) : State :=
  match (hqAt (s.cluster clu).hq port).nextAge with
  | some a => if 8 ≤ a then s.modCluster clu fun c => { c with hq := c.hq.modify port Handoff.reveal } else s
  | none => s

/-! ### Retired units (R412, R417) -/

/-- Firmware closes an open stream (R417). -/
def State.fwClose (s : State) (i : Nat) : State :=
  let t := s.stream i
  if t.state ≠ 1 then s
  else
    let s := (s.putStream i (t.put 0 62 2 2)).logFailure t.region 0x0B 0 (some i) t.fnum 0
    (s.closeStream i).getD s

/-- A stream can no longer be finished: its FCLU has a retired F-core, codec engine or FCOR core. -/
def State.unfinishable (s : State) (i : Nat) : Bool :=
  let t := s.stream i
  let c := t.fclu
  let cors := match (s.slotRec (fld (t.at 0) 55 4)).bind fun s r => s.finalCors r with
    | .ok _ cs => cs
    | _ => []
  t.state == 1 && (s.dev.coreret.getD (8 * c + 7) false || (s.cluster c).codecRet || cors.any fun x => s.dev.coreret.getD (8 * c + x) false)

/-- Firmware closes the streams that can no longer be finished. -/
def State.closeLost (s : State) : State := ((List.range 1024).filter s.unfinishable).foldl State.fwClose s

/-- A core is retired (R417); the firmware core never is. Its job is pre-empted, one that is being launched as soon as it
runs. Halted firmware retires nothing (R418, log 133). -/
def State.retireCore (s : State) (k : Nat) : State :=
  if k = 0 ∨ s.dev.coreret.getD k false ∨ s.dev.fwhalt then s
  else
    let s := s.modDev fun d => { d with coreret := d.coreret.set k true, ncore := d.ncore + 1, replace := true }
    (s.preemptRequest k).closeLost

/-- 24 h in ns. -/
def dayNs : Nat := 86400000000000

/-- An error of a core counts towards its retirement (R417). -/
def State.countCoreError (s : State) (k : Nat) : State :=
  let s := s.modDev fun d =>
    { d with coreErrs := (d.coreErrs.filter fun e => decide (s.now.toNat < e.2.toNat + dayNs)) ++ [(k, s.now)] }
  if 3 ≤ (s.dev.coreErrs.filter fun e => e.1 == k).length then s.retireCore k else s

/-- Where an IA is behind the LLC, when its home can tell. -/
def Memory.placeOf (m : Memory) (ia : Addr) : Option Place :=
  match m.xlate ia with
  | (_, .ok x) => match x.owner ia with | .ok y => some y.place | _ => none
  | _ => none

/-- What maps a page of local memory: a leaf of the page tables, or a range entry. -/
def Memory.mapOf (m : Memory) (ia : Addr) : Option PageEntry :=
  match m.xlate ia with
  | (_, .ok x) => x.page
  | _ => none

/-- 4 KiB frames of a page: those of its leaf, or one of a range entry (R108, log 121). -/
def framesOf (e : Option PageEntry) : Nat := match e with | some e => (pteSize e.pte).getD 4096 / 4096 | none => 1

/-- A range entry whose page pg goes to a frame: that page alone, and what lies before and behind it (R107). -/
def RangeEntry.split (e : RangeEntry) (pg frame : Nat) : List RangeEntry :=
  let first := fld e.dw0 12 36
  let mid := { e with dw0 := at' 12 pg, dw1 := at' 12 pg, dw2 := at' 12 frame }
  let low := if first < pg then [{ e with dw1 := at' 12 (pg - 1) }] else []
  let high := if pg < fld e.dw1 12 36 then [{ e with dw0 := at' 12 (pg + 1), dw2 := e.dw2 + at' 12 (pg + 1 - first) }] else []
  mid :: (low ++ high)

/-- The range entries of a home once the page pg, which one of them may cover, has gone to a frame; none without free
entries for the pieces (R107, log 121). -/
def splitRanges (rs : List RangeEntry) (pg frame : Nat) : Option (List RangeEntry) :=
  match rs.zipIdx.find? fun x => x.1.covers pg with
  | none => some rs
  | some (e, i) =>
    let spare := (rs.zipIdx.filter fun x => !bit x.1.dw3 63).map Prod.snd
    let parts := e.split pg frame
    if spare.length + 1 < parts.length then none
    else some (((i :: spare).zip parts).foldl (fun rs x => rs.set x.1 x.2) rs)

/-- Every home's range entries have a page of theirs in another frame. -/
def Memory.remapRanges (m : Memory) (pg frame : Nat) : Option Memory :=
  (m.homes.foldl (fun acc h => acc.bind fun hs => (splitRanges h.ranges pg frame).map fun rs => hs ++ [{ h with ranges := rs }])
    (some [])).map fun hs => { m with homes := hs }

/-- A leaf has another frame: all entries of its group of 16 if it is of 64 KiB, with the counts and HINT of its Cairn entry
clear, and every home drops the old translation (R108, R115). -/
def Memory.remapLeaf (m : Memory) (home : Nat) (e : PageEntry) (frame : Nat) : Memory :=
  let las := if fld e.pte 60 3 = 1 then (List.range 16).map fun i => e.pteLa.toNat / 128 * 128 + 8 * i else [e.pteLa.toNat]
  let m := las.foldl (fun m a => m.laPut a ((m.laDw a &&& ~~~(at' 12 (2 ^ 26 - 1))) ||| at' 12 frame)) m
  let c := m.cairnLa home e.pte
  let m := if bit e.pte 39 then (m.laPut c (m.laDw c &&& ~~~(bitAt 57 true))).laPut (c + 16) (m.laDw (c + 16) &&& ~~~(lowMask 32)) else m
  { m with homes := m.homes.map fun h => { h with pages := h.pages.filter fun x => !x.inLeaf e.page } }

/-- A page moves to a frame as R115 has it: its lines leave the LLC, and it is copied with its poison. None while a
writeback waits. -/
def Memory.copyPage (m : Memory) (ia bytes frame : Nat) : Option Memory :=
  let lines := (List.range (bytes / 128)).map fun i => 128 * i
  (lines.foldl (fun acc l => acc.bind fun m => m.evictLine (ia + l)) (some m)).map fun m =>
    lines.foldl (fun n l => match m.placeOf (BitVec.ofNat 48 (ia + l)) with | some p => n.copyLine p (.loc (frame * 4096 + l)) | none => n) m

/-- The page of an IA is retired, once, while the pool of 256 MiB has frames for it: it moves there, at the next FCLK if
a writeback makes it wait. A leaf larger than the pool, and a page of a range whose homes have no entry left for its
pieces, stay in service (R417, log 121), and so does every page while the firmware is halted (log 133). -/
def State.retirePage (s : State) (ia : Addr) : State :=
  let pg := ia.toNat / 4096
  let s := s.modDev fun d => { d with retiring := d.retiring.filter (· != pg) }
  match s.mem.placeOf (BitVec.ofNat 48 (pg * 4096)) with
  | some (.loc la) =>
    let e := s.mem.mapOf (BitVec.ofNat 48 (pg * 4096))
    let n := framesOf e
    let frame := Config.spareFrame s.dev.retired.length % 2 ^ 26 / n * n
    if s.dev.fwhalt ∨ la / 4096 ∈ s.dev.retired ∨ 65536 < s.dev.retired.length + n then s
    else if e.isNone ∧ (s.mem.remapRanges pg frame).isNone then s
    else
      match s.mem.copyPage (pg / n * n * 4096) (n * 4096) frame with
      | none => s.modDev fun d => { d with retiring := d.retiring ++ [pg] }
      | some m =>
        let m := match e with
          | some e => m.remapLeaf (homeOf ia) e frame
          | none => (m.remapRanges pg frame).getD m
        let gone := (List.range n).map fun i => la / 4096 / n * n + i
        { s.modDev (fun d => { d with pageret := d.pageret + 1, replace := true, retired := gone ++ d.retired }) with mem := m }
  | _ => s

/-- A correctable error of a page counts towards its retirement. -/
def State.countPageError (s : State) (pg : Nat) : State :=
  let s := s.modDev fun d =>
    { d with pageErrs := (d.pageErrs.filter fun e => decide (s.now.toNat < e.2.toNat + dayNs)) ++ [(pg, s.now)] }
  if 8 ≤ (s.dev.pageErrs.filter fun e => e.1 == pg).length then
    (s.modDev fun d => { d with pageErrs := d.pageErrs.filter fun e => e.1 != pg }).retirePage (BitVec.ofNat 48 (pg * 4096))
  else s

/-- CODEC_ENGINE_FAILURE: the engine is retired, and the enc or dec in progress completes with ECC; an enc
still pops its entries (R411, R412). -/
def State.codecFailure (s : State) (c : Nat) : State :=
  let k := 8 * c + 7
  let s := (s.modCluster c fun y => { y with codecRet := true }).modDev fun d => { d with replace := true }
  let s := match (s.core k).ops.find? fun o => cmdEngine o.op == 5 && o.phase == .running with
    | some o => s.engineOpComplete k o.id
    | none => s
  s.closeLost

end Sys2Proof.Machine
end

