-- ==== Sys2Proof/Machine/Bar.lean ====
section
/-! DEFINITION. BAR0: the registers of the scheduler, power and health windows, the MSI-X tables and the
pending-bit arrays, as the host and firmware read and write them (R1, R11, R283, R295, R303, R307, R311,
R312, R314, R316 to R319, R322, R398, R400, R401, R410, R415). -/

namespace Sys2Proof.Machine

/-- What stands at a doubleword of a BAR0 (R312). -/
inductive BarReg where
  | schTnow | schCfg | stBase | slotBase | schTpre
  | regionCfg (n : Nat) | regionCore (n : Nat) | regionBytes (n : Nat) | regionCodec (n : Nat)
  | sqBase (n : Nat) | sqCfg (n : Nat) | sqTail (n : Nat) | sqHead (n : Nat) | sqStat (n : Nat)
  | coalesce (v : Nat)
  | vctl | cpReq (c : Nat) | cpStat (c : Nat) | sratio (c : Nat)
  | health | coreRet (i : Nat) | pageRet | portSt (p : Nat) | ceCnt (k : Nat) | sens (c i : Nat)
  | flogSeq (n : Nat) | flog (n i : Nat) | kvErr (i : Nat)
  | msixAddr (fn i : Nat) | msixData (fn i : Nat) | msixPba (fn i : Nat)
  | unlisted
deriving DecidableEq, Repr

/-! ### The map -/

/-- The five global registers of the scheduler (R283). -/
def globalReg (off : Nat) : BarReg :=
  match off with
  | 0x00 => .schTnow
  | 0x08 => .schCfg
  | 0x10 => .stBase
  | 0x18 => .slotBase
  | 0x20 => .schTpre
  | _ => .unlisted

/-- The registers of region n, at consecutive doublewords (R295, log 98). -/
def regionReg (n off : Nat) : BarReg :=
  match off with
  | 0x00 => .regionCfg n
  | 0x08 => .regionCore n
  | 0x10 => .regionBytes n
  | 0x18 => .regionCodec n
  | _ => .unlisted

/-- The registers of submission ring n, at consecutive doublewords (R303, log 98). -/
def ringReg (n off : Nat) : BarReg :=
  match off with
  | 0x00 => .sqBase n
  | 0x08 => .sqCfg n
  | 0x10 => .sqTail n
  | 0x18 => .sqHead n
  | 0x20 => .sqStat n
  | _ => .unlisted

/-- The scheduler window. -/
def schedReg (off : Nat) : BarReg :=
  if off < 0x100 then globalReg off
  else if off < 0x300 then regionReg ((off - 0x100) / 0x40) (off % 0x40)
  else if 0x1000 ≤ off ∧ off < 0x1200 then ringReg ((off - 0x1000) / 0x40) (off % 0x40)
  else if 0x4000 ≤ off ∧ off < 0x8000 then .coalesce ((off - 0x4000) / 8)
  else .unlisted

/-- The power window (R319, R322). -/
def powerReg (off : Nat) : BarReg :=
  if off = 0 then .vctl
  else if 0x100 ≤ off ∧ off < 0x200 then (if off % 16 = 0 then .cpReq ((off - 0x100) / 16) else .cpStat ((off - 0x100) / 16))
  else if 0x400 ≤ off ∧ off < 0x480 then .sratio ((off - 0x400) / 8)
  else .unlisted

/-- The health window (R400). -/
def healthReg (off : Nat) : BarReg :=
  if off = 0 then .health
  else if off = 0x08 then .coreRet 0
  else if off = 0x10 then .coreRet 1
  else if off = 0x18 then .pageRet
  else if 0x20 ≤ off ∧ off < 0x40 then .portSt ((off - 0x20) / 8)
  else if 0x108 ≤ off ∧ off < 0x160 then .ceCnt ((off - 0x100) / 8)
  else if 0x200 ≤ off ∧ off < 0x400 then .sens ((off - 0x200) / 32) (off / 8 % 4)
  else if 0x400 ≤ off ∧ off < 0x440 then .flogSeq ((off - 0x400) / 8)
  else if 0x1000 ≤ off ∧ off < 0x3000 then .flog ((off - 0x1000) / 0x400) (off / 8 % 128)
  else if 0x3000 ≤ off ∧ off < 0x5000 then .kvErr ((off - 0x3000) / 8)
  else .unlisted

/-- The MSI-X table of a function: message address, then data and vector control. -/
def tableReg (fn off : Nat) : BarReg := if off % 16 < 8 then .msixAddr fn (off / 16) else .msixData fn (off / 16)

/-- BAR0 of PF0. -/
def pfReg (off : Nat) : BarReg :=
  if off < 0x10000 then schedReg off
  else if off < 0x20000 then powerReg (off - 0x10000)
  else if off < 0x30000 then healthReg (off - 0x20000)
  else if off < 0x38000 then tableReg 0 (off - 0x30000)
  else if off < 0x38100 then .msixPba 0 (8 * (off - 0x38000))
  else .unlisted

/-- BAR0 of VF n. -/
def vfReg (n off : Nat) : BarReg :=
  if off < 0x100 then globalReg off
  else if 0x1000 + 0x40 * n ≤ off ∧ off < 0x1040 + 0x40 * n then ringReg n (off % 0x40)
  else if 0x4000 ≤ off ∧ off < 0x4800 then .coalesce (256 * n + (off - 0x4000) / 8)
  else if 0x8000 ≤ off ∧ off < 0x9000 then tableReg n (off - 0x8000)
  else if 0x9000 ≤ off ∧ off < 0x9020 then .msixPba n (8 * (off - 0x9000))
  else if off = 0xA000 then .flogSeq n
  else if 0xA400 ≤ off ∧ off < 0xA800 then .flog n (off / 8 % 128)
  else .unlisted

/-- The register at the doubleword of an offset of function fn. -/
def barReg (fn off : Nat) : BarReg := if fn = 0 then pfReg (off / 8 * 8) else vfReg fn (off / 8 * 8)

/-! ### Reads -/

/-- A signed number as 32 bits. -/
def bits32 (x : Int) : Nat := unsigned 32 x

/-- 64 flags as a doubleword, the first in bit 0. -/
def flagWord (n : Nat) (f : Nat → Bool) : Word := BitVec.ofNat 64 (bitsNat ((List.range n).map f))

/-- What a register reads (R11: reserved bits read as zero). -/
def State.barRead (s : State) (r : BarReg) : Word :=
  let c := s.sched
  let d := s.dev
  match r with
  | .schTnow => s.now
  | .schCfg => at' 48 c.lookahead.toNat ||| at' 32 c.grace.toNat ||| at' 0 c.period.toNat
  | .stBase => c.stbase
  | .slotBase => c.slotbase
  | .schTpre => at' 0 c.tpre.toNat
  | .regionCfg n => bitAt 63 (s.region n).en ||| at' 0 (s.region n).weight.toNat
  | .regionCore n => at' 32 (bits32 (s.region n).cbal) ||| at' 0 (s.region n).cbud.toNat
  | .regionBytes n => at' 32 (bits32 (s.region n).bbal) ||| at' 0 (s.region n).bbud.toNat
  | .regionCodec n => at' 32 (bits32 (s.region n).kbal) ||| at' 0 (s.region n).kbud.toNat
  | .sqBase n => (s.ring n).base
  | .sqCfg n => at' 0 (s.ring n).log2n.toNat
  | .sqTail n => at' 0 (s.ring n).tail.toNat
  | .sqHead n => at' 0 (s.ring n).head.toNat
  | .sqStat n => at' 8 (s.ring n).code.toNat ||| bitAt 0 (s.ring n).err
  | .coalesce v => at' 16 (s.vector v).count.toNat ||| at' 0 (s.vector v).time.toNat
  | .vctl => at' 28 d.vstatus.toNat ||| bitAt 27 d.vqueued.isSome ||| bitAt 26 d.vpend ||| at' 16 d.vdd.toNat ||| at' 0 d.vmin.toNat
  | .cpReq n => at' 8 (s.cluster n).bias.toNat ||| at' 0 (s.cluster n).fstep.toNat
  | .cpStat n => at' 4 (s.cluster n).status.toNat ||| bitAt 1 (s.cluster n).queued.isSome ||| bitAt 0 (s.cluster n).pend
  | .sratio n => at' 32 (s.cluster n).seq.toNat ||| at' 0 (s.cluster n).ratio.toNat
  | .health => bitAt 63 d.replace ||| bitAt 62 d.fwhalt ||| at' 48 d.bootst.toNat ||| at' 40 (d.ncore % 128) |||
      at' 16 (flagWord 16 fun n => (s.cluster n).codecRet).toNat ||| at' 0 d.minclu.toNat
  | .coreRet i => flagWord 64 fun n => d.coreret.getD (64 * i + n) false
  | .pageRet => at' 0 d.pageret.toNat
  | .portSt p => bitAt 63 (s.mem.down.getLsbD p) ||| at' 60 (s.port p).maxw.toNat ||| at' 32 (s.port p).idefail.toNat |||
      at' 0 (s.port p).replay.toNat
  | .ceCnt k => at' 32 (d.cethr.getD k 1024).toNat ||| at' 0 (d.cecnt.getD k 0).toNat
  | .sens n i => match (s.cluster n).sens[i]? with
    | some x => bitAt 63 x.excl ||| at' 60 x.why.toNat ||| at' 0 x.temp.toNat
    | none => 0
  | .flogSeq n => at' 0 (d.flogseq.getD n 0).toNat
  | .flog n i =>
    let x := (d.flog.getD n []).getD (i / 2) ⟨0, 0⟩
    if i % 2 = 0 then x.dw0 else x.dw1
  | .kvErr i => at' 32 (d.kverr.getD i ⟨0, 0⟩).fnum.toNat ||| at' 0 (d.kverr.getD i ⟨0, 0⟩).count.toNat
  | .msixAddr fn i => (s.entry fn i).addr
  | .msixData fn i => bitAt 32 (s.entry fn i).masked ||| at' 0 (s.entry fn i).data.toNat
  | .msixPba fn i => flagWord 64 fun n => (s.entry fn (i + n)).pba
  | .unlisted => 0

/-- What a function's BAR0 shows: after a failed boot HEALTH alone (R415). -/
def State.barShown (s : State) (fn off : Nat) : Word :=
  let r := barReg fn off
  if s.dev.bootst ≠ 0 ∧ r ≠ .health then 0 else s.barRead r

/-! ### Writes -/

/-- x where the mask m has ones, and what stands there elsewhere. -/
def blend (old x m : Word) : Word := (old &&& ~~~m) ||| (x &&& m)

/-- A change of the scheduler's registers. -/
def State.modSched (s : State) (f : Scheduler → Scheduler) : State := { s with sched := f s.sched }

/-- A write of an MSI-X table entry's data and vector control; an entry that is unmasked sends what its
pending bit holds (R307, log 5). -/
def State.msixControl (s : State) (fn i : Nat) (x : Word) : State :=
  let s := s.modEntry fn i fun z => { z with data := x.setWidth 32, masked := bit x 32 }
  if bit x 32 then s else s.unmaskEntry fn i

/-- Registers that the host may write too: the rings, coalescing, power requests and MSI-X tables. x is
the doubleword after the write, and m says which bits were written. -/
def State.hostRegWrite (s : State) (r : BarReg) (x m : Word) : State :=
  match r with
  | .sqBase n => s.modRing n fun y => { y with base := x &&& lowMask 48 }
  | .sqCfg n => s.modRing n fun y => { y with log2n := x.setWidth 4 }
  | .sqTail n => if m &&& lowMask 32 = 0 then s else s.sqDoorbell n (x.setWidth 32)
  | .sqStat n => s.sqstatWrite n (x &&& m)
  | .coalesce v => s.msixCoalesce v x
  | .vctl => if m &&& lowMask 10 = 0 then s else s.vminWrite x
  | .cpReq c => if m &&& lowMask 16 = 0 then s else s.cpreqWrite c x
  | .msixAddr fn i => s.modEntry fn i fun y => { y with addr := x }
  | .msixData fn i => s.msixControl fn i x
  | _ => s

/-- Firmware marks a span of a stream that it has evicted and masked: a count that rises logs KVMASK (R398, R402, log
122). -/
def State.markKv (s : State) (i : Nat) (fnum count : BitVec 32) : State :=
  let old := (s.dev.kverr.getD i ⟨0, 0⟩).count
  let s := s.modDev fun d => { d with kverr := d.kverr.set i ⟨fnum, count⟩ }
  if old < count then s.logFailure (s.stream i).region 6 0 (some i) fnum 0 else s

/-- The fields of DW0 of a failure record (R401). -/
def flogMask : Word := 0xFFFF07FFFFFFFFFF

/-- Registers that firmware alone writes (R283, R295, R400). FWHALT, BOOTST and DOWN are the hardware's own, and
REPLACE is cleared by reset alone. KVMASK is logged with KVERR (log 122). -/
def State.fwRegWrite (s : State) (r : BarReg) (x : Word) : State :=
  let hi : BitVec 32 := x.extractLsb' 32 32
  let lo : BitVec 32 := x.setWidth 32
  match r with
  | .schCfg => s.modSched fun c => { c with lookahead := x.extractLsb' 48 8, grace := x.extractLsb' 32 16, period := x.setWidth 16 }
  | .stBase => s.modSched fun c => { c with stbase := x &&& lowMask 48 }
  | .slotBase => s.modSched fun c => { c with slotbase := x &&& lowMask 48 }
  | .schTpre => s.modSched fun c => { c with tpre := x.setWidth 7 }
  | .regionCfg n => s.modRegion n fun y => { y with en := bit x 63, weight := x.setWidth 8 }
  | .regionCore n => s.modRegion n fun y => { y with cbal := hi.toInt, cbud := lo }
  | .regionBytes n => s.modRegion n fun y => { y with bbal := hi.toInt, bbud := lo }
  | .regionCodec n => s.modRegion n fun y => { y with kbal := hi.toInt, kbud := lo }
  | .health => { s.modDev (fun d => { d with replace := d.replace || bit x 63, ncore := fld x 40 7, minclu := x.setWidth 16 }) with
      clusters := s.clusters.mapIdx fun n y => { y with codecRet := bit x (16 + n) } }
  | .coreRet i => s.modDev fun d => { d with coreret := d.coreret.mapIdx fun k b => if k / 64 = i then bit x (k % 64) else b }
  | .pageRet => s.modDev fun d => { d with pageret := lo }
  | .portSt p => s.modPort p fun y => { y with maxw := x.extractLsb' 60 3, idefail := x.extractLsb' 32 16, replay := lo }
  | .ceCnt k => s.modDev fun d => { d with cethr := d.cethr.set k hi, cecnt := d.cecnt.set k lo }
  | .sens c i => s.modCluster c fun y =>
      { y with sens := y.sens.modify i fun z => { z with excl := bit x 63, why := x.extractLsb' 60 3, temp := x.setWidth 16 } }
  | .flogSeq n => s.modDev fun d => { d with flogseq := d.flogseq.set n lo }
  | .flog n i => s.modDev fun d =>
      let l := d.flog.getD n []
      let y := l.getD (i / 2) ⟨0, 0⟩
      { d with flog := d.flog.set n (flogStore l (i / 2) (if i % 2 = 0 then { y with dw0 := x &&& flogMask } else { y with dw1 := x })) }
  | .kvErr i => s.markKv i hi lo
  | _ => s

/-- Registers that only firmware writes. -/
def BarReg.firmwareOnly : BarReg → Bool
  | .schCfg | .stBase | .slotBase | .schTpre | .regionCfg _ | .regionCore _ | .regionBytes _ | .regionCodec _ | .health | .coreRet _
  | .pageRet | .portSt _ | .ceCnt _ | .sens _ _ | .flogSeq _ | .flog _ _ | .kvErr _ => true
  | _ => false

/-- A write of the bits m of a register. What a VF shows of the registers that firmware writes is read only (R312). -/
def State.barWriteDw (s : State) (fn off : Nat) (fw : Bool) (x m : Word) : State :=
  let r := barReg fn off
  if s.dev.bootst ≠ 0 then s
  else
    let y := blend (s.barRead r) x m
    if r.firmwareOnly then (if fw && fn == 0 then s.fwRegWrite r y else s) else s.hostRegWrite r y m

/-! ### Requests -/

/-- A request to BAR0 arrives: firmware's through the loop-back window while it runs, another through port 0
(R312, R317). -/
def State.barOpen (s : State) (port : Nat) (fw : Bool) : Bool :=
  port == 0 && (if fw then s.dev.booted && !s.dev.fwhalt else s.portOpen 0)

/-- A function that is there: PF0, or an enabled VF; after a failed boot PF0 alone (R311, R415). -/
def State.fnThere (s : State) (fn : Nat) : Bool := fn == 0 || (decide (fn ≤ s.sched.numVfs) && s.dev.bootst == 0)

/-- The bytes that a read of BAR0 gives. -/
def State.barBytes (s : State) (fn off n : Nat) : List Byte :=
  (List.range n).map fun i => BitVec.ofNat 8 ((s.barShown fn (off + i)).toNat / 2 ^ (8 * ((off + i) % 8)))

/-- A read of BAR0; of a function that is not there it is completed as a read that a home refuses is (log 59). -/
def State.barAccess (s : State) (port fn off : Nat) (fw : Bool) (n tag : Nat) : State :=
  if s.barOpen port fw = false then s
  else if s.fnThere fn then { s with out := .completion port tag (s.barBytes fn off n) false :: s.out }
  else { s with out := .completion port tag [] true :: s.out }

/-- A write of BAR0, a doubleword at a time from the lowest up. -/
def State.barWrite (s : State) (port fn off : Nat) (fw : Bool) (data : List Byte) : State :=
  if s.barOpen port fw = false ∨ s.fnThere fn = false ∨ data = [] then s
  else
    (List.range ((off % 8 + data.length + 7) / 8)).foldl (fun s j =>
      let a := off / 8 * 8 + 8 * j
      let lane (f : Byte → Nat) : Word := BitVec.ofNat 64 (bytesNat ((List.range 8).map fun i =>
        if off ≤ a + i then (match data[a + i - off]? with | some b => BitVec.ofNat 8 (f b) | none => 0) else 0))
      s.barWriteDw fn a fw (lane BitVec.toNat) (lane fun _ => 255)) s

/-- A byte of the configuration space of a function: Revision ID is 0x02 on every function of every port (R1); the
rest the manual does not give (log 109). -/
def cfgByte (port fn off : Nat) : Byte := if off = 8 then 2 else Config.configSpace port fn off

/-- A read of configuration space: of a function that is there, on a port that is open. -/
def State.cfgAccess (s : State) (port fn off n tag : Nat) : State :=
  if s.portOpen port = false then s
  else if fn = 0 ∨ (port = 0 ∧ s.fnThere fn = true) then
    { s with out := .completion port tag ((List.range n).map fun i => cfgByte port fn (off + i)) false :: s.out }
  else { s with out := .completion port tag [] true :: s.out }

/-- Firmware runs. -/
def State.fwRuns (s : State) : Bool := s.dev.booted && !s.dev.fwhalt

/-- A read by firmware of what it writes by a path that the manual does not name (log 110). -/
def State.fwAccess (s : State) (port n tag : Nat) (bs : List Byte) : State :=
  if s.fwRuns then { s with out := .completion port tag (bs.take n) false :: s.out } else s

/-- HOST_PEER_READ, of memory, of BAR0, of configuration space, or by firmware. -/
def State.pcieRead? (s : State) (port : Nat) (a : PcieAddr) (n tag : Nat) : Option State :=
  match a with
  | .ia ia => s.hostRead? port ia n tag
  | .bar fn off fw => some (s.barAccess port fn off fw n tag)
  | .cfg fn off => some (s.cfgAccess port fn off n tag)
  | .stream i => some (s.fwAccess port n tag ((s.stream i).dw.flatMap fun w => natBytes 8 w.toNat))
  | .fwconfig => some (s.fwAccess port n tag s.dev.fwconfig)
  | .pace k i => some (s.fwAccess port n tag (natBytes 8 ((s.core k).sh.gap.getD i 0).toNat))

/-- HOST_PEER_READ; nothing happens while a home holds it. -/
def State.pcieRead (s : State) (port : Nat) (a : PcieAddr) (n tag : Nat) : State := (s.pcieRead? port a n tag).getD s

/-! ### What firmware writes (R314, R316, R318, log 110) -/

/-- An entry with which firmware opens a stream that another module has served: the RW fields, FNUM and RUNG of the
image; the scheduler assigns FCLU, and the other RO fields begin at 0 (R286, R300, R314). -/
def movedEntry (im : List Word) (fclu : Nat) : Stream :=
  let d0 := im.getD 0 0
  let e : Stream := ⟨openEntry im (fld d0 59 3) fclu, none, false⟩
  (e.put 0 52 3 (fld d0 52 3)).put 0 0 32 (fld d0 0 32)

/-- Firmware opens a stream on this module; an image that SOPEN would refuse opens none. No answer while a home holds a
read of its checks. -/
def State.openMoved (s : State) (i : Nat) (im : List Word) : Option State :=
  match (s.slotRec (fld (im.getD 0 0) 55 4)).bind fun s r => if slotState r = 2 then s.openCluster im r else .fails s with
  | .wait => none
  | .fault s _ _ => some s
  | .ok s c => some (s.putStream i (movedEntry im c))

/-- Firmware writes the entry of a stream (R314): STATE 3 of an open one holds its releases, 1 lets them go on, 2 closes
it without a further frame; 1 of a free one opens it. -/
def State.fwStream (s : State) (i : Nat) (data : List Byte) : Option State :=
  let im := dwsOf data 16
  let t := s.stream i
  match t.state, fld (im.getD 0 0) 62 2 with
  | 0, 1 => s.openMoved i im
  | 1, 1 => some (s.putStream i { t with moving := false })
  | 1, 3 => some (s.putStream i { t with moving := true })
  | 1, 2 => (s.putStream i ({ t with moving := false }.put 0 62 2 2)).closeStream i
  | _, _ => some s

/-- Firmware loads its configuration, which measurement 4 covers (R316). -/
def State.loadFwConfig (s : State) (data : List Byte) : State :=
  s.modDev fun d => { d with fwconfig := data, meas := d.meas.set 3 (Config.sha384 data) }

/-- Firmware writes PACEn of a core; 7 and 10 to 15 stay zero (R318). -/
def State.writePace (s : State) (k n : Nat) (data : List Byte) : State :=
  if n = 7 ∨ 10 ≤ n then s else s.modCore k fun c => c.modSh fun h => { h with gap := h.gap.set n (BitVec.ofNat 16 (bytesNat (data.take 2))) }

/-- HOST_PEER_WRITE, of memory, of BAR0, or by firmware; configuration space takes no write here (log 109). -/
def State.pcieWrite? (s : State) (port : Nat) (a : PcieAddr) (data : List Byte) : Option State :=
  match a with
  | .ia ia => s.hostWrite? port ia data
  | .bar fn off fw => some (s.barWrite port fn off fw data)
  | .cfg _ _ => some s
  | .stream i => if s.fwRuns && decide (i < 1024) then s.fwStream i data else some s
  | .fwconfig => some (if s.fwRuns then s.loadFwConfig data else s)
  | .pace k n => some (if s.fwRuns then s.writePace k n data else s)

/-- HOST_PEER_WRITE; nothing happens while a home holds it. -/
def State.pcieWrite (s : State) (port : Nat) (a : PcieAddr) (data : List Byte) : State := (s.pcieWrite? port a data).getD s

/-! ### The loop-back window (R317, log 108) -/

/-- The offset in BAR0 of PF0 that a load or store of the firmware core reaches through the host bridge's loop-back
window. -/
def State.loopBack (s : State) (k : Nat) (o : MemOp) : Option Nat :=
  let plain := match o.kind with | .load _ | .store => true | _ => false
  if isFwCore k && o.fault == 0 && plain then
    match s.mem.xlate o.ia with
    | (_, .ok x) =>
      match x.place with
      | .own 0 b =>
        if Config.loopBack ≤ b ∧ b + o.size ≤ Config.loopBack + 0x40000 ∧ (o.kind = .store → x.wr = true) then some (b - Config.loopBack)
        else none
      | _ => none
    | _ => none
  else none

/-- A load or store of the firmware core at an offset of BAR0. -/
def State.performBar (s : State) (k p : Nat) (o : MemOp) (off : Nat) : State :=
  let old := bytesNat (s.barBytes 0 off o.size)
  if o.kind = .store then
    let x := if o.isNibble then putNibble old o.nib o.a.toNat else o.a.toNat
    (s.modPrt k p fun q => q.dropMop o.id).barWrite 0 0 off true (natBytes o.size x)
  else
    let v := if o.isNibble then getNibble old o.nib else old
    s.finishMop k p o.id (some ⟨BitVec.ofNat 8192 v, false, false⟩) none none

/-- A load of a register follows the stores of its partition that reach the same bytes (R265). -/
def Partition.barWaits (q : Partition) (o : MemOp) : Bool :=
  o.kind != .store && (q.mopsBefore o.id).any fun e => e.kind == .store && rangesMeet e.ia.toNat e.size o.ia.toNat o.size

/-- An entry of the queues is performed, in BAR0 or in memory; no answer while it must wait. -/
def State.performAt (s : State) (k p : Nat) (o : MemOp) : Option State :=
  match s.loopBack k o with
  | some off => if ((s.core k).prt p).barWaits o then none else some (s.performBar k p o off)
  | none => s.performMop k p o

end Sys2Proof.Machine
end

