-- ==== Sys2Proof/Machine/Ecc.lean ====
section
/-! DEFINITION. Soft errors: corrected and counted, or poisoning, invalidating or reloading what they strike,
with their records and traps (R361, R384 to R386, R417). -/

namespace Sys2Proof.Machine

/-! ### Records (R384) -/

/-- Structures that stand in a core, by code of R385. -/
def coreSide (code : Nat) : Bool := decide (1 ≤ code) && decide (code ≤ 7)

/-- The source of a core's records. -/
def coreSrc (k : Nat) : Nat := 0x80 + k

/-- A core's error logic makes a record. -/
def State.postCoreSide (s : State) (k kind : Nat) (cause : BitVec 8) (addr : Nat) (info : Word) : State :=
  s.modDev fun d =>
    let seq := match d.coreRecSeq.find? fun x => x.1 == k with | some x => x.2 | none => 0
    { d with
      coreRecs := d.coreRecs ++ [memRecord kind cause (coreSrc k) (s.core k).jobId addr info seq],
      coreRecSeq := d.coreRecSeq.filter (fun x => x.1 != k) ++ [(k, seq + 1)] }

/-- The home that reports an error: its own for a translation buffer, that of the line for the LLC and
GDDR7; for the tags of a slice a free value, since the rules name none (log 60). -/
def State.eccHome (s : State) (e : EccSite) : State × Nat :=
  if e.code = 0x0A then (s, e.core)
  else if e.code = 9 then ({ s with free := s.free + 1 }, Config.freeChoice s.free % 32)
  else (s, homeOf (BitVec.ofNat 48 e.addr))

/-- An address down to a multiple of z. -/
def downTo (z a : Nat) : Nat := a / z * z

/-- ADDR of a record of an error: the IA of the line or piece, for a translation buffer of the first page of its entry;
of a core-side structure the byte offset or slot (R384). -/
def State.eccAddr (s : State) (e : EccSite) : Nat :=
  if e.code = 8 then downTo 16 e.addr
  else if e.code = 9 ∨ e.code = 0x0B then downTo 128 e.addr
  else if e.code = 0x0A then
    let h := s.mem.home e.core
    4096 * if e.unit = 1 then fld (h.ranges.getD e.addr ⟨0, 0, 0, 0, false⟩).dw0 12 36 else
      match h.pages[e.addr]? with | some x => x.page.toNat | none => 0
  else e.addr

/-- A record of an error, from the structure's side. -/
def State.postEcc (s : State) (e : EccSite) (kind : Nat) (cause : BitVec 8) (addr : Nat) (info : Word) : State :=
  if coreSide e.code then s.postCoreSide e.core kind cause addr info
  else
    let (s, h) := s.eccHome e
    { s with mem := s.mem.postHome h kind cause 0 addr info }

/-- The home that would report an error holds 16 records, and takes it when one of them has been posted (R384, log 60). -/
def State.eccWaits (s : State) (e : EccSite) : Bool := !coreSide e.code && decide (16 ≤ (s.mem.home (s.eccHome e).2).recs.length)

/-! ### Correctable errors -/

/-- Structures that can have a correctable error (R385). -/
def correctable (code : Nat) : Bool := code == 1 || code == 2 || code == 5 || code == 8 || code == 9 || code == 0x0B

/-- ECC_CORRECTABLE: the error is corrected and counted, and the count that meets THR is reported; a page of
GDDR7 is counted for retirement (R417). -/
def State.eccCorrectable (s : State) (e : EccSite) : State :=
  if correctable e.code = false ∨ s.eccWaits e = true then s
  else
    let n := satInc (s.dev.cecnt.getD e.code 0)
    let hit := n != s.dev.cecnt.getD e.code 0 && n == s.dev.cethr.getD e.code 1024
    let s := s.modDev fun d => { d with cecnt := d.cecnt.set e.code n }
    let s := if hit then s.postEcc e 3 0 (s.eccAddr e) (n.setWidth 64) else s
    if e.code = 0x0B then s.countPageError (e.addr / 4096) else s

/-! ### Lost state (R361) -/

/-- LOST (R343). -/
def lostCode : BitVec 8 := 0x0C

/-- A hold entry whose values are lost; a row or table that it would still write is dropped (R361, log 61). -/
def Fly.lose (f : Fly) : Fly :=
  { f with
    res := f.res.map fun _ => lostSlot, res1 := f.res1.map fun _ => lostSlot, flag := f.flag.map fun _ => lostSlot,
    eff := match f.eff with | .bld pl j fmt cells eq _ => .bld pl j fmt cells eq true | _ => .none }

/-- What an error of code 0x04 strikes: a unit by its id, or with an id of 64 and above an exchange slot, an
operand-file entry, a predicate, an entry of the return stack, the loop state. -/
def Core.loseValue (c : Core) (k p : Nat) (e : EccSite) (fresh : Nat) : Core :=
  match e.unit with
  | 64 => c.modPrt p fun q => { q with xi := q.xi.modify e.addr fun _ => lostSlot }
  | 65 => c.modPrt p fun q => { q with ofile := q.ofile.modify e.addr fun _ => lostSlot }
  | 66 => c.modPrt p fun q => { q with predPsn := if e.addr < 16 then putBit q.predPsn e.addr true else q.predPsn }
  | 67 => c.modPrt p fun q => { q with stack := q.stack.modify e.addr fun _ => BitVec.ofNat 15 fresh }
  | 68 => c
  | n =>
    match (ctxOf k p).unitOf (BitVec.ofNat 6 n) with
    | some u =>
      let c := c.modPrt p fun q =>
        { q.setUnit u ((q.unit u).poison lostSlot) with fly := q.fly.map fun f => if f.unit = u then f.lose else f }
      if u = .mx then
        c.modSh fun h => { h with cims := h.cims.map fun m => { m with res := lostSlot, res1 := lostSlot, flag := lostSlot } }
      else c
    | none => c

/-- The unit id that LOST reports; for a structure that is no unit a free value (log 61). -/
def lostUnit (e : EccSite) (fresh : Nat) : Word := if e.unit < 64 then BitVec.ofNat 64 e.unit else BitVec.ofNat 64 (fresh % 64)

/-- In-flight state of partition p of core k is lost: the unit is poisoned, LOST is recorded at the group
that the partition would issue next, the present step of its locked group is cancelled, hold entries are discarded, and
the partition restarts at RGNADDR; one of the firmware core continues where R363 sends it (R361, R370, log 61). -/
def State.lose (s : State) (k p : Nat) (e : EccSite) : State :=
  let fresh := Config.freeChoice s.free
  let s : State := { s with free := s.free + 1 }
  let s := s.modCore k fun c => c.loseValue k p e fresh
  let q := (s.core k).prt p
  if !q.started || q.joined then s
  else
    let s := if (s.core k).isLocked p then s.modCore k fun c => { c with cancel := true } else s
    let s := s.takeTrap k p lostCode (lostUnit e fresh) 0 q.nextPc
    if isFwCore k then s.modPrt k p fun q => { q with fly := [] } else s.modCore k fun c => c.restart p

/-- Every started partition that has not joined traps with LOST, unit id 0x3F (R385 code 0x05). -/
def State.loseCore (s : State) (k : Nat) : State :=
  (List.range 12).foldl (fun s p =>
    let q := (s.core k).prt p
    if q.started && !q.joined && q.trap.isNone then s.takeTrap k p lostCode 0x3F 0 q.nextPc else s) s

/-! ### Uncorrectable errors (R385, R386) -/

/-- The line of an IA is poisoned in the LLC, if it is there, and in memory. -/
def Memory.poisonIa (m : Memory) (ia : Addr) : Memory :=
  let line := lineOf ia
  let m' := if m.llcHas line then m.poisonPieces (.llc line) 128 else m
  match m.placeOf (BitVec.ofNat 48 line) with
  | some p => m'.poisonPieces p 128
  | none => m'

/-- LLC data (code 0x08): a clean line is fetched again, a piece of a dirty one is poisoned. -/
def Memory.llcError (m : Memory) (a : Nat) : Memory :=
  match m.llc.find? fun x => x.line == downTo 128 a with
  | some x => if x.dirty then m.poisonPieces (.llc (downTo 16 a)) 16 else m.llcDrop x.line
  | none => m

/-- LLC tags (code 0x09) of a slice: its dirty lines are poisoned and its clean ones leave. -/
def Memory.sliceError (m : Memory) (slice : Nat) : Memory :=
  (m.llc.filter fun x => llcSlice x.line == slice).foldl (fun m x =>
    if x.dirty then m.poisonPieces (.llc x.line) 128 else m.llcDrop x.line) m

/-- A translation buffer of a home (code 0x0A): the page-TLB entry leaves, or with unit 1 the range entry
holds what hits it. -/
def Home.error (h : Home) (e : EccSite) : Home :=
  if e.unit = 1 then { h with ranges := h.ranges.modify e.addr fun x => { x with bad := bit x.dw3 63 } }
  else { h with pages := h.pages.eraseIdx e.addr }

/-- The 8 B set of the register space at an address: its bytes are poisoned and their values open. -/
def Shared.regError (h : Shared) (a fresh : Nat) : Shared :=
  let b := downTo 8 a
  if regEnd ≤ b then h else regWrite h b 8 (bytesNat ((List.range 8).map (Config.freeByte fresh))) true

/-- The FTB (code 0x06): entries 16 to 127 are invalid, and 0 to 15 are being reloaded. -/
def Core.ftbError (c : Core) : Core :=
  { c.modSh (fun h => { h with ftb := h.ftb.mapIdx fun i x => if i < 16 then x else ⟨0, 0, 0, 0⟩ }) with ftbReload := true }

/-- What an uncorrectable error does to its structure; the page of a GDDR7 line is retired after the record is posted. -/
def State.eccEffect (s : State) (e : EccSite) : State :=
  let k := e.core
  match e.code with
  | 1 => { s with free := s.free + 1 }.modCore k fun c => c.modSh fun h => h.regError e.addr s.free
  | 2 => s.modCore k fun c => c.modSh fun h => if e.addr < 1048576 then { h with csPsn := Cells.mark h.csPsn (e.addr / 16) 1 true } else h
  | 3 => s.modPrt k e.prt fun q => if e.addr < q.slen then { q with badParcels := e.addr :: q.badParcels } else q
  | 4 => s.lose k e.prt e
  | 5 => s.loseCore k
  | 6 => s.modCore k Core.ftbError
  | 7 => s.modCore k fun c => c.l1Drop (downTo 128 e.addr)
  | 8 => { s with mem := s.mem.llcError e.addr }
  | 9 => { s with mem := s.mem.sliceError e.addr }
  | 0x0A => { s with mem := s.mem.modHome k fun h => h.error e }
  | 0x0B => { s with mem := s.mem.poisonIa (BitVec.ofNat 48 e.addr) }
  | _ => s

/-- A site that the part has. -/
def siteExists (e : EccSite) : Bool :=
  decide (1 ≤ e.code) && decide (e.code ≤ 0x0B) && decide (e.prt < 12) && decide (e.core < if coreSide e.code then 128 else 36)

/-- ECC_UNCORRECTABLE: the effect, a KIND 1 record except for code 0x04, the retirement of the page of a GDDR7 line,
whose writebacks find the record in the home's buffer (R384), and the count of the core's errors of codes 0x04 and 0x05
(R385, R417); nothing happens while the home that reports it has no room. -/
def State.eccUncorrectable (s : State) (e : EccSite) : State :=
  if siteExists e = false ∨ s.eccWaits e = true then s
  else
    let a := s.eccAddr e
    let s := s.eccEffect e
    let s := if e.code = 4 then s else s.postEcc e 1 (BitVec.ofNat 8 e.code) a 0
    let s := if e.code = 0x0B then s.retirePage (BitVec.ofNat 48 e.addr) else s
    if e.code = 4 ∨ e.code = 5 then s.countCoreError e.core else s

/-! ### Reloads (R385 codes 0x03 and 0x06) -/

/-- A parcel of a partition's stream, from IMAGE + SOFF; of the firmware core, which has no descriptor, from the firmware
image (R385, log 107). -/
def State.readParcel (s : State) (k p i : Nat) : EngAns (BitVec 32) :=
  let d := s.core k
  if d.job.isNone then .ok s ((Config.firmwareStream (s.dev.image.getD []) p).getD i 0)
  else (s.engReadClean k (fld (d.descDw 2) 0 48 + fld (d.descDw (8 + p)) 0 32 + 4 * i) 4).bind fun s x => .ok s (BitVec.ofNat 32 x)

/-- The parcels in error of a partition are loaded again; a failed reload traps with LOST, unit id 0, and retires the
core (R385, R417). -/
def State.reloadParcels (s : State) (k p : Nat) : Option State :=
  let reads := ((s.core k).prt p).badParcels.foldl (fun (acc : EngAns (List (Nat × BitVec 32))) i =>
    acc.bind fun s l => (s.readParcel k p i).bind fun s x => .ok s ((i, x) :: l)) (.ok s [])
  match reads with
  | .ok s l => some (s.modPrt k p fun q => { q with store := l.foldl (fun st x => st.set x.1 x.2) q.store, badParcels := [] })
  | .fault s _ _ =>
    let s := s.modPrt k p fun q => { q with badParcels := [] }
    some ((s.takeTrap k p lostCode 0 0 ((s.core k).prt p).pc).retireCore k)
  | .wait => none

/-- FTB entries 0 to 15 are loaded again, and the reload has ended. -/
def Core.reloadFtb (c : Core) (r : List FtbEntry) : Core :=
  { c.modSh (fun h => { h with ftb := h.ftb.mapIdx fun i x => if i < 16 then r.getD i ⟨0, 0, 0, 0⟩ else x }) with ftbReload := false }

/-- The reload of FTB entries 0 to 15 from RELOC, or with records that cannot be read from those that the scheduler has
built (log 106); those of the firmware core come from the firmware image (log 107). -/
def State.reloadFtb (s : State) (k : Nat) : Option State :=
  let put (s : State) (es : List FtbEntry) : Option State := some (s.modCore k fun c => c.reloadFtb (es.map fun x => x.loaded true))
  match (s.core k).job with
  | none => some (s.modCore k fun c => c.reloadFtb (firmwareFtb (s.dev.image.getD [])))
  | some j =>
    match s.readReloc j with
    | .wait => none
    | .fault s _ _ => put s j.reloc
    | .ok s es => put s es

/-- The reload that is to end: of the FTB first. -/
def State.reload? (s : State) (k p : Nat) : Option State :=
  if (s.core k).ftbReload then s.reloadFtb k
  else if ((s.core k).prt p).badParcels = [] then none
  else s.reloadParcels k p

/-- PARITY_RELOAD_DONE; nothing happens while no reload can end. -/
def State.parityReloadDone (s : State) (k p : Nat) : State := (s.reload? k p).getD s

end Sys2Proof.Machine
end

