-- ==== Sys2Proof/Machine/Probe.lean ====
section
/-! DEFINITION. Probe tokens: chains of waits on handoff queues, cycles, and reserve entries (R408, R409). -/

namespace Sys2Proof.Machine

/-! ### Who waits (R408) -/

/-- Cluster of a party. -/
def partyClu : Party → Nat
  | .partition k _ => cluOf k
  | .codec c => c

/-- The port that a party waits on, and for how many ACLK. -/
def State.waitsOn (s : State) : Party → Option (Nat × Nat)
  | .partition k p => if s.canIssue k p && !(s.core k).isLocked p then ((s.core k).prt p).qwait else none
  | .codec c => (s.codecPort c).bind fun i =>
      match (s.cluster c).codecWait with | some (j, n) => if i = j then some (i, n) else none | none => none

/-- A party waits to push into its port, which is full; else it waits for entries of an empty one. -/
def pushes : Party → Nat → Bool
  | .partition k _, i => !isFcore k || decide (14 ≤ i)
  | .codec _, _ => false

/-- The parties of a core that wait. -/
def State.waitersOf (s : State) (k : Nat) : List Party :=
  ((List.range 12).map fun p => Party.partition k p).filter fun x => (s.waitsOn x).isSome

/-- A codec engine, if it waits. -/
def State.codecWaiter (s : State) (c : Nat) : List Party := [Party.codec c].filter fun x => (s.waitsOn x).isSome

/-- The waiting parties at the other end of the port that a party waits on. -/
def State.otherEnd (s : State) (x : Party) : List Party :=
  let c := partyClu x
  match s.waitsOn x with
  | none => []
  | some (i, _) =>
    if pushes x i then (if 14 ≤ i then s.codecWaiter c else s.waitersOf (8 * c + 7))
    else s.waitersOf (8 * c + if 14 ≤ i then 7 else i / 2)

/-- The first full port that a copy has met, once it leaves a party. -/
def State.fullSoFar (s : State) (x : Party) (f : Option Nat) : Option Nat :=
  match f, s.waitsOn x with
  | none, some (i, _) => if pushes x i then some i else none
  | _, _ => f

/-- The copies of a token one hop on. -/
def State.hop (s : State) (ts : List (Party × Option Nat)) : List (Party × Option Nat) :=
  (ts.flatMap fun (x, f) => (s.otherEnd x).map fun y => (y, s.fullSoFar x f)).dedup

/-- The copies that return to their origin within n hops, each with the first full port on its cycle (R408, R409). -/
def State.comesBack (s : State) (origin : Party) : Nat → List (Party × Option Nat) → List (Option Nat)
  | 0, _ => []
  | n + 1, ts =>
    let ts := s.hop ts
    (ts.filter fun x => x.1 == origin).map Prod.snd ++ s.comesBack origin n (ts.filter fun x => x.1 != origin)

/-- The first full ports of the cycles on which a party waits. -/
def State.cycles (s : State) (origin : Party) : List (Option Nat) := (s.comesBack origin 16 [(origin, none)]).dedup

/-- The parties that copies pass within n hops of those given, before they return to their origin with the first full
port f. -/
def State.passed (s : State) (origin : Party) (f : Option Nat) : Nat → List (Party × Option Nat) → List Party
  | 0, _ => []
  | n + 1, ts =>
    let us := (s.hop ts).filter fun x => x.1 != origin
    (us.filter fun x => (s.comesBack origin n [x]).contains f).map Prod.fst ++ s.passed origin f n us

/-- The parties on the cycles that copies of a party's token confirm with the first full port f (R409). -/
def State.onCycle (s : State) (origin : Party) (f : Option Nat) : List Party := (origin :: s.passed origin f 16 [(origin, none)]).dedup

/-- The job of a party that waits. -/
def State.partyJob (s : State) : Party → Option (BitVec 32)
  | .partition k _ => (s.core k).job.map fun j => descJob j.desc
  | .codec c => ((s.core (8 * c + 7)).ops.find? fun o => o.popping).map EngineOp.job

/-! ### Tokens (R408, R409) -/

/-- A party has waited long enough and has sent no token in this wait. -/
def State.probeDue (s : State) (x : Party) : Bool :=
  let sent := match x with
    | .partition k p => ((s.core k).prt p).probed
    | .codec c => (s.cluster c).codecProbed
  !sent && (match s.waitsOn x with | some (_, n) => decide (4096 ≤ n) | none => false)

/-- PROBE_TOKEN_SEND. -/
def State.probeTokenSend (s : State) (x : Party) : State :=
  if s.probeDue x then
    let s := match x with
      | .partition k p => s.modPrt k p fun q => { q with probed := true }
      | .codec c => s.modCluster c fun y => { y with codecProbed := true }
    { s with probes := s.probes ++ [⟨s.probeId, partyClu x, x⟩], probeId := s.probeId + 1 }
  else s

/-- DEADLOCK is logged in the region of the origin's job (R402). -/
def State.logDeadlock (s : State) (x : Party) (sub : Nat) : State :=
  match x with
  | .partition k _ =>
    match (s.core k).job with
    | some j => s.logJob j.desc j.inst 8 sub
    | none => s.logFailure 0 8 sub none 0 0
  | .codec c =>
    match (s.core (8 * c + 7)).ops.find? fun o => o.popping with
    | some o =>
      let t := s.graphTag (s.instOf o.job)
      s.logFailure (s.opRegion (8 * c + 7) o) 8 sub t.1 t.2 o.job
    | none => s.logFailure 0 8 sub none 0 0

/-- An unresolved cycle, known by its first full port: DEADLOCK is logged with SUB 1, and firmware is to end every job on
the cycle (R409, log 120). -/
def State.unresolved (s : State) (origin : Party) (full : Option Nat) : State :=
  let jobs := (s.onCycle origin full).filterMap s.partyJob
  let s := s.logDeadlock origin 1
  { s with sched := { s.sched with ending := (s.sched.ending ++ jobs).dedup } }

/-- A copy has returned to its origin: the first full port on its cycle is granted its reserve entry, or the cycle is
unresolved; a port that has been granted it already is granted no other (R409). -/
def State.confirm (s : State) (t : Probe) (full : Option Nat) : State :=
  match full with
  | none => s.unresolved t.origin full
  | some i =>
    let h := hqAt (s.cluster t.clu).hq i
    if h.granted then s
    else if h.reserve then s.unresolved t.origin full
    else (s.modCluster t.clu fun c => { c with hq := c.hq.modify i fun q => { q with granted := true } }).logDeadlock t.origin 0

/-- PROBE_TOKEN_RETURN: the copies of a token whose cycles still stand confirm them. -/
def State.probeTokenReturn (s : State) (id : Nat) : State :=
  match s.probes.find? fun t => t.id == id with
  | none => s
  | some t => (s.cycles t.origin).foldl (fun s f => s.confirm t f) { s with probes := s.probes.filter fun x => x.id != id }

end Sys2Proof.Machine
end

