-- ==== Sys2Proof/Machine/Clock.lean ====
section
/-! DEFINITION. Time: what the part does next. Within an FCLK the events of the mesh, the scheduler and the
firmware come first, then each cluster whose clock has an edge: for each of its cores the events of the
ACLK's start, the turns of the twelve partitions, and the end of the ACLK (R7, R42, R45, R54, R61, R319,
R322; log 7). -/

namespace Sys2Proof.Machine

/-! ### Accesses of a core that end -/

/-- The data of an entry returns: a load, atomic or walk is performed once the entries before it allow it (R215, R264).
None while it must wait. -/
def State.dataReturns? (s : State) (k p id : Nat) : Option State :=
  let q := (s.core k).prt p
  (q.loadEntry id).bind fun o =>
    if q.mopReady o then s.performAt k p o else none

/-- GM_DATA_RETURNS; nothing happens while the entry must wait. -/
def State.gmDataReturns (s : State) (k p id : Nat) : State := (s.dataReturns? k p id).getD s

/-- STORE_PERFORMED: the first store, mark or fork that may be performed is (R262, R267, R273). -/
def State.storePerformed (s : State) (k p : Nat) : State :=
  match ((s.core k).prt p).storeEntry with
  | some o => (s.performAt k p o).getD s
  | none => s

/-- SPILL_ACCESS_COMPLETE. -/
def State.spillAccessComplete (s : State) (k p : Nat) : State :=
  if ((s.core k).prt p).spills then (s.performSpill k p).getD s else s

/-- FTB_REFILL: the miss that waits is searched for; nothing happens while a home holds the search. -/
def State.ftbRefill (s : State) (k : Nat) : State :=
  match (s.core k).refill with
  | some r => (s.ftbFill k r).getD s
  | none => s

/-! ### What comes next -/

/-- The next thing that happens: a step of the table, or a move of the clocks between steps. -/
inductive Todo where
  | run (i : Instr)
  | move (s : State)

/-- One of a list of things that may happen, or none of them: a free choice (R54, R280, log 8). -/
def choose {α : Type} (n : Nat) (l : List α) : Option α := l[Config.freeChoice n % (l.length + 1)]?

/-- Whether a step of those that may come next can happen now: what waits for a home, for data, for room or for
the rest of its gang cannot. -/
def State.canHappen (s : State) (i : Instr) : Bool :=
  match i with
  | .gmDataReturns k p id => (s.dataReturns? k p id).isSome
  | .storePerformed k p =>
    match ((s.core k).prt p).storeEntry with | some o => (s.performAt k p o).isSome | none => false
  | .spillAccessComplete k p => (s.performSpill k p).isSome
  | .ftbRefill k => match (s.core k).refill with | some r => (s.ftbFill k r).isSome | none => false
  | .parityReloadDone k p => (s.reload? k p).isSome
  | .engineOpComplete k id => (s.opComplete? k id).isSome
  | .copyfFollowOn k id => decide ((s.core k).engineLoad 3 < 16) && (s.core k).ops.all fun x => x.parent != some id
  | .patchApplyPatch => (s.patch? 0).isSome
  | .patchApplyReissue => (s.patch? 1).isSome
  | .patchApplyRestart => (s.patch? 2).isSome
  | .patchApplyEndJob => (s.patch? 3).isSome
  | .jobLaunchComplete k => (s.launch? k).isSome
  | _ => true

/-- The first step of a list of steps that are due. -/
def firstDue (l : List (Bool × Instr)) : Option Instr := (l.find? fun x => x.1).map Prod.snd

/-! ### The start of an FCLK -/

/-- A request from outside that can be taken now. -/
def State.inboxHead (s : State) : Option Instr :=
  match s.inbox with
  | .hostPeerRead p a n t :: _ => if (s.pcieRead? p a n t).isSome then s.inbox.head? else none
  | .hostPeerWrite p a d :: _ => if (s.pcieWrite? p a d).isSome then s.inbox.head? else none
  | .homeRequest r :: _ => if (s.homeRequest? r).isSome then s.inbox.head? else none
  | .homeRegisterWrite h w :: _ => if (s.homeRegisterWrite? h w).isSome then s.inbox.head? else none
  | .eccCorrectable e :: _ => if s.eccWaits e then none else s.inbox.head?
  | .eccUncorrectable e :: _ => if s.eccWaits e then none else s.inbox.head?
  | l => l.head?

/-- All parties of the part. -/
def parties : List Party :=
  ((List.range 128).flatMap fun k => (List.range 12).map fun p => Party.partition k p) ++ (List.range 16).map Party.codec

/-- Ports whose next entry has been invisible for 64 FCLK, or for 8 at least (R75). -/
def State.hiddenFor (s : State) (n : Nat) : List (Nat × Nat) :=
  s.clusters.zipIdx.flatMap fun (c, i) =>
    (c.hq.zipIdx.filter fun x => match x.1.nextAge with | some a => decide (n ≤ a) | none => false).map fun x => (i, x.2)

/-- Steps that happen as soon as they are due, in this order, before the FCLK goes on. -/
def State.fclkDue (s : State) : Option Instr :=
  let bound := match s.sched.boundaries with
    | (g, n) :: _ => [((s.stepBoundary? g n).isSome, Instr.stepBoundary g n)]
    | [] => []
  firstDue <|
    bound ++ [(s.ratioDue, .sratioSample), (s.refillDue, .budgetRefill)] ++
    (s.hiddenFor 64).map (fun x => (true, .queueEntryVisible x.1 x.2)) ++
    ((List.range 2048).filter s.coalesceDue).map (fun v => (true, .msixCoalesceTimeout v)) ++
    (parties.filter s.probeDue).map (fun x => (true, .probeTokenSend x)) ++
    ((List.range 1024).filter fun i => (s.release? i).isSome).map (fun i => (true, .frameRelease i)) ++
    [(s.turnDue, .dispatchTurn)]

/-- The step that takes the entry at the head of a ring. -/
def entryStep (n opc : Nat) : Instr :=
  match opc with
  | 1 => .sqInvoke n
  | 2 => .sqSopen n
  | 3 => .sqSclose n
  | 4 => .sqSupdate n
  | 5 => .sqFence n
  | _ => .sqNop n

/-- Entries at the heads of rings; one whose read is refused may be read again. -/
def State.ringSteps (s : State) : List Instr :=
  (List.range 8).filterMap fun n =>
    match s.headRead n with
    | .ok _ e => some (entryStep n (entryOpc e))
    | .fault _ _ _ => some (.sqNop n)
    | .wait => none

/-- Cores whose job is being launched. -/
def State.launching (s : State) : List Nat :=
  (List.range 128).filter fun k => match (s.core k).job with | some j => j.phase == .launching | none => false

/-- Homes that hold a request to a page that is no longer MOVING. -/
def State.stableHomes (s : State) : List Nat :=
  (List.range 36).filter fun h => (s.mem.home h).held.any fun r => !s.mem.isMoving r.ia

/-- Sources of memory records: homes, and cores. -/
def State.recordSources (s : State) : List Nat :=
  ((List.range 36).filter fun h => (s.mem.home h).recs != []) ++ (s.dev.coreRecs.map fun r => fld r.dw0 40 8).dedup

/-- Steps that may happen in this FCLK and need not. -/
def State.fclkChoices (s : State) : List Instr :=
  s.ringSteps ++ s.launching.map (fun k => .jobLaunchComplete k) ++ (s.hiddenFor 8).map (fun x => .queueEntryVisible x.1 x.2) ++
    s.stableHomes.map (fun h => .heldRequestsProceed h) ++ (if s.dev.power = [] then [] else [.powerControllerRequestDone]) ++
    s.probes.map (fun t => .probeTokenReturn t.id) ++
    (if s.fwRoom then
      s.recordSources.map (fun x => Instr.memRecordPosted x) ++
        ((List.range 128).filter fun k => (s.core k).trapOut != []).map (fun k => Instr.trapRecordPosted k)
    else [])

/-- Handoff entries grow older by one FCLK. -/
def Cluster.ageEntries (c : Cluster) : Cluster :=
  { c with hq := c.hq.map fun h => { h with ents := h.ents.map fun e => { e with age := e.age + 1 } } }

/-- Firmware ends a job that it is to end, once it can (R358, R409); halted firmware lets it run (R418, log 133). -/
def State.endOne (s : State) (job : BitVec 32) : State :=
  let done (t : Option State) : State :=
    match t with
    | some t => { t with sched := { t.sched with ending := t.sched.ending.filter fun x => x != job } }
    | none => s
  if s.dev.fwhalt then s
  else
  match s.whereIs job with
  | .live k => done (s.endLive? k 0)
  | .saved g n i j => done (s.endSaved g n i j 0)
  | .gone => done (some s)

/-- What the scheduler and firmware take up again with every FCLK: entries of the stream table that are still to be
written, jobs to end, pages that are still to move, and streams that can no longer be finished (R286, R409, R417). -/
def State.catchUp (s : State) : State :=
  let s := s.sched.stale.foldl State.writeStream s
  let s := s.sched.ending.foldl State.endOne s
  let s := s.dev.retiring.foldl (fun s pg => s.retirePage (BitVec.ofNat 48 (4096 * pg))) s
  if s.dev.replace then s.closeLost else s

/-- An FCLK passes; 5 ns of SCHTNOW with every eighth (R283, R296). -/
def State.tickFclk (s : State) : State :=
  let s : State := { s.catchUp with fclk := s.fclk + 1, clusters := s.catchUp.clusters.map Cluster.ageEntries }
  if s.fclk % 8 = 0 then s.chargeTime else s

/-- A free choice has been made. -/
def State.chosen (s : State) : State := { s with free := s.free + 1 }

/-- The start of an FCLK. Before the boot, and after one that failed, only requests from outside are taken
(R315, R415). -/
def State.todoFclk (s : State) : Todo × State :=
  if !s.dev.booted && s.dev.bootst == 0 then (.run .reset, s)
  else
    match s.inboxHead with
    | some i => (.run i, { s with inbox := s.inbox.drop 1 })
    | none =>
      if !s.dev.booted then (.move s.tickFclk, s)
      else
        match s.fclkDue with
        | some i => (.run i, s)
        | none =>
          match choose s.free (s.fclkChoices.filter s.canHappen) with
          | some i => (.run i, s.chosen)
          | none => (.move { s.chosen.tickFclk with phase := .cluster 0 }, s)

/-! ### Clocks (R7, R319) -/

/-- What follows cluster c in an FCLK. -/
def afterCluster (c : Nat) : Phase := if c < 15 then .cluster (c + 1) else .fclk

/-- A cluster's turn: its ACLK has (16 + FSTEP) / 64 of the edges of FCLK. With an edge its codec engine
pops what it can and its cores have an ACLK. -/
def State.clusterTurn (s : State) (c : Nat) : State :=
  let n := (s.cluster c).phase + 16 + (s.cluster c).fstep.toNat
  let s := s.modCluster c fun x => { x with phase := n % 64 }
  if n < 64 then { s with phase := afterCluster c } else { s.codecPop c with phase := .start (8 * c) }

/-! ### The start of an ACLK -/

/-- Partitions of which something holds. -/
def prtsWith (f : Nat → Bool) : List Nat := (List.range 12).filter f

/-- Steps that fall due at the start of a core's ACLK, in this order. -/
def State.startDue (s : State) (k : Nat) : Option Instr :=
  let c := s.core k
  let each (f : Nat → Bool) (i : Nat → Instr) : List (Bool × Instr) := (prtsWith f).map fun p => (true, i p)
  firstDue <|
    [(s.hardDue k, .hardPreempt k)] ++
    each (fun p => (c.prt p).transferDue) (fun p => .transferDelayEnds k p) ++
    each c.landsDue (fun p => .resultLands k p) ++
    [(c.exchangesDue != [], .exchangeLands k)] ++
    ((List.range 8).filter fun m => let x := c.sh.cim (BitVec.ofNat 3 m); x.ivl.due || x.bivl.due).map
      (fun m => (true, .mxAcceptIntervalEnds k m)) ++
    each (fun p => (c.prt p).retires) (fun p => .sectionRetire k p) ++
    [(c.lockDue, .lockGroupForms k), (s.helperEnds k, .rahHelperDies k), (s.helperDue k, .rahHelperSpawn k),
      (c.saveDue && (s.save? k).isSome, .rucksackWrite k), ((s.jobEnd? k).isSome, .jobEnd k)]

/-- Entries of a partition's queues that may be performed now. -/
def Partition.mopSteps (q : Partition) (k p : Nat) : List Instr :=
  ((q.mops.filter fun o => (o.isLoad || o.kind == .amo) && q.mopReady o).map fun o => Instr.gmDataReturns k p o.id) ++
    (if q.storeEntry.isSome then [.storePerformed k p] else [])

/-- The step of a patch operation with an ACT (R358). -/
def patchStep (act : Nat) : Instr :=
  match act with
  | 0 => .patchApplyPatch
  | 1 => .patchApplyReissue
  | 2 => .patchApplyRestart
  | _ => .patchApplyEndJob

/-- Steps of the engines of a core that may happen. -/
def State.engineSteps (s : State) (k : Nat) : List Instr :=
  let c := s.core k
  (((List.range 10).filter fun e => (c.startable k e).isSome).map fun e => Instr.engineOpStart k e) ++
    ((c.ops.filter fun o => o.phase == .running || o.phase == .released).map fun o => Instr.engineOpComplete k o.id) ++
    ((c.ops.filter fun o => o.op == .mq && o.phase == .running).map fun o => Instr.mqSourcesReleased k o.id) ++
    ((c.ops.filter fun o => o.phase == .copied).map fun o => Instr.copyfFollowOn k o.id) ++
    (if k = 0 then (match s.patchHead with | some o => [patchStep (fld (o.dw 0) 62 2)] | none => []) else [])

/-- Steps that may happen before the ACLK's turns, and need not. While FTB entries 0 to 15 are being
reloaded nothing is translated (R385). -/
def State.startChoices (s : State) (k : Nat) : List Instr :=
  let c := s.core k
  ((List.range 12).flatMap fun p => (c.prt p).mopSteps k p) ++
    (if c.ftbReload then [.parityReloadDone k 0]
    else
      (prtsWith fun p => (c.prt p).spills).map (fun p => Instr.spillAccessComplete k p) ++
        (if c.refill.isSome then [Instr.ftbRefill k] else []) ++
        (prtsWith fun p => (c.prt p).badParcels != []).map fun p => Instr.parityReloadDone k p) ++
    s.engineSteps k

/-- A prefetch that has issued is served: its line enters the LLC, and the L1 where its policy allows; one that a home
holds is tried again, and one that faults is dropped (R116, R218). -/
def State.servePrefetch (s : State) (k : Nat) : State :=
  match (s.core k).prefs with
  | [] => s
  | (ia, l1p) :: rest =>
    let left (l : List (Addr × BitVec 2)) (m : Memory) : State := { s.modCore k fun c => { c with prefs := l } with mem := m }
    match s.mem.request (BitVec.ofNat 48 (lineOf ia)) .rd 128 (s.core k).jobId with
    | (_, .wait) => left (rest ++ [(ia, l1p)]) s.mem
    | (m, .fault _) => left rest m
    | (m, .go pl _) =>
      if l1p = 0 ∧ m.poisoned pl 128 = false ∧ (s.core k).l1Find ia = none then
        (left rest m).modCore k fun c => c.l1Fill (lineOf ia) (BitVec.ofNat 1024 (m.get pl 128))
      else left rest m

/-- What reads of an ACLK see of storage, and what pending bits tell: as they stand at its start (R68, R362). -/
def Core.markPending (c : Core) : Core :=
  { c with sh0 := c.sh, mxFly0 := ([9, 10].flatMap fun p => (c.prt p).fly).filter fun f => f.unit == .mx, xfly0 := c.xfly }

/-- The ACLK begins: reads of it see storage, and the registers of the firmware core, as they stand now, kvap rows that have just landed are written
in it, and the locked group's step is decided (R45, R68, R240). -/
def State.beginAclk (s : State) (k : Nat) : State :=
  let s := s.modCore k fun c =>
    let rows := c.late
    { c.markPending with late := [], mxUsed := 0, sh := rows.foldl (fun h x => csStoreBytes h x.1.toNat x.2) c.sh }
  let s : State := if isFwCore k then { s with fw0 := s.fw } else s
  { s.decideStep k with phase := .prt k 0 }

/-- The start of an ACLK of core k. -/
def State.todoStart (s : State) (k : Nat) : Todo × State :=
  match s.startDue k with
  | some i => (.run i, s)
  | none =>
    match choose s.free ((s.startChoices k).filter s.canHappen) with
    | some i => (.run i, s.chosen)
    | none =>
      let s := s.chosen
      let s := if (s.core k).prefs ≠ [] ∧ Config.freeChoice s.free % 2 = 1 then s.chosen.servePrefetch k else s.chosen
      (.move (s.beginAclk k), s)

/-! ### A partition's turn -/

/-- The turn of partition p of core k. A pre-emption stops it before it fetches where the rules say so (R48);
a locked member holds while the step does not go on (R45). -/
def State.todoTurn (s : State) (k p : Nat) : Todo :=
  let c := s.core k
  match c.stopKindNow p with
  | some kind => .move ((s.stopHere k p kind).nextTurn k p)
  | none =>
    match s.fetch k p with
    | .skip => .move (s.nextTurn k p)
    | .tick => .move ((if c.held p then s else s.modCore k fun c => c.tick p).nextTurn k p)
    | .reload => .move ((s.modPrt k p fun q => { q with stalled := true, refused := 0, qwait := none, probed := false }).nextTurn k p)
    | .trap x pc => .move ((if c.held p then s else s.takeTrap k p x.kind.code x.info1 x.info2 pc).nextTurn k p)
    | .header len mask wait => .run (.sectionHeader len mask wait)
    | .group g => .run (Instr.ofGroup g)

/-! ### The end of an ACLK -/

/-- The tag operations of the ACLK, after its ks stores (R224). -/
def Core.applyTags (c : Core) : Core :=
  { c with sh := c.tagWrs.foldl (fun h w => h.modTag w.slot fun e => e.apply w.op w.entry) c.sh, tagWrs := [] }

/-- A bkt's padding registers in every partition; MXPAD keeps its FILL (R135, R177). They stand over what a write of PADV,
MXPAD or KVPAD of the same ACLK, by whichever partition, has left there, and FILL is as that write leaves it (log 141). -/
def Core.applyBucket (c : Core) : Core :=
  match c.bktWr with
  | some (a, b, d) => { c.allPrts (fun q => { q with padv := a, mxpad := (at' 48 (fld q.mxpad 48 16)) ||| b, kvpad := d }) with bktWr := none }
  | none => c

/-- An ACLK more since every engine's last start (R318). -/
def Core.agePacing (c : Core) : Core := { c with paceAge := c.paceAge.map fun n => min 65535 (n + 1) }

/-- Partitions that count as started, and those of them that stalled or lay in a frozen step; one that is trapped, that a
pre-emption has stopped or that waits at the rendezvous does not stall (R42, R322). -/
def Core.counted (c : Core) : Nat × Nat :=
  let ps := prtsWith fun p => (c.prt p).started && !(c.prt p).joined
  let stalls (p : Nat) : Bool := let q := c.prt p; q.stalled && q.trap.isNone && q.stop.isNone && !c.lwait.getLsbD p
  (ps.length, (ps.filter fun p => stalls p || c.held p).length)

/-- The end of core k's ACLK: semaphores, tags, padding registers, the step's count, the helper, pacing and
the stall ratio. -/
def State.endAclk (s : State) (k : Nat) : State :=
  let n := (s.core k).counted
  let s := s.modCore k fun c => (((c.applySemas.applyTags.applyBucket).endStep).helperCycle s.fw0 k).agePacing
  let s := s.modCluster (cluOf k) fun x => { x with startedN := x.startedN + n.1, stalledN := x.stalledN + n.2 }
  { s with phase := if corOf k < 7 then .start (k + 1) else afterCluster (cluOf k) }

/-! ### An instruction to be fetched next -/

/-- Where an instruction can be placed: a core and a partition of a kind that an encoding is read in. -/
def placeOfCtx (c : Ctx) : Nat × Nat :=
  (if c.fcore then 7 else 0, match c.prt with | .ctl => 0 | .vec => 1 | .mat => 9 | .mem => 11)

/-- A partition that comes upon a header, or upon words in a section, at the start of its store. -/
def Partition.withParcels (q : Partition) (ps : List (BitVec 32)) : Partition :=
  { q with
    started := true, joined := false, pc := 0, left := ps.length / 3, secs := if ps.length = 2 then [] else [⟨0, false, 0⟩],
    secNo := if ps.length = 2 then 0 else 1, loop := .zero, transfer := none, far := none, idle := 0, trap := none, swtrap := none, stop := none,
    store := ps, slen := 6144, badParcels := [] }

/-- The part with an instruction where the next turn fetches it: in the first kind of partition that reads
its parcels, on the firmware core or the F-core of cluster 0. The boot ROM has run, no locked group holds the
partition, and storage stands as at the start of an ACLK. -/
def State.placeParcels (s : State) (ps : List (BitVec 32)) : State :=
  let c := (allCtxs.find? fun c => (decodeParcels c ps).toOption.isSome).getD ⟨.ctl, false, true⟩
  let (k, p) := placeOfCtx c
  let s := s.modCore k fun c =>
    let c := c.modPrt p fun q => q.withParcels ps
    { c with
      locked := putBit c.locked p false, lwait := putBit c.lwait p false, ftbReload := false, sh0 := c.sh, mxFly0 := [], xfly0 := [],
      job := c.job.map fun j => { j with phase := .running } }
  { s with fw0 := s.fw, dev := { s.dev with booted := true, fwhalt := false }, phase := .prt k p }

end Sys2Proof.Machine
end

