-- ==== Sys2Proof/Machine/CoreEvents.lean ====
section
/-! DEFINITION. The meanings of the events of a core and its cluster: what falls due, memory accesses, the locked
group, the helper, engines, the patch engine, handoff queues and their probe tokens (R37, R43, R46, R47, R61,
R73, R75, R103, R175, R176, R215, R228, R245, R262, R344, R357, R358, R385, R408, R409). -/

namespace Sys2Proof.Machine

/-- R37: A section retires once its last word has issued and its triggers and stores have finished; RSC
advances and RGNADDR is updated. -/
def execSectionRetire (k p : Nat) (s : State) : Result := .next (s.sectionRetire k p)

/-- R61: A fixed-latency result lands in its latch at the start of cycle t + L, raising its flags and possibly
colliding under R63. -/
def execResultLands (k p : Nat) (s : State) : Result := .next (s.resultLands k p)

/-- R215: A scoreboarded gm or rw access returns its data or poison into the latch, releasing any stalled
read. -/
def execGmDataReturns (k p id : Nat) (s : State) : Result := .next (s.gmDataReturns k p id)

/-- R73: An exchange value lands in the receiver's inbound slot 2 ACLK or 2 SCNT steps after issue, with
collisions setting PSTAT.XCOL. -/
def execExchangeLands (k : Nat) (s : State) : Result := .next (s.exchangeLands k)

/-- R175: After the three delay cycles of a transfer the partition leaves its section and reads the target as
a section header. -/
def execTransferDelayEnds (k p : Nat) (s : State) : Result := .next (s.transferDelayEnds k p)

/-- R228: The acceptance interval of a macro elapses and it can accept a further compute trigger. -/
def execMxAcceptIntervalEnds (k m : Nat) (s : State) : Result := .next (s.mxAcceptIntervalEnds k m)

/-- R43: The locked group forms in the ACLK after the last member's sy.lock has issued, and all members then
issue one group per SCNT step. -/
def execLockGroupForms (k : Nat) (s : State) : Result := .next (s.lockGroupForms k)

/-- R103: On an FTB miss the core searches the job's range table and fills the entry at FILLPTR, or faults
with FMISS or ECC. -/
def execFtbRefill (k : Nat) (s : State) : Result := .next (s.ftbRefill k)

/-- R46: A run-ahead helper is spawned at RAHBASE when the decoupled mem partition stalls on a global-load
destination. -/
def execRahHelperSpawn (k : Nat) (s : State) : Result := .next (s.rahHelperSpawn k)

/-- R47: A helper dies when its stall ends, on a trap or pre-emption request, at its 256th word, or at a PC
outside the stream. -/
def execRahHelperDies (k : Nat) (s : State) : Result := .next (s.rahHelperDies k)

/-- R262: A store leaves its partition's store queue and is performed at the line's LLC slice, or is accepted
by its home for forwarding. -/
def execStorePerformed (k p : Nat) (s : State) : Result := .next (s.storePerformed k p)

/-- R176: A return-stack spill read or write of a call or ret completes or faults, releasing the stalled issue
group. -/
def execSpillAccessComplete (k p : Nat) (s : State) : Result := .next (s.spillAccessComplete k p)

/-- R344: A trap record that waited in its core for room is posted to the firmware core's event queue. -/
def execTrapRecordPosted (k : Nat) (s : State) : Result := .next (s.trapRecordPosted k)

/-- R385: The reload of an instruction-store parcel from IMAGE, or of FTB entries 0 to 15 from RELOC,
completes after a parity error, ending the partition's stall or trapping with LOST if it fails. -/
def execParityReloadDone (k p : Nat) (s : State) : Result := .next (s.parityReloadDone k p)

/-- R75: A pushed handoff-queue entry becomes visible to the reader 8 to 64 FCLK after the push, in push
order. -/
def execQueueEntryVisible (clu port : Nat) (s : State) : Result := .next (s.queueEntryVisible clu port)

/-- R408: After 4,096 ACLK waiting on a queue a party sends a probe token along the chain. -/
def execProbeTokenSend (party : Party) (s : State) : Result := .next (s.probeTokenSend party)

/-- R409: A returning token confirms a cycle, grants a reserve entry or logs an unresolved DEADLOCK. -/
def execProbeTokenReturn (id : Nat) (s : State) : Result := .next (s.probeTokenReturn id)

/-- R245: An engine starts a queued command in queue order, after pacing and after earlier stores are
performed. -/
def execEngineOpStart (k eng : Nat) (s : State) : Result := .next (s.engineOpStart k eng)

/-- R245: An engine operation completes, applies its semaphore signal and posts an event record where
required. -/
def execEngineOpComplete (k id : Nat) (s : State) : Result := .next (s.engineOpComplete k id)

/-- R249: When a copyf's last byte lands, Hamper enqueues its follow-on mq into the matrix queue. -/
def execCopyfFollowOn (k id : Nat) (s : State) : Result := .next (s.copyfFollowOn k id)

/-- R253: An mq that has read every source byte adds RELINC to SEMA[RELSEM]. -/
def execMqSourcesReleased (k id : Nat) (s : State) : Result := .next (s.mqSourcesReleased k id)

/-- R357: Patch engine with ACT 0b00 writes a retry-ring reply into live state or image and leaves the
partition trapped. -/
def execPatchApplyPatch (s : State) : Result := .next (s.patchApply 0)

/-- R358: Patch engine with ACT 0b01 patches and then reissues the trapped group. -/
def execPatchApplyReissue (s : State) : Result := .next (s.patchApply 1)

/-- R358: Patch engine with ACT 0b10 patches and restarts the partition at RGNADDR. -/
def execPatchApplyRestart (s : State) : Result := .next (s.patchApply 2)

/-- R358: Patch engine with ACT 0b11 patches and ends the job without join. -/
def execPatchApplyEndJob (s : State) : Result := .next (s.patchApply 3)

end Sys2Proof.Machine
end

