-- ==== Sys2Proof/Machine/DeviceEvents.lean ====
section
/-! DEFINITION. The meanings of the events of the memory system, the links, power and health (R107, R110, R115, R278,
R308 to R323, R384, R385, R412 to R416). -/

namespace Sys2Proof.Machine

/-- R385: A correctable error is corrected, its counter incremented and a KIND 3 record posted at threshold.
-/
def execEccCorrectable (e : EccSite) (s : State) : Result := .next (s.eccCorrectable e)

/-- R385: An uncorrectable error poisons, invalidates or reloads the structure and posts a KIND 1 record. -/
def execEccUncorrectable (e : EccSite) (s : State) : Result := .next (s.eccUncorrectable e)

/-- R384: A buffered memory record is posted to the firmware core's event queue when room appears. -/
def execMemRecordPosted (src : Nat) (s : State) : Result := .next (s.memRecordPosted src)

/-- R107: A home translates a request through its range and page TLBs, walking page tables on a miss, and
serves or forwards it. -/
def execHomeRequest (r : HomeReq) (s : State) : Result := .next (s.homeRequest r)

/-- R115: Requests held for a MOVING page proceed in arrival order once STABLE is seen. -/
def execHeldRequestsProceed (home : Nat) (s : State) : Result := .next (s.heldProceed home)

/-- R110: An invalidation issued by firmware drops cached translations at a home. -/
def execHomeInvalidate (home : Nat) (iapg : Option (BitVec 36)) (s : State) : Result := .next (s.homeInvalidate home iapg)

/-- R107: Firmware writes a home register (a range-TLB entry, HPTBASE or CAIRNBASE), and accesses held on an
invalidated range entry are released. -/
def execHomeRegisterWrite (home : Nat) (w : HomeRegWrite) (s : State) : Result := .next (s.homeRegisterWrite home w)

/-- R278: A PCIe read from the host or a peer is performed at the LLC slice or owner and completed. -/
def execHostPeerRead (port : Nat) (a : PcieAddr) (len tag : Nat) (s : State) : Result := .next (s.pcieRead port a len tag)

/-- R278: A PCIe posted write from the host or a peer is performed at the LLC slice or owner. -/
def execHostPeerWrite (port : Nat) (a : PcieAddr) (data : List (BitVec 8)) (s : State) : Result := .next (s.pcieWrite port a data)

/-- R320: A cluster frequency and bias request is served in order, ramping VDD and stepping ACLK. -/
def execCpreqWrite (c : Nat) (x : BitVec 64) (s : State) : Result := .next (s.cpreqWrite c x)

/-- R320: A VMIN request is served in order, changing the VDD floor. -/
def execVminWrite (x : BitVec 64) (s : State) : Result := .next (s.vminWrite x)

/-- R320: The power controller finishes a CPREQ or VMIN request once VDD is in regulation and ACLK has
stepped, writes its status, clears PEND or VPEND and starts the queued request. -/
def execPowerControllerRequestDone (s : State) : Result := .next (s.powerDone)

/-- R322: Every 10 μs each cluster's stall ratio is sampled into SRATIO. -/
def execSratioSample (s : State) : Result := .next (s.sratioSample)

/-- R416: Every 1 ms firmware reads each thermal sensor and may exclude it. -/
def execSensorRead (c i : Nat) (raw : BitVec 16) (s : State) : Result := .next (s.sensorRead c i raw)

/-- R323: The board controller passes input power, VDD current and coolant temperature readings to firmware
over MCTP every 1 ms. -/
def execBoardControllerTelemetry (power current coolant : Nat) (s : State) : Result := .next (s.telemetry power current coolant)

/-- R413: A flit replay is performed transparently and counted in REPLAY. -/
def execFlitReplay (port : Nat) (s : State) : Result := .next (s.flitReplay port)

/-- R413: A failing lane group lowers MAXW, retrains the link by L0p and logs LINK. -/
def execLaneFault (port : Nat) (maxw : BitVec 3) (s : State) : Result := .next (s.laneFault port maxw)

/-- R309: An L0p width change retrains lanes without halting the link or reordering TLPs. -/
def execL0pWidthChange (port : Nat) (width : BitVec 3) (s : State) : Result := .next (s.l0p port width)

/-- R413: A TLP failing IDE integrity is dropped, counted and its stream made Insecure. -/
def execIdeIntegrityFail (port strm : Nat) (s : State) : Result := .next (s.ideFail port strm)

/-- R310: IDE keys are exchanged over Secured SPDM, with non-AES-256-GCM key sets refused. -/
def execIdeKm (port strm : Nat) (aes256gcm : Bool) (s : State) : Result := .next (s.ideKm port strm aes256gcm)

/-- R414: A link that goes down sets DOWN and MAXW 0, logs LINK and fails accesses across it. -/
def execLinkDown (port : Nat) (s : State) : Result := .next (s.linkDown port)

/-- R414: A reset of a port brings a down link back. -/
def execPortReset (port : Nat) (s : State) : Result := .next (s.portReset port)

/-- R316: An SPDM GET_MEASUREMENTS request returns signed SHA-384 measurements. -/
def execGetMeasurements (path : MeasPath) (index : Nat) (s : State) : Result := .next (s.getMeasurements path index)

/-- R308: A request to the DOE mailbox carrying Discovery, SPDM or Secured SPDM is answered. -/
def execDoeRequest (port : Nat) (q : DoeReq) (s : State) : Result := .next (s.doeRequest port q)

/-- R315: At reset the boot ROM reads, measures and verifies firmware and module record, then enters firmware
or stops with BOOTST. -/
def execReset (s : State) : Result := .next (s.boot)

/-- R412: An uncorrectable codec error completes the current command with ECC and retires the engine. -/
def execCodecEngineFailure (c : Nat) (s : State) : Result := .next (s.codecFailure c)

end Sys2Proof.Machine
end

