-- ==== Sys2Proof/Machine/EngineWords.lean ====
section
/-! DEFINITION. The meanings of command words: each enters its engine's queue (R147 to R149, R245 to R260). Each word is an
issue group of its own at the turn of the partition that reads it. -/

namespace Sys2Proof.Machine

/-- R248: Forks a one-dimensional byte copy between VA, core store and register space. -/
def execHamperCopy1d (f : CmdFields) (s : State) : Result := execGroup ⟨.mc (.copy 0) f, none⟩ s

/-- R248: Forks a two-dimensional copy. -/
def execHamperCopy2d (f : CmdFields) (s : State) : Result := execGroup ⟨.mc (.copy 1) f, none⟩ s

/-- R248: Forks a three-dimensional copy. -/
def execHamperCopy3d (f : CmdFields) (s : State) : Result := execGroup ⟨.mc (.copy 2) f, none⟩ s

/-- R249: Forks a one-dimensional copy followed by an mq. -/
def execHamperCopyf1d (f : CmdFields) (s : State) : Result := execGroup ⟨.mc (.copyf 0) f, none⟩ s

/-- R249: Forks a two-dimensional copy followed by an mq. -/
def execHamperCopyf2d (f : CmdFields) (s : State) : Result := execGroup ⟨.mc (.copyf 1) f, none⟩ s

/-- R249: Forks a three-dimensional copy followed by an mq. -/
def execHamperCopyf3d (f : CmdFields) (s : State) : Result := execGroup ⟨.mc (.copyf 2) f, none⟩ s

/-- R250: Forks an indexed gather from memory into the register space. -/
def execGatherGath (f : CmdFields) (s : State) : Result := execGroup ⟨.mc (.gath) f, none⟩ s

/-- R250: Forks an indexed scatter from the register space into memory. -/
def execGatherScat (f : CmdFields) (s : State) : Result := execGroup ⟨.mc (.scat) f, none⟩ s

/-- R251: Forks a rank-ordered reduction across a gang. -/
def execCollCred (f : CmdFields) (s : State) : Result := execGroup ⟨.mc (.cred) f, none⟩ s

/-- R251: Forks a broadcast from rank ROOT across a gang. -/
def execCollCbc (f : CmdFields) (s : State) : Result := execGroup ⟨.mc (.cbc) f, none⟩ s

/-- R252: Forks a queued mma or mmt over NROW A rows in the core store. -/
def execMqueueMq (f : CmdFields) (s : State) : Result := execGroup ⟨.mc (.mq) f, none⟩ s

/-- R254: Forks N radix walks with results in the register space. -/
def execWalkerAwalk (f : CmdFields) (s : State) : Result := execGroup ⟨.mc (.awalk) f, none⟩ s

/-- R257: Forks the encoding of one frame from hq14 and hq15 into the bitstream ring. -/
def execCodecEnc (f : CmdFields) (s : State) : Result := execGroup ⟨.mc (.enc) f, none⟩ s

/-- R258: Forks the decoding of one access unit into an output frame. -/
def execCodecDec (f : CmdFields) (s : State) : Result := execGroup ⟨.mc (.dec) f, none⟩ s

/-- R259: Forks a fill of a core-store slot with a line read through the LLC. -/
def execTagFill (f : CmdFields) (s : State) : Result := execGroup ⟨.mc (.fill) f, none⟩ s

/-- R259: Forks an eviction of a slot with writeback if dirty. -/
def execTagEvict (f : CmdFields) (s : State) : Result := execGroup ⟨.mc (.evict) f, none⟩ s

/-- R259: Forks a writeback of a slot's line. -/
def execTagWback (f : CmdFields) (s : State) : Result := execGroup ⟨.mc (.wback) f, none⟩ s

/-- R260: Forks the posting of a record with an IMM payload into the core's event queue. -/
def execEventPost (f : CmdFields) (s : State) : Result := execGroup ⟨.mc (.post) f, none⟩ s

end Sys2Proof.Machine
end

