-- ==== Sys2Proof/Machine/FlowWords.lean ====
section
/-! DEFINITION. The meanings of the words of br, lp and sy: transfers, loops, semaphores, the locked group, marks,
regions, checks and events (R173 to R189, R267). Each word is an
issue group of its own at the turn of the partition that reads it. -/

namespace Sys2Proof.Machine

/-- R174: Writes t[14:2] into BTn.PC at the end of the issue cycle. -/
def execBrTgt (n : BitVec 2) (g : Guard) (src : Src) (s : State) : Result := execGroup (oneMove g src (.trig (.brTgt n))) s

/-- R175: Transfers to BTn.PC after three delay cycles. -/
def execBrJmp (n : BitVec 2) (g : Guard) (src : Src) (s : State) : Result := execGroup (oneMove g src (.trig (.brJmp n))) s

/-- R176: Pushes the return PC onto the return stack, spilling if full, then transfers to BTn.PC. -/
def execBrCall (n : BitVec 2) (g : Guard) (src : Src) (s : State) : Result := execGroup (oneMove g src (.trig (.brCall n))) s

/-- R176: Pops the return stack, refilling from the spill area if empty, and transfers to the popped PC. -/
def execBrRet (g : Guard) (src : Src) (s : State) : Result := execGroup (oneMove g src (.trig (.brRet))) s

/-- R177: Selects a bucket for a length, writes PADV, MXPAD and KVPAD in all partitions, and transfers to the bucket's target. -/
def execBrBkt (g : Guard) (src : Src) (s : State) : Result := execGroup (oneMove g src (.trig (.brBkt))) s

/-- R178: Raises a software trap with code t[15:0] at the next issue group. -/
def execBrTrap (g : Guard) (src : Src) (s : State) : Result := execGroup (oneMove g src (.trig (.brTrap))) s

/-- R180: Starts a pipelined loop of N iterations over a body of L words with S stages, driving p8-p15. -/
def execLpLoop (g : Guard) (src : Src) (s : State) : Result := execGroup (oneMove g src (.trig (.lpLoop))) s

/-- R181: Breaks a loop so that no further iteration starts and started ones drain. -/
def execLpLbrk (g : Guard) (src : Src) (s : State) : Result := execGroup (oneMove g src (.trig (.lpLbrk))) s

/-- R182: Returns the iteration index, iterations remaining or active stage mask of the current pass. -/
def execLpLrd (sel : LrdSel) (g : Guard) (src : Src) (s : State) : Result := execGroup (oneMove g src (.trig (.lpLrd sel))) s

/-- R185: Stalls the issue group until a semaphore reaches a threshold. -/
def execSySemw (g : Guard) (src : Src) (s : State) : Result := execGroup (oneMove g src (.trig (.sySemw))) s

/-- R185: Adds a signed increment to a semaphore, clamped and summed with other adds of the ACLK. -/
def execSySema (g : Guard) (src : Src) (s : State) : Result := execGroup (oneMove g src (.trig (.sySema))) s

/-- R185: Reads a semaphore's OVF and VAL into res. -/
def execSySemr (g : Guard) (src : Src) (s : State) : Result := execGroup (oneMove g src (.trig (.sySemr))) s

/-- R186: Ends issue in the partition and leaves any locked group. -/
def execSyJoin (g : Guard) (src : Src) (s : State) : Result := execGroup (oneMove g src (.trig (.syJoin))) s

/-- R186: Joins the rendezvous of a locked group with partition mask M, setting or checking the pending mask. -/
def execSyLock (g : Guard) (src : Src) (s : State) : Result := execGroup (oneMove g src (.trig (.syLock))) s

/-- R186: Leaves the locked group at the end of the step. -/
def execSyUnlock (g : Guard) (src : Src) (s : State) : Result := execGroup (oneMove g src (.trig (.syUnlock))) s

/-- R187: Marks an idempotent region entry by writing RGNADDR.PC and WREM. -/
def execSyRgn (g : Guard) (src : Src) (s : State) : Result := execGroup (oneMove g src (.trig (.syRgn))) s

/-- R267: Enters a partition-scope mark into the load and store queues. -/
def execSyMarkPrt (g : Guard) (src : Src) (s : State) : Result := execGroup (oneMove g src (.trig (.syMark .prt))) s

/-- R267: Enters a core-scope mark ordering all earlier accesses before later ones. -/
def execSyMarkCore (g : Guard) (src : Src) (s : State) : Result := execGroup (oneMove g src (.trig (.syMark .core))) s

/-- R267: Enters a cluster-scope mark and invalidates the core's L1. -/
def execSyMarkClu (g : Guard) (src : Src) (s : State) : Result := execGroup (oneMove g src (.trig (.syMark .clu))) s

/-- R267: Enters a device-scope mark and invalidates the core's L1. -/
def execSyMarkDev (g : Guard) (src : Src) (s : State) : Result := execGroup (oneMove g src (.trig (.syMark .dev))) s

/-- R267: Enters a system-scope mark, invalidates the L1 and performs earlier forwarded stores at system scope. -/
def execSyMarkSys (g : Guard) (src : Src) (s : State) : Result := execGroup (oneMove g src (.trig (.syMark .sys))) s

/-- R188: Writes RAHBASE.PC with the helper's first PC. -/
def execSyRah (g : Guard) (src : Src) (s : State) : Result := execGroup (oneMove g src (.trig (.syRah))) s

/-- R189: Traps if the trigger datum is poisoned and otherwise has no effect. -/
def execSyChk (g : Guard) (src : Src) (s : State) : Result := execGroup (oneMove g src (.trig (.syChk))) s

/-- R189: Takes the oldest event-queue record into the register space and writes 1 or 0 into res. -/
def execSyEvt (g : Guard) (src : Src) (s : State) : Result := execGroup (oneMove g src (.trig (.syEvt))) s

end Sys2Proof.Machine
end

