-- ==== Sys2Proof/Machine/GroupWords.lean ====
section
/-! DEFINITION. The meanings of whole issue groups, long-immediate words, IDLE, NOP, section headers and writes of
control registers (R38, R40, R71, R78, R79, R94, R146, R151, R164). Each word is an
issue group of its own at the turn of the partition that reads it. -/

namespace Sys2Proof.Machine

/-- R78: An issue group of MM words issues: guards are read, sources are read, then destinations are written
in slot order, including pops, pushes, exchanges, predicate writes and triggers. -/
def execMmWord (g : Group) (s : State) : Result := execGroup g s

/-- R146: A long-immediate word issues one move of a 64-bit immediate, replicated into every 8-byte lane of a wide destination. -/
def execMlWord (g : Guard) (d : Dst) (imm : BitVec 64) (s : State) : Result := execGroup ⟨.ml g d imm, none⟩ s

/-- R151: An IDLE word occupies n issue cycles or SCNT steps and issues nothing, while results keep falling due. -/
def execIdle (n : BitVec 16) (s : State) : Result := execGroup ⟨.idle n, none⟩ s

/-- R40: A control-register write of SEMAn sets VAL plus same-ACLK adds and may clear OVF. -/
def execSemaWrite (n : BitVec 8) (g : Guard) (src : Src) (s : State) : Result := execGroup (oneMove g src (.creg (n.setWidth 12))) s

/-- R71: A write to a view register takes effect at the end of the issue cycle. -/
def execViewWrite (v : BitVec 3) (g : Guard) (src : Src) (s : State) : Result :=
  execGroup (oneMove g src (.creg (0x100#12 ||| v.setWidth 12))) s

/-- R94: A write to FPCSR replaces the whole register at the end of the cycle. -/
def execFpcsrWrite (g : Guard) (src : Src) (s : State) : Result := execGroup (oneMove g src (.creg 0x10E)) s

/-- R79: A write to any other register takes effect at the end of the cycle, with RO fields ignored and W1C bits cleared. -/
def execCtrlRegWrite (i : BitVec 12) (g : Guard) (src : Src) (s : State) : Result := execGroup (oneMove g src (.creg i)) s

/-- R164: An MM word with both moves empty issues and has no effect. -/
def execNop (s : State) : Result := execGroup ⟨.mm Move.empty Move.empty, none⟩ s

/-- R38: A section header is evaluated at the turn of the partition that reads it, and at no other instant. -/
def execSectionHeader (len : BitVec 9) (mask : BitVec 11) (wait : BitVec 44) (s : State) : Result :=
  match s.phase with
  | .prt k p => .next (s.evalHeader k p len mask wait)
  | _ => .next s

end Sys2Proof.Machine
end

