-- ==== Sys2Proof/Machine/JobEvents.lean ====
section
/-! DEFINITION. The meanings of the events of jobs and of the scheduler (R31, R33, R48, R49, R288, R292, R294, R296,
R297, R303 to R307, R311, R410). -/

namespace Sys2Proof.Machine

/-- R33: Once every partition has joined and all work has drained, the job boundary release completes and the
core is freed. -/
def execJobEnd (k : Nat) (s : State) : Result := .next (s.jobEnd k)

/-- R48: The scheduler signals a core to pre-empt its job, stopping partitions at boundaries. -/
def execPreemptRequest (k : Nat) (s : State) : Result := .next (s.preemptRequest k)

/-- R48: Once every partition has stopped and work has drained, the job's image is written at RUCK. -/
def execRucksackWrite (k : Nat) (s : State) : Result := .next (s.rucksackWrite k)

/-- R49: If the image has not begun T_pre after the request, every partition stops at once and in-flight state
is poisoned. -/
def execHardPreempt (k : Nat) (s : State) : Result := .next (s.hardPreempt k)

/-- R31: When the instruction-store loads, view loads and tile-operand core-store fills of a launch or
resumption have finished, every started partition issues its first header in the same ACLK. -/
def execJobLaunchComplete (k : Nat) (s : State) : Result := .next (s.jobLaunchComplete k)

/-- R303: A write to SQTAIL submits entries, or is rejected if it would exceed the ring. -/
def execSqDoorbell (n : Nat) (tail : BitVec 32) (s : State) : Result := .next (s.sqDoorbell n tail)

/-- R304: A NOP submission entry is taken and completes. -/
def execSqNop (n : Nat) (s : State) : Result := .next (s.sqNop n)

/-- R304: An INVOKE entry instantiates a task graph of a resident slot after the residency check. -/
def execSqInvoke (n : Nat) (s : State) : Result := .next (s.sqInvoke n)

/-- R304: An SOPEN entry opens a stream, checks its structures and assigns FCLU. -/
def execSqSopen (n : Nat) (s : State) : Result := .next (s.sqSopen n)

/-- R294: An SCLOSE entry sets the stream CLOSING until its frames in flight complete. -/
def execSqSclose (n : Nat) (s : State) : Result := .next (s.sqSclose n)

/-- R304: An SUPDATE entry writes adapter or hysteresis fields of a stream. -/
def execSqSupdate (n : Nat) (s : State) : Result := .next (s.sqSupdate n)

/-- R305: A FENCE entry completes when every earlier entry of the ring has completed. -/
def execSqFence (n : Nat) (s : State) : Result := .next (s.sqFence n)

/-- R303: A host write of 1 to SQSTAT.ERR clears the sticky rejection bit of a submission ring. -/
def execSqstatWrite (n : Nat) (x : BitVec 64) (s : State) : Result := .next (s.sqstatWrite n x)

/-- R288: At T0 + k × PERIOD a stream's frame is instantiated on its rung, after the climb test and residency
check. -/
def execFrameRelease (stream : Nat) (s : State) : Result := .next (s.frameRelease stream)

/-- R292: The completion of a STEPEND node evaluates slack and may drop the stream one rung. -/
def execStepBoundary (graph node : Nat) (s : State) : Result := .next (s.stepBoundary graph node)

/-- R297: A dispatcher turn picks a region and dispatches its ready node, pre-empting jobs for aged regions.
-/
def execDispatchTurn (s : State) : Result := .next (s.dispatchTurn)

/-- R296: At each period boundary every region balance is refilled. -/
def execBudgetRefill (s : State) : Result := .next (s.budgetRefill)

/-- R410: When TIME μs pass after the oldest pending completion, the MSI-X message for the vector is sent. -/
def execMsixCoalesceTimeout (v : Nat) (s : State) : Result := .next (s.msixTimeout v)

/-- R410: A write to a coalescing register that lowers COUNT or TIME below the present state sends the message
within 1 μs. -/
def execMsixCoalesceWrite (v : Nat) (x : BitVec 64) (s : State) : Result := .next (s.msixCoalesce v x)

/-- R307: Host software unmasks an MSI-X vector or enables MSI-X on a function, and a message held on the
vector's pending bit is sent. -/
def execMsixVectorUnmask (v : Nat) (s : State) : Result := .next (s.msixUnmask v)

/-- R311: A host write of NumVFs enables VFs 1 to m, which changes how MSI-X vectors are delivered and which
regions are reachable only through PF0. -/
def execSriovNumvfsWrite (m : Nat) (s : State) : Result := .next (s.sriovWrite m)

end Sys2Proof.Machine
end

