-- ==== Sys2Proof/Machine/MatrixWords.lean ====
section
/-! DEFINITION. The meanings of the words of the matrix, key-value and pixel units: mx, kv and px (R225 to R244). Each word is an
issue group of its own at the turn of the partition that reads it. -/

namespace Sys2Proof.Machine

/-- R232: Loads and aligns one 32-row block of B from the core store into the shadow plane at landing. -/
def execMxBld (m : BitVec 3) (g : Guard) (src : Src) (s : State) : Result := execGroup (oneMove g src (.trig (.mxBld m))) s

/-- R233: Swaps the active and shadow planes of a macro. -/
def execMxBsw (m : BitVec 3) (g : Guard) (src : Src) (s : State) : Result := execGroup (oneMove g src (.trig (.mxBsw m))) s

/-- R235: Multiplies an A row by the active plane and accumulates into res and res1. -/
def execMxMma (m : BitVec 3) (z : Bool) (g : Guard) (src : Src) (s : State) : Result :=
  execGroup (oneMove g src (.trig (.mxComp .mma m z))) s

/-- R235: Triangular multiply-accumulate with outputs above the diagonal filled. -/
def execMxMmt (m : BitVec 3) (z : Bool) (g : Guard) (src : Src) (s : State) : Result :=
  execGroup (oneMove g src (.trig (.mxComp .mmt m z))) s

/-- R231: Writes CFG of a macro. -/
def execMxMcfg (m : BitVec 3) (g : Guard) (src : Src) (s : State) : Result := execGroup (oneMove g src (.trig (.mxMcfg m))) s

/-- R237: Multiply-accumulate with an adapter term from the adapter map. -/
def execMxMad (m : BitVec 3) (z : Bool) (g : Guard) (src : Src) (s : State) : Result :=
  execGroup (oneMove g src (.trig (.mxComp .mad m z))) s

/-- R239: Loads one key row from a KV page, rotates it at its position and converts it to D. -/
def execKvKvk (d : KvD) (g : Guard) (src : Src) (s : State) : Result := execGroup (oneMove g src (.trig (.kvLoad true d))) s

/-- R239: Loads one value row from a KV page and converts it to D. -/
def execKvKvv (d : KvD) (g : Guard) (src : Src) (s : State) : Result := execGroup (oneMove g src (.trig (.kvLoad false d))) s

/-- R240: Appends one key and value token to a page slot in the core store at landing. -/
def execKvKvap (g : Guard) (src : Src) (s : State) : Result := execGroup (oneMove g src (.trig (.kvAp))) s

/-- R241: Replaces a frequency table of the kv unit at landing. -/
def execKvKvfrq (n : BitVec 2) (g : Guard) (src : Src) (s : State) : Result := execGroup (oneMove g src (.trig (.kvFrq n))) s

/-- R243: Colour-space converts 64 pixels with matrix set N. -/
def execPxCsc (n : BitVec 2) (g : Guard) (src : Src) (s : State) : Result := execGroup (oneMove g src (.trig (.pxCsc n))) s

/-- R244: Rounds and saturates 256 samples to 8 or 10 bits. -/
def execPxPack (p10 : Bool) (g : Guard) (src : Src) (s : State) : Result := execGroup (oneMove g src (.trig (.pxPack p10))) s

end Sys2Proof.Machine
end

