-- ==== Sys2Proof/Machine/MemoryWords.lean ====
section
/-! DEFINITION. The meanings of the words that reach memory, walk trees and change tags: gm, rw and tg (R214 to R224,
R242). Each word is an
issue group of its own at the turn of the partition that reads it. -/

namespace Sys2Proof.Machine

/-- R215: Loads z bytes from a VA into res, poisoning it and making a ring entry on a fault. -/
def execGmLd (u : Bool) (z : GmZ) (g : Guard) (src : Src) (s : State) : Result := execGroup (oneMove g src (.trig (.gmLd u false z))) s

/-- R216: Speculative load whose fault gives speculative poison without a ring entry. -/
def execGmLdS (u : Bool) (z : GmZ) (g : Guard) (src : Src) (s : State) : Result := execGroup (oneMove g src (.trig (.gmLd u true z))) s

/-- R217: Stores z bytes of o1 to a VA through the store queue. -/
def execGmSt (u : Bool) (z : GmZ) (g : Guard) (src : Src) (s : State) : Result := execGroup (oneMove g src (.trig (.gmSt u z))) s

/-- R218: Prefetches a line into the LLC and possibly the L1. -/
def execGmPref (u : Bool) (g : Guard) (src : Src) (s : State) : Result := execGroup (oneMove g src (.trig (.gmPref u))) s

/-- R217: Stores a nibble, byte or halfword, the nibble as a core-side read-modify-write. -/
def execGmStSm (u : Bool) (z : GmS) (g : Guard) (src : Src) (s : State) : Result := execGroup (oneMove g src (.trig (.gmStSm u z))) s

/-- R215: Loads a nibble, byte or halfword. -/
def execGmLdSm (u : Bool) (z : GmS) (g : Guard) (src : Src) (s : State) : Result := execGroup (oneMove g src (.trig (.gmLdSm u false z))) s

/-- R216: Speculative small load. -/
def execGmLdSmS (u : Bool) (z : GmS) (g : Guard) (src : Src) (s : State) : Result := execGroup (oneMove g src (.trig (.gmLdSm u true z))) s

/-- R219: Atomic add returning the old value. -/
def execGmAmoAdd (u : Bool) (w32 : Bool) (g : Guard) (src : Src) (s : State) : Result :=
  execGroup (oneMove g src (.trig (.gmAmo u .add w32))) s

/-- R219: Atomic and. -/
def execGmAmoAnd (u : Bool) (w32 : Bool) (g : Guard) (src : Src) (s : State) : Result :=
  execGroup (oneMove g src (.trig (.gmAmo u .and w32))) s

/-- R219: Atomic or. -/
def execGmAmoOr (u : Bool) (w32 : Bool) (g : Guard) (src : Src) (s : State) : Result :=
  execGroup (oneMove g src (.trig (.gmAmo u .or w32))) s

/-- R219: Atomic xor. -/
def execGmAmoXor (u : Bool) (w32 : Bool) (g : Guard) (src : Src) (s : State) : Result :=
  execGroup (oneMove g src (.trig (.gmAmo u .xor w32))) s

/-- R219: Atomic signed minimum. -/
def execGmAmoMin (u : Bool) (w32 : Bool) (g : Guard) (src : Src) (s : State) : Result :=
  execGroup (oneMove g src (.trig (.gmAmo u .min w32))) s

/-- R219: Atomic signed maximum. -/
def execGmAmoMax (u : Bool) (w32 : Bool) (g : Guard) (src : Src) (s : State) : Result :=
  execGroup (oneMove g src (.trig (.gmAmo u .max w32))) s

/-- R219: Atomic unsigned minimum. -/
def execGmAmoMinu (u : Bool) (w32 : Bool) (g : Guard) (src : Src) (s : State) : Result :=
  execGroup (oneMove g src (.trig (.gmAmo u .minu w32))) s

/-- R219: Atomic unsigned maximum. -/
def execGmAmoMaxu (u : Bool) (w32 : Bool) (g : Guard) (src : Src) (s : State) : Result :=
  execGroup (oneMove g src (.trig (.gmAmo u .maxu w32))) s

/-- R219: Atomic swap. -/
def execGmAmoSwap (u : Bool) (w32 : Bool) (g : Guard) (src : Src) (s : State) : Result :=
  execGroup (oneMove g src (.trig (.gmAmo u .swap w32))) s

/-- R219: Atomic compare-and-swap. -/
def execGmAmoCas (u : Bool) (w32 : Bool) (g : Guard) (src : Src) (s : State) : Result :=
  execGroup (oneMove g src (.trig (.gmAmo u .cas w32))) s

/-- R219: Atomic FP32 add rounded to nearest even. -/
def execGmAmoFadd (u : Bool) (g : Guard) (src : Src) (s : State) : Result := execGroup (oneMove g src (.trig (.gmAmoFadd u))) s

/-- R219: Atomic nibble replacement. -/
def execGmAmoNib (u : Bool) (g : Guard) (src : Src) (s : State) : Result := execGroup (oneMove g src (.trig (.gmAmoNib u))) s

/-- R242: Walks a radix tree for a logical position, returning descriptor, KVPOS value and status. -/
def execRwWalk (g : Guard) (src : Src) (s : State) : Result := execGroup (oneMove g src (.trig (.rwWalk false))) s

/-- R242: Walks and then prefetches the descriptor and the next page-list entry. -/
def execRwWalkp (g : Guard) (src : Src) (s : State) : Result := execGroup (oneMove g src (.trig (.rwWalk true))) s

/-- R222: Probes the core-store tags for a VA and reports hit slot or miss code. -/
def execTgLook (g : Guard) (src : Src) (s : State) : Result := execGroup (oneMove g src (.trig (.tg .look))) s

/-- R223: Pins a core-store slot as scratchpad. -/
def execTgPin (g : Guard) (src : Src) (s : State) : Result := execGroup (oneMove g src (.trig (.tg .pin))) s

/-- R223: Unpins a pinned slot. -/
def execTgUnpin (g : Guard) (src : Src) (s : State) : Result := execGroup (oneMove g src (.trig (.tg .unpin))) s

/-- R223: Invalidates a slot's tag. -/
def execTgInval (g : Guard) (src : Src) (s : State) : Result := execGroup (oneMove g src (.trig (.tg .inval))) s

/-- R223: Retags a slot from o1. -/
def execTgSetag (g : Guard) (src : Src) (s : State) : Result := execGroup (oneMove g src (.trig (.tg .setag))) s

end Sys2Proof.Machine
end

