-- ==== Sys2Proof/Machine/ScalarWords.lean ====
section
/-! DEFINITION. The meanings of the words of the scalar units and the core-store ports: ix, cmp, imd and ks (R190 to
R195). Each word is an
issue group of its own at the turn of the partition that reads it. -/

namespace Sys2Proof.Machine

/-- R190: Integer add of o1 and t at width W. -/
def execIxAdd (u : Bool) (w : IntW) (g : Guard) (src : Src) (s : State) : Result := execGroup (oneMove g src (.trig (.ix u .add w))) s

/-- R190: Integer subtract of t from o1 at width W. -/
def execIxSub (u : Bool) (w : IntW) (g : Guard) (src : Src) (s : State) : Result := execGroup (oneMove g src (.trig (.ix u .sub w))) s

/-- R190: Bitwise and of o1 and t. -/
def execIxAnd (u : Bool) (w : IntW) (g : Guard) (src : Src) (s : State) : Result := execGroup (oneMove g src (.trig (.ix u .and w))) s

/-- R190: Bitwise or of o1 and t. -/
def execIxOr (u : Bool) (w : IntW) (g : Guard) (src : Src) (s : State) : Result := execGroup (oneMove g src (.trig (.ix u .or w))) s

/-- R190: Bitwise xor of o1 and t. -/
def execIxXor (u : Bool) (w : IntW) (g : Guard) (src : Src) (s : State) : Result := execGroup (oneMove g src (.trig (.ix u .xor w))) s

/-- R190: o1 and not t. -/
def execIxAndn (u : Bool) (w : IntW) (g : Guard) (src : Src) (s : State) : Result := execGroup (oneMove g src (.trig (.ix u .andn w))) s

/-- R190: Logical shift left by t mod n. -/
def execIxShl (u : Bool) (w : IntW) (g : Guard) (src : Src) (s : State) : Result := execGroup (oneMove g src (.trig (.ix u .shl w))) s

/-- R190: Logical shift right by t mod n. -/
def execIxShr (u : Bool) (w : IntW) (g : Guard) (src : Src) (s : State) : Result := execGroup (oneMove g src (.trig (.ix u .shr w))) s

/-- R190: Arithmetic shift right by t mod n. -/
def execIxSar (u : Bool) (w : IntW) (g : Guard) (src : Src) (s : State) : Result := execGroup (oneMove g src (.trig (.ix u .sar w))) s

/-- R190: Rotate left by t mod n. -/
def execIxRol (u : Bool) (w : IntW) (g : Guard) (src : Src) (s : State) : Result := execGroup (oneMove g src (.trig (.ix u .rol w))) s

/-- R190: Signed minimum of o1 and t. -/
def execIxMin (u : Bool) (w : IntW) (g : Guard) (src : Src) (s : State) : Result := execGroup (oneMove g src (.trig (.ix u .min w))) s

/-- R190: Signed maximum of o1 and t. -/
def execIxMax (u : Bool) (w : IntW) (g : Guard) (src : Src) (s : State) : Result := execGroup (oneMove g src (.trig (.ix u .max w))) s

/-- R190: Unsigned minimum of o1 and t. -/
def execIxMinu (u : Bool) (w : IntW) (g : Guard) (src : Src) (s : State) : Result := execGroup (oneMove g src (.trig (.ix u .minu w))) s

/-- R190: Unsigned maximum of o1 and t. -/
def execIxMaxu (u : Bool) (w : IntW) (g : Guard) (src : Src) (s : State) : Result := execGroup (oneMove g src (.trig (.ix u .maxu w))) s

/-- R190: Counts leading zeros of t. -/
def execIxClz (u : Bool) (w : IntW) (g : Guard) (src : Src) (s : State) : Result := execGroup (oneMove g src (.trig (.ix u .clz w))) s

/-- R190: Counts trailing zeros of t. -/
def execIxCtz (u : Bool) (w : IntW) (g : Guard) (src : Src) (s : State) : Result := execGroup (oneMove g src (.trig (.ix u .ctz w))) s

/-- R190: Counts set bits of t. -/
def execIxPopc (u : Bool) (w : IntW) (g : Guard) (src : Src) (s : State) : Result := execGroup (oneMove g src (.trig (.ix u .popc w))) s

/-- R190: Reverses the bytes of t. -/
def execIxBswap (u : Bool) (w : IntW) (g : Guard) (src : Src) (s : State) : Result := execGroup (oneMove g src (.trig (.ix u .bswap w))) s

/-- R190: Extracts a bit field of o1 at pos and len from t. -/
def execIxBext (u : Bool) (w : IntW) (g : Guard) (src : Src) (s : State) : Result := execGroup (oneMove g src (.trig (.ix u .bext w))) s

/-- R190: Inserts a field of o2 into o1 at pos and len from t. -/
def execIxBins (u : Bool) (w : IntW) (g : Guard) (src : Src) (s : State) : Result := execGroup (oneMove g src (.trig (.ix u .bins w))) s

/-- R190: Selects o1 if t[0] is 1, else o2. -/
def execIxSel (u : Bool) (w : IntW) (g : Guard) (src : Src) (s : State) : Result := execGroup (oneMove g src (.trig (.ix u .sel w))) s

/-- R190: Copies t truncated to width W into res. -/
def execIxMov (u : Bool) (w : IntW) (g : Guard) (src : Src) (s : State) : Result := execGroup (oneMove g src (.trig (.ix u .mov w))) s

/-- R191: Compares o1 with t under condition C at width W and writes 1 or 0 into res. -/
def execCmpCond (c : Cond) (w : IntW) (g : Guard) (src : Src) (s : State) : Result := execGroup (oneMove g src (.trig (.cmp c w))) s

/-- R191: o1[0] and t[0]. -/
def execCmpPand (g : Guard) (src : Src) (s : State) : Result := execGroup (oneMove g src (.trig (.cmpPred .pand))) s

/-- R191: o1[0] or t[0]. -/
def execCmpPor (g : Guard) (src : Src) (s : State) : Result := execGroup (oneMove g src (.trig (.cmpPred .por))) s

/-- R191: o1[0] xor t[0]. -/
def execCmpPxor (g : Guard) (src : Src) (s : State) : Result := execGroup (oneMove g src (.trig (.cmpPred .pxor))) s

/-- R191: o1[0] and not t[0]. -/
def execCmpPandn (g : Guard) (src : Src) (s : State) : Result := execGroup (oneMove g src (.trig (.cmpPred .pandn))) s

/-- R192: Low half of the product of o1 and t. -/
def execImdMul (w32 : Bool) (g : Guard) (src : Src) (s : State) : Result := execGroup (oneMove g src (.trig (.imd .mul w32))) s

/-- R192: Signed high half of the product. -/
def execImdMulh (w32 : Bool) (g : Guard) (src : Src) (s : State) : Result := execGroup (oneMove g src (.trig (.imd .mulh w32))) s

/-- R192: Unsigned high half of the product. -/
def execImdMulhu (w32 : Bool) (g : Guard) (src : Src) (s : State) : Result := execGroup (oneMove g src (.trig (.imd .mulhu w32))) s

/-- R192: Signed quotient rounded toward zero, with flag for divide by zero or overflow. -/
def execImdDiv (w32 : Bool) (g : Guard) (src : Src) (s : State) : Result := execGroup (oneMove g src (.trig (.imd .div w32))) s

/-- R192: Unsigned quotient, with flag for divide by zero. -/
def execImdDivu (w32 : Bool) (g : Guard) (src : Src) (s : State) : Result := execGroup (oneMove g src (.trig (.imd .divu w32))) s

/-- R192: Signed remainder with the sign of the dividend. -/
def execImdRem (w32 : Bool) (g : Guard) (src : Src) (s : State) : Result := execGroup (oneMove g src (.trig (.imd .rem w32))) s

/-- R192: Unsigned remainder. -/
def execImdRemu (w32 : Bool) (g : Guard) (src : Src) (s : State) : Result := execGroup (oneMove g src (.trig (.imd .remu w32))) s

/-- R193: Loads the partition width of bytes from the core store. -/
def execKsLd (u : Bool) (g : Guard) (src : Src) (s : State) : Result := execGroup (oneMove g src (.trig (.ksLd u))) s

/-- R195: Stores o1 into the core store in the issue cycle, setting DIRTY on a tagged slot. -/
def execKsSt (u : Bool) (g : Guard) (src : Src) (s : State) : Result := execGroup (oneMove g src (.trig (.ksSt u))) s

/-- R194: Gathers elements from the core store at per-lane offsets. -/
def execKsLdx (u : Bool) (w : IntW) (g : Guard) (src : Src) (s : State) : Result := execGroup (oneMove g src (.trig (.ksLdx u w))) s

/-- R194: Scatters elements into the core store at per-lane offsets. -/
def execKsStx (u : Bool) (w : IntW) (g : Guard) (src : Src) (s : State) : Result := execGroup (oneMove g src (.trig (.ksStx u w))) s

/-- R193: Loads one element and replicates it into every element of res. -/
def execKsLdb (u : Bool) (w : IntW) (g : Guard) (src : Src) (s : State) : Result := execGroup (oneMove g src (.trig (.ksLdb u w))) s

end Sys2Proof.Machine
end

