-- ==== Sys2Proof/Machine/VectorWords.lean ====
section
/-! DEFINITION. The meanings of the words of the vector and floating-point units: va, vf, vx, vp, vc, fs and fd (R197 to
R213). Each word is an
issue group of its own at the turn of the partition that reads it. -/

namespace Sys2Proof.Machine

/-- R198: Lane-wise integer add. -/
def execVaAdd (u : Bool) (w : IntW) (g : Guard) (src : Src) (s : State) : Result := execGroup (oneMove g src (.trig (.va u .add w))) s

/-- R198: Lane-wise integer subtract. -/
def execVaSub (u : Bool) (w : IntW) (g : Guard) (src : Src) (s : State) : Result := execGroup (oneMove g src (.trig (.va u .sub w))) s

/-- R198: Lane-wise low product. -/
def execVaMul (u : Bool) (w : IntW) (g : Guard) (src : Src) (s : State) : Result := execGroup (oneMove g src (.trig (.va u .mul w))) s

/-- R198: Lane-wise signed high product. -/
def execVaMulh (u : Bool) (w : IntW) (g : Guard) (src : Src) (s : State) : Result := execGroup (oneMove g src (.trig (.va u .mulh w))) s

/-- R198: Lane-wise and. -/
def execVaAnd (u : Bool) (w : IntW) (g : Guard) (src : Src) (s : State) : Result := execGroup (oneMove g src (.trig (.va u .and w))) s

/-- R198: Lane-wise or. -/
def execVaOr (u : Bool) (w : IntW) (g : Guard) (src : Src) (s : State) : Result := execGroup (oneMove g src (.trig (.va u .or w))) s

/-- R198: Lane-wise xor. -/
def execVaXor (u : Bool) (w : IntW) (g : Guard) (src : Src) (s : State) : Result := execGroup (oneMove g src (.trig (.va u .xor w))) s

/-- R198: Lane-wise and-not. -/
def execVaAndn (u : Bool) (w : IntW) (g : Guard) (src : Src) (s : State) : Result := execGroup (oneMove g src (.trig (.va u .andn w))) s

/-- R198: Lane-wise shift left. -/
def execVaShl (u : Bool) (w : IntW) (g : Guard) (src : Src) (s : State) : Result := execGroup (oneMove g src (.trig (.va u .shl w))) s

/-- R198: Lane-wise logical shift right. -/
def execVaShr (u : Bool) (w : IntW) (g : Guard) (src : Src) (s : State) : Result := execGroup (oneMove g src (.trig (.va u .shr w))) s

/-- R198: Lane-wise arithmetic shift right. -/
def execVaSar (u : Bool) (w : IntW) (g : Guard) (src : Src) (s : State) : Result := execGroup (oneMove g src (.trig (.va u .sar w))) s

/-- R198: Lane-wise signed minimum. -/
def execVaMin (u : Bool) (w : IntW) (g : Guard) (src : Src) (s : State) : Result := execGroup (oneMove g src (.trig (.va u .min w))) s

/-- R198: Lane-wise signed maximum. -/
def execVaMax (u : Bool) (w : IntW) (g : Guard) (src : Src) (s : State) : Result := execGroup (oneMove g src (.trig (.va u .max w))) s

/-- R198: Lane-wise unsigned minimum. -/
def execVaMinu (u : Bool) (w : IntW) (g : Guard) (src : Src) (s : State) : Result := execGroup (oneMove g src (.trig (.va u .minu w))) s

/-- R198: Lane-wise unsigned maximum. -/
def execVaMaxu (u : Bool) (w : IntW) (g : Guard) (src : Src) (s : State) : Result := execGroup (oneMove g src (.trig (.va u .maxu w))) s

/-- R198: Lane-wise absolute value of t. -/
def execVaAbs (u : Bool) (w : IntW) (g : Guard) (src : Src) (s : State) : Result := execGroup (oneMove g src (.trig (.va u .abs w))) s

/-- R198: Lane-wise select of o1 or o2 by bit 0 of t. -/
def execVaSel (u : Bool) (w : IntW) (g : Guard) (src : Src) (s : State) : Result := execGroup (oneMove g src (.trig (.va u .sel w))) s

/-- R198: Lane-wise population count. -/
def execVaPopc (u : Bool) (w : IntW) (g : Guard) (src : Src) (s : State) : Result := execGroup (oneMove g src (.trig (.va u .popc w))) s

/-- R198: Lane-wise leading-zero count. -/
def execVaClz (u : Bool) (w : IntW) (g : Guard) (src : Src) (s : State) : Result := execGroup (oneMove g src (.trig (.va u .clz w))) s

/-- R198: Lane-wise saturating signed add. -/
def execVaAdds (u : Bool) (w : IntW) (g : Guard) (src : Src) (s : State) : Result := execGroup (oneMove g src (.trig (.va u .adds w))) s

/-- R198: Lane-wise saturating signed subtract. -/
def execVaSubs (u : Bool) (w : IntW) (g : Guard) (src : Src) (s : State) : Result := execGroup (oneMove g src (.trig (.va u .subs w))) s

/-- R205: Permutes lanes of o1 by indices in t. -/
def execVpPerm (w : IntW) (g : Guard) (src : Src) (s : State) : Result := execGroup (oneMove g src (.trig (.vp .perm w))) s

/-- R205: Broadcasts one lane of o1 to every lane. -/
def execVpBcast (w : IntW) (g : Guard) (src : Src) (s : State) : Result := execGroup (oneMove g src (.trig (.vp .bcast w))) s

/-- R205: Rotates the lanes of o1. -/
def execVpRot (w : IntW) (g : Guard) (src : Src) (s : State) : Result := execGroup (oneMove g src (.trig (.vp .rot w))) s

/-- R205: Packs the low halves of o1 and t elements. -/
def execVpPack (w : IntW) (g : Guard) (src : Src) (s : State) : Result := execGroup (oneMove g src (.trig (.vp .pack w))) s

/-- R205: Unpacks and extends half-size elements of t. -/
def execVpUnpk (w : IntW) (g : Guard) (src : Src) (s : State) : Result := execGroup (oneMove g src (.trig (.vp .unpk w))) s

/-- R205: Compresses selected lanes of o1 and writes their count into res1. -/
def execVpCmprs (w : IntW) (g : Guard) (src : Src) (s : State) : Result := execGroup (oneMove g src (.trig (.vp .cmprs w))) s

/-- R206: Integer sum of all lanes of t. -/
def execVpRedadd (w : IntW) (g : Guard) (src : Src) (s : State) : Result := execGroup (oneMove g src (.trig (.vp .redadd w))) s

/-- R206: Signed maximum over the lanes of t. -/
def execVpRedmax (w : IntW) (g : Guard) (src : Src) (s : State) : Result := execGroup (oneMove g src (.trig (.vp .redmax w))) s

/-- R206: Signed minimum over the lanes of t. -/
def execVpRedmin (w : IntW) (g : Guard) (src : Src) (s : State) : Result := execGroup (oneMove g src (.trig (.vp .redmin w))) s

/-- R206: Inclusive prefix sum of the lanes of t. -/
def execVpScan (w : IntW) (g : Guard) (src : Src) (s : State) : Result := execGroup (oneMove g src (.trig (.vp .scan w))) s

/-- R206: Inclusive prefix xor of the lanes of t. -/
def execVpXscan (w : IntW) (g : Guard) (src : Src) (s : State) : Result := execGroup (oneMove g src (.trig (.vp .xscan w))) s

/-- R207: Floating sum of the lanes of t in a fixed tree. -/
def execVpFredadd (f : FpF) (g : Guard) (src : Src) (s : State) : Result := execGroup (oneMove g src (.trig (.vpF .redadd f))) s

/-- R207: Floating maximum over the lanes of t in a fixed tree. -/
def execVpFredmax (f : FpF) (g : Guard) (src : Src) (s : State) : Result := execGroup (oneMove g src (.trig (.vpF .redmax f))) s

/-- R207: Floating minimum over the lanes of t in a fixed tree. -/
def execVpFredmin (f : FpF) (g : Guard) (src : Src) (s : State) : Result := execGroup (oneMove g src (.trig (.vpF .redmin f))) s

/-- R208: Carry-less product of o1 and t lanes into res and res1. -/
def execVpClmul (w32 : Bool) (g : Guard) (src : Src) (s : State) : Result := execGroup (oneMove g src (.trig (.vpClmul w32))) s

/-- R209: Lane-wise integer comparison under condition C, giving all-ones or zero lanes. -/
def execVcCmp (c : Cond) (w : IntW) (g : Guard) (src : Src) (s : State) : Result := execGroup (oneMove g src (.trig (.vcCmp c w))) s

/-- R209: Lane-wise floating comparison under condition C. -/
def execVcFcmp (c : FCond) (f : FpF) (g : Guard) (src : Src) (s : State) : Result := execGroup (oneMove g src (.trig (.vcFcmp c f))) s

/-- R210: Writes 1 if any bit of t is set. -/
def execVcAny (g : Guard) (src : Src) (s : State) : Result := execGroup (oneMove g src (.trig (.vcVote .any))) s

/-- R210: Writes 1 if every bit of t is set. -/
def execVcAll (g : Guard) (src : Src) (s : State) : Result := execGroup (oneMove g src (.trig (.vcVote .all))) s

/-- R210: Counts the set bits of t. -/
def execVcCnt (g : Guard) (src : Src) (s : State) : Result := execGroup (oneMove g src (.trig (.vcVote .cnt))) s

/-- R211: Writes the class mask of each floating lane of t. -/
def execVcClass (f : FpF) (g : Guard) (src : Src) (s : State) : Result := execGroup (oneMove g src (.trig (.vcClass f))) s

/-- R199: Lane-wise floating add, rounded once. -/
def execVfAdd (u : Bool) (rc : Rc) (f : FpF) (g : Guard) (src : Src) (s : State) : Result :=
  execGroup (oneMove g src (.trig (.vf u .add rc f))) s

/-- R199: Lane-wise floating subtract. -/
def execVfSub (u : Bool) (rc : Rc) (f : FpF) (g : Guard) (src : Src) (s : State) : Result :=
  execGroup (oneMove g src (.trig (.vf u .sub rc f))) s

/-- R199: Lane-wise floating multiply. -/
def execVfMul (u : Bool) (rc : Rc) (f : FpF) (g : Guard) (src : Src) (s : State) : Result :=
  execGroup (oneMove g src (.trig (.vf u .mul rc f))) s

/-- R199: Lane-wise fused multiply-add o1 × o2 + t. -/
def execVfFma (u : Bool) (rc : Rc) (f : FpF) (g : Guard) (src : Src) (s : State) : Result :=
  execGroup (oneMove g src (.trig (.vf u .fma rc f))) s

/-- R199: Lane-wise fused −(o1 × o2) + t. -/
def execVfNma (u : Bool) (rc : Rc) (f : FpF) (g : Guard) (src : Src) (s : State) : Result :=
  execGroup (oneMove g src (.trig (.vf u .nma rc f))) s

/-- R200: Lane-wise floating minimum. -/
def execVfMin (u : Bool) (rc : Rc) (f : FpF) (g : Guard) (src : Src) (s : State) : Result :=
  execGroup (oneMove g src (.trig (.vf u .min rc f))) s

/-- R200: Lane-wise floating maximum. -/
def execVfMax (u : Bool) (rc : Rc) (f : FpF) (g : Guard) (src : Src) (s : State) : Result :=
  execGroup (oneMove g src (.trig (.vf u .max rc f))) s

/-- R199: Lane-wise sign clear. -/
def execVfAbs (u : Bool) (rc : Rc) (f : FpF) (g : Guard) (src : Src) (s : State) : Result :=
  execGroup (oneMove g src (.trig (.vf u .abs rc f))) s

/-- R199: Lane-wise sign inversion. -/
def execVfNeg (u : Bool) (rc : Rc) (f : FpF) (g : Guard) (src : Src) (s : State) : Result :=
  execGroup (oneMove g src (.trig (.vf u .neg rc f))) s

/-- R201: Lane-wise round to integral value. -/
def execVfRnd (u : Bool) (rc : Rc) (f : FpF) (g : Guard) (src : Src) (s : State) : Result :=
  execGroup (oneMove g src (.trig (.vf u .rnd rc f))) s

/-- R203: Converts lanes of format F to E8M0 bytes. -/
def execVfCvtE8m0 (u : Bool) (rc : Rc) (f : FpF) (g : Guard) (src : Src) (s : State) : Result :=
  execGroup (oneMove g src (.trig (.vfToE8m0 u rc f))) s

/-- R203: Converts E8M0 bytes to FP32 lanes. -/
def execVfCvtF32E8m0 (u : Bool) (rc : Rc) (g : Guard) (src : Src) (s : State) : Result :=
  execGroup (oneMove g src (.trig (.vfFromE8m0 u rc))) s

/-- R202: Lane-wise format conversion from S to D. -/
def execVfCvt (u : Bool) (d sf : CvtF) (sat : Bool) (r : CvtRnd) (g : Guard) (src : Src) (s : State) : Result :=
  execGroup (oneMove g src (.trig (.vfCvt u d sf sat r))) s

/-- R204: Lane-wise correctly rounded 2^t. -/
def execVxExp2 (rc : Rc) (f : FpF) (g : Guard) (src : Src) (s : State) : Result := execGroup (oneMove g src (.trig (.vx .exp2 rc f))) s

/-- R204: Lane-wise correctly rounded log2 t. -/
def execVxLog2 (rc : Rc) (f : FpF) (g : Guard) (src : Src) (s : State) : Result := execGroup (oneMove g src (.trig (.vx .log2 rc f))) s

/-- R204: Lane-wise reciprocal. -/
def execVxRcp (rc : Rc) (f : FpF) (g : Guard) (src : Src) (s : State) : Result := execGroup (oneMove g src (.trig (.vx .rcp rc f))) s

/-- R204: Lane-wise reciprocal square root. -/
def execVxRsqrt (rc : Rc) (f : FpF) (g : Guard) (src : Src) (s : State) : Result := execGroup (oneMove g src (.trig (.vx .rsqrt rc f))) s

/-- R204: Lane-wise o1 / t. -/
def execVxDiv (rc : Rc) (f : FpF) (g : Guard) (src : Src) (s : State) : Result := execGroup (oneMove g src (.trig (.vx .div rc f))) s

/-- R204: Lane-wise square root. -/
def execVxSqrt (rc : Rc) (f : FpF) (g : Guard) (src : Src) (s : State) : Result := execGroup (oneMove g src (.trig (.vx .sqrt rc f))) s

/-- R204: Lane-wise sin and cos of 2πt into res and res1. -/
def execVxSincos (rc : Rc) (f : FpF) (g : Guard) (src : Src) (s : State) : Result := execGroup (oneMove g src (.trig (.vx .sincos rc f))) s

/-- R199: Scalar floating add. -/
def execFsAdd (rc : Rc) (f : FpF) (g : Guard) (src : Src) (s : State) : Result := execGroup (oneMove g src (.trig (.fs .add rc f))) s

/-- R199: Scalar floating subtract. -/
def execFsSub (rc : Rc) (f : FpF) (g : Guard) (src : Src) (s : State) : Result := execGroup (oneMove g src (.trig (.fs .sub rc f))) s

/-- R199: Scalar floating multiply. -/
def execFsMul (rc : Rc) (f : FpF) (g : Guard) (src : Src) (s : State) : Result := execGroup (oneMove g src (.trig (.fs .mul rc f))) s

/-- R199: Scalar fused multiply-add. -/
def execFsFma (rc : Rc) (f : FpF) (g : Guard) (src : Src) (s : State) : Result := execGroup (oneMove g src (.trig (.fs .fma rc f))) s

/-- R200: Scalar floating minimum. -/
def execFsMin (rc : Rc) (f : FpF) (g : Guard) (src : Src) (s : State) : Result := execGroup (oneMove g src (.trig (.fs .min rc f))) s

/-- R200: Scalar floating maximum. -/
def execFsMax (rc : Rc) (f : FpF) (g : Guard) (src : Src) (s : State) : Result := execGroup (oneMove g src (.trig (.fs .max rc f))) s

/-- R200: Scalar floating comparison under condition C, writing 1 or 0. -/
def execFsFcmp (c : FsCond) (rc : Rc) (f : FpF) (g : Guard) (src : Src) (s : State) : Result :=
  execGroup (oneMove g src (.trig (.fsCmp c rc f))) s

/-- R202: Scalar format conversion from S to D. -/
def execFsCvt (d sf : CvtF) (sat : Bool) (r : CvtRnd) (g : Guard) (src : Src) (s : State) : Result :=
  execGroup (oneMove g src (.trig (.fsCvt d sf sat r))) s

/-- R212: FP32 o1 / t with a flag for t ≤ 0 or NaN. -/
def execFdDiv (rc : Rc) (g : Guard) (src : Src) (s : State) : Result := execGroup (oneMove g src (.trig (.fd .div rc))) s

/-- R212: FP32 square root with a flag. -/
def execFdSqrt (rc : Rc) (g : Guard) (src : Src) (s : State) : Result := execGroup (oneMove g src (.trig (.fd .sqrt rc))) s

/-- R212: FP32 reciprocal square root with a flag. -/
def execFdRsqrt (rc : Rc) (g : Guard) (src : Src) (s : State) : Result := execGroup (oneMove g src (.trig (.fd .rsqrt rc))) s

end Sys2Proof.Machine
end

