-- ==== Sys2Proof/Machine/Dispatch.lean ====
section
/-! DEFINITION. The meaning of every step of the table, one arm each. -/

namespace Sys2Proof.Machine

/-- One step of the table. -/
def exec (i : Instr) (s : State) : Host.Outcome State Fault Refusal :=
  match i with
  | .mmWord g => Sys2Proof.Machine.execMmWord g s
  | .mlWord g dst imm => Sys2Proof.Machine.execMlWord g dst imm s
  | .idle n => Sys2Proof.Machine.execIdle n s
  | .sectionHeader len mask wait => Sys2Proof.Machine.execSectionHeader len mask wait s
  | .sectionRetire k p => Sys2Proof.Machine.execSectionRetire k p s
  | .trapRecordPosted k => Sys2Proof.Machine.execTrapRecordPosted k s
  | .resultLands k p => Sys2Proof.Machine.execResultLands k p s
  | .gmDataReturns k p id => Sys2Proof.Machine.execGmDataReturns k p id s
  | .exchangeLands k => Sys2Proof.Machine.execExchangeLands k s
  | .queueEntryVisible clu port => Sys2Proof.Machine.execQueueEntryVisible clu port s
  | .transferDelayEnds k p => Sys2Proof.Machine.execTransferDelayEnds k p s
  | .mxAcceptIntervalEnds k m => Sys2Proof.Machine.execMxAcceptIntervalEnds k m s
  | .lockGroupForms k => Sys2Proof.Machine.execLockGroupForms k s
  | .ftbRefill k => Sys2Proof.Machine.execFtbRefill k s
  | .rahHelperSpawn k => Sys2Proof.Machine.execRahHelperSpawn k s
  | .rahHelperDies k => Sys2Proof.Machine.execRahHelperDies k s
  | .brTgt n g src => Sys2Proof.Machine.execBrTgt n g src s
  | .brJmp n g src => Sys2Proof.Machine.execBrJmp n g src s
  | .brCall n g src => Sys2Proof.Machine.execBrCall n g src s
  | .brRet g src => Sys2Proof.Machine.execBrRet g src s
  | .brBkt g src => Sys2Proof.Machine.execBrBkt g src s
  | .brTrap g src => Sys2Proof.Machine.execBrTrap g src s
  | .lpLoop g src => Sys2Proof.Machine.execLpLoop g src s
  | .lpLbrk g src => Sys2Proof.Machine.execLpLbrk g src s
  | .lpLrd sel g src => Sys2Proof.Machine.execLpLrd sel g src s
  | .sySemw g src => Sys2Proof.Machine.execSySemw g src s
  | .sySema g src => Sys2Proof.Machine.execSySema g src s
  | .sySemr g src => Sys2Proof.Machine.execSySemr g src s
  | .syJoin g src => Sys2Proof.Machine.execSyJoin g src s
  | .syLock g src => Sys2Proof.Machine.execSyLock g src s
  | .syUnlock g src => Sys2Proof.Machine.execSyUnlock g src s
  | .syRgn g src => Sys2Proof.Machine.execSyRgn g src s
  | .syMarkPrt g src => Sys2Proof.Machine.execSyMarkPrt g src s
  | .syMarkCore g src => Sys2Proof.Machine.execSyMarkCore g src s
  | .syMarkClu g src => Sys2Proof.Machine.execSyMarkClu g src s
  | .syMarkDev g src => Sys2Proof.Machine.execSyMarkDev g src s
  | .syMarkSys g src => Sys2Proof.Machine.execSyMarkSys g src s
  | .syRah g src => Sys2Proof.Machine.execSyRah g src s
  | .syChk g src => Sys2Proof.Machine.execSyChk g src s
  | .syEvt g src => Sys2Proof.Machine.execSyEvt g src s
  | .ixAdd u w g src => Sys2Proof.Machine.execIxAdd u w g src s
  | .ixSub u w g src => Sys2Proof.Machine.execIxSub u w g src s
  | .ixAnd u w g src => Sys2Proof.Machine.execIxAnd u w g src s
  | .ixOr u w g src => Sys2Proof.Machine.execIxOr u w g src s
  | .ixXor u w g src => Sys2Proof.Machine.execIxXor u w g src s
  | .ixAndn u w g src => Sys2Proof.Machine.execIxAndn u w g src s
  | .ixShl u w g src => Sys2Proof.Machine.execIxShl u w g src s
  | .ixShr u w g src => Sys2Proof.Machine.execIxShr u w g src s
  | .ixSar u w g src => Sys2Proof.Machine.execIxSar u w g src s
  | .ixRol u w g src => Sys2Proof.Machine.execIxRol u w g src s
  | .ixMin u w g src => Sys2Proof.Machine.execIxMin u w g src s
  | .ixMax u w g src => Sys2Proof.Machine.execIxMax u w g src s
  | .ixMinu u w g src => Sys2Proof.Machine.execIxMinu u w g src s
  | .ixMaxu u w g src => Sys2Proof.Machine.execIxMaxu u w g src s
  | .ixClz u w g src => Sys2Proof.Machine.execIxClz u w g src s
  | .ixCtz u w g src => Sys2Proof.Machine.execIxCtz u w g src s
  | .ixPopc u w g src => Sys2Proof.Machine.execIxPopc u w g src s
  | .ixBswap u w g src => Sys2Proof.Machine.execIxBswap u w g src s
  | .ixBext u w g src => Sys2Proof.Machine.execIxBext u w g src s
  | .ixBins u w g src => Sys2Proof.Machine.execIxBins u w g src s
  | .ixSel u w g src => Sys2Proof.Machine.execIxSel u w g src s
  | .ixMov u w g src => Sys2Proof.Machine.execIxMov u w g src s
  | .cmpCond c w g src => Sys2Proof.Machine.execCmpCond c w g src s
  | .cmpPand g src => Sys2Proof.Machine.execCmpPand g src s
  | .cmpPor g src => Sys2Proof.Machine.execCmpPor g src s
  | .cmpPxor g src => Sys2Proof.Machine.execCmpPxor g src s
  | .cmpPandn g src => Sys2Proof.Machine.execCmpPandn g src s
  | .imdMul w32 g src => Sys2Proof.Machine.execImdMul w32 g src s
  | .imdMulh w32 g src => Sys2Proof.Machine.execImdMulh w32 g src s
  | .imdMulhu w32 g src => Sys2Proof.Machine.execImdMulhu w32 g src s
  | .imdDiv w32 g src => Sys2Proof.Machine.execImdDiv w32 g src s
  | .imdDivu w32 g src => Sys2Proof.Machine.execImdDivu w32 g src s
  | .imdRem w32 g src => Sys2Proof.Machine.execImdRem w32 g src s
  | .imdRemu w32 g src => Sys2Proof.Machine.execImdRemu w32 g src s
  | .ksLd u g src => Sys2Proof.Machine.execKsLd u g src s
  | .ksSt u g src => Sys2Proof.Machine.execKsSt u g src s
  | .ksLdx u w g src => Sys2Proof.Machine.execKsLdx u w g src s
  | .ksStx u w g src => Sys2Proof.Machine.execKsStx u w g src s
  | .ksLdb u w g src => Sys2Proof.Machine.execKsLdb u w g src s
  | .vaAdd u w g src => Sys2Proof.Machine.execVaAdd u w g src s
  | .vaSub u w g src => Sys2Proof.Machine.execVaSub u w g src s
  | .vaMul u w g src => Sys2Proof.Machine.execVaMul u w g src s
  | .vaMulh u w g src => Sys2Proof.Machine.execVaMulh u w g src s
  | .vaAnd u w g src => Sys2Proof.Machine.execVaAnd u w g src s
  | .vaOr u w g src => Sys2Proof.Machine.execVaOr u w g src s
  | .vaXor u w g src => Sys2Proof.Machine.execVaXor u w g src s
  | .vaAndn u w g src => Sys2Proof.Machine.execVaAndn u w g src s
  | .vaShl u w g src => Sys2Proof.Machine.execVaShl u w g src s
  | .vaShr u w g src => Sys2Proof.Machine.execVaShr u w g src s
  | .vaSar u w g src => Sys2Proof.Machine.execVaSar u w g src s
  | .vaMin u w g src => Sys2Proof.Machine.execVaMin u w g src s
  | .vaMax u w g src => Sys2Proof.Machine.execVaMax u w g src s
  | .vaMinu u w g src => Sys2Proof.Machine.execVaMinu u w g src s
  | .vaMaxu u w g src => Sys2Proof.Machine.execVaMaxu u w g src s
  | .vaAbs u w g src => Sys2Proof.Machine.execVaAbs u w g src s
  | .vaSel u w g src => Sys2Proof.Machine.execVaSel u w g src s
  | .vaPopc u w g src => Sys2Proof.Machine.execVaPopc u w g src s
  | .vaClz u w g src => Sys2Proof.Machine.execVaClz u w g src s
  | .vaAdds u w g src => Sys2Proof.Machine.execVaAdds u w g src s
  | .vaSubs u w g src => Sys2Proof.Machine.execVaSubs u w g src s
  | .vpPerm w g src => Sys2Proof.Machine.execVpPerm w g src s
  | .vpBcast w g src => Sys2Proof.Machine.execVpBcast w g src s
  | .vpRot w g src => Sys2Proof.Machine.execVpRot w g src s
  | .vpPack w g src => Sys2Proof.Machine.execVpPack w g src s
  | .vpUnpk w g src => Sys2Proof.Machine.execVpUnpk w g src s
  | .vpCmprs w g src => Sys2Proof.Machine.execVpCmprs w g src s
  | .vpRedadd w g src => Sys2Proof.Machine.execVpRedadd w g src s
  | .vpRedmax w g src => Sys2Proof.Machine.execVpRedmax w g src s
  | .vpRedmin w g src => Sys2Proof.Machine.execVpRedmin w g src s
  | .vpScan w g src => Sys2Proof.Machine.execVpScan w g src s
  | .vpXscan w g src => Sys2Proof.Machine.execVpXscan w g src s
  | .vpFredadd f g src => Sys2Proof.Machine.execVpFredadd f g src s
  | .vpFredmax f g src => Sys2Proof.Machine.execVpFredmax f g src s
  | .vpFredmin f g src => Sys2Proof.Machine.execVpFredmin f g src s
  | .vpClmul w32 g src => Sys2Proof.Machine.execVpClmul w32 g src s
  | .vcCmp c w g src => Sys2Proof.Machine.execVcCmp c w g src s
  | .vcFcmp c f g src => Sys2Proof.Machine.execVcFcmp c f g src s
  | .vcAny g src => Sys2Proof.Machine.execVcAny g src s
  | .vcAll g src => Sys2Proof.Machine.execVcAll g src s
  | .vcCnt g src => Sys2Proof.Machine.execVcCnt g src s
  | .vcClass f g src => Sys2Proof.Machine.execVcClass f g src s
  | .vfAdd u rc f g src => Sys2Proof.Machine.execVfAdd u rc f g src s
  | .vfSub u rc f g src => Sys2Proof.Machine.execVfSub u rc f g src s
  | .vfMul u rc f g src => Sys2Proof.Machine.execVfMul u rc f g src s
  | .vfFma u rc f g src => Sys2Proof.Machine.execVfFma u rc f g src s
  | .vfNma u rc f g src => Sys2Proof.Machine.execVfNma u rc f g src s
  | .vfMin u rc f g src => Sys2Proof.Machine.execVfMin u rc f g src s
  | .vfMax u rc f g src => Sys2Proof.Machine.execVfMax u rc f g src s
  | .vfAbs u rc f g src => Sys2Proof.Machine.execVfAbs u rc f g src s
  | .vfNeg u rc f g src => Sys2Proof.Machine.execVfNeg u rc f g src s
  | .vfRnd u rc f g src => Sys2Proof.Machine.execVfRnd u rc f g src s
  | .vfCvtE8m0 u rc f g src => Sys2Proof.Machine.execVfCvtE8m0 u rc f g src s
  | .vfCvtF32E8m0 u rc g src => Sys2Proof.Machine.execVfCvtF32E8m0 u rc g src s
  | .vfCvt u d sf sat r g src => Sys2Proof.Machine.execVfCvt u d sf sat r g src s
  | .vxExp2 rc f g src => Sys2Proof.Machine.execVxExp2 rc f g src s
  | .vxLog2 rc f g src => Sys2Proof.Machine.execVxLog2 rc f g src s
  | .vxRcp rc f g src => Sys2Proof.Machine.execVxRcp rc f g src s
  | .vxRsqrt rc f g src => Sys2Proof.Machine.execVxRsqrt rc f g src s
  | .vxDiv rc f g src => Sys2Proof.Machine.execVxDiv rc f g src s
  | .vxSqrt rc f g src => Sys2Proof.Machine.execVxSqrt rc f g src s
  | .vxSincos rc f g src => Sys2Proof.Machine.execVxSincos rc f g src s
  | .fsAdd rc f g src => Sys2Proof.Machine.execFsAdd rc f g src s
  | .fsSub rc f g src => Sys2Proof.Machine.execFsSub rc f g src s
  | .fsMul rc f g src => Sys2Proof.Machine.execFsMul rc f g src s
  | .fsFma rc f g src => Sys2Proof.Machine.execFsFma rc f g src s
  | .fsMin rc f g src => Sys2Proof.Machine.execFsMin rc f g src s
  | .fsMax rc f g src => Sys2Proof.Machine.execFsMax rc f g src s
  | .fsFcmp c rc f g src => Sys2Proof.Machine.execFsFcmp c rc f g src s
  | .fsCvt d sf sat r g src => Sys2Proof.Machine.execFsCvt d sf sat r g src s
  | .fdDiv rc g src => Sys2Proof.Machine.execFdDiv rc g src s
  | .fdSqrt rc g src => Sys2Proof.Machine.execFdSqrt rc g src s
  | .fdRsqrt rc g src => Sys2Proof.Machine.execFdRsqrt rc g src s
  | .mxBld m g src => Sys2Proof.Machine.execMxBld m g src s
  | .mxBsw m g src => Sys2Proof.Machine.execMxBsw m g src s
  | .mxMma m z g src => Sys2Proof.Machine.execMxMma m z g src s
  | .mxMmt m z g src => Sys2Proof.Machine.execMxMmt m z g src s
  | .mxMcfg m g src => Sys2Proof.Machine.execMxMcfg m g src s
  | .mxMad m z g src => Sys2Proof.Machine.execMxMad m z g src s
  | .kvKvk d g src => Sys2Proof.Machine.execKvKvk d g src s
  | .kvKvv d g src => Sys2Proof.Machine.execKvKvv d g src s
  | .kvKvap g src => Sys2Proof.Machine.execKvKvap g src s
  | .kvKvfrq n g src => Sys2Proof.Machine.execKvKvfrq n g src s
  | .pxCsc n g src => Sys2Proof.Machine.execPxCsc n g src s
  | .pxPack p10 g src => Sys2Proof.Machine.execPxPack p10 g src s
  | .gmLd u z g src => Sys2Proof.Machine.execGmLd u z g src s
  | .gmLdS u z g src => Sys2Proof.Machine.execGmLdS u z g src s
  | .gmSt u z g src => Sys2Proof.Machine.execGmSt u z g src s
  | .gmPref u g src => Sys2Proof.Machine.execGmPref u g src s
  | .gmStSm u z g src => Sys2Proof.Machine.execGmStSm u z g src s
  | .gmLdSm u z g src => Sys2Proof.Machine.execGmLdSm u z g src s
  | .gmLdSmS u z g src => Sys2Proof.Machine.execGmLdSmS u z g src s
  | .gmAmoAdd u w32 g src => Sys2Proof.Machine.execGmAmoAdd u w32 g src s
  | .gmAmoAnd u w32 g src => Sys2Proof.Machine.execGmAmoAnd u w32 g src s
  | .gmAmoOr u w32 g src => Sys2Proof.Machine.execGmAmoOr u w32 g src s
  | .gmAmoXor u w32 g src => Sys2Proof.Machine.execGmAmoXor u w32 g src s
  | .gmAmoMin u w32 g src => Sys2Proof.Machine.execGmAmoMin u w32 g src s
  | .gmAmoMax u w32 g src => Sys2Proof.Machine.execGmAmoMax u w32 g src s
  | .gmAmoMinu u w32 g src => Sys2Proof.Machine.execGmAmoMinu u w32 g src s
  | .gmAmoMaxu u w32 g src => Sys2Proof.Machine.execGmAmoMaxu u w32 g src s
  | .gmAmoSwap u w32 g src => Sys2Proof.Machine.execGmAmoSwap u w32 g src s
  | .gmAmoCas u w32 g src => Sys2Proof.Machine.execGmAmoCas u w32 g src s
  | .gmAmoFadd u g src => Sys2Proof.Machine.execGmAmoFadd u g src s
  | .gmAmoNib u g src => Sys2Proof.Machine.execGmAmoNib u g src s
  | .rwWalk g src => Sys2Proof.Machine.execRwWalk g src s
  | .rwWalkp g src => Sys2Proof.Machine.execRwWalkp g src s
  | .tgLook g src => Sys2Proof.Machine.execTgLook g src s
  | .tgPin g src => Sys2Proof.Machine.execTgPin g src s
  | .tgUnpin g src => Sys2Proof.Machine.execTgUnpin g src s
  | .tgInval g src => Sys2Proof.Machine.execTgInval g src s
  | .tgSetag g src => Sys2Proof.Machine.execTgSetag g src s
  | .hamperCopy1d c => Sys2Proof.Machine.execHamperCopy1d c s
  | .hamperCopy2d c => Sys2Proof.Machine.execHamperCopy2d c s
  | .hamperCopy3d c => Sys2Proof.Machine.execHamperCopy3d c s
  | .hamperCopyf1d c => Sys2Proof.Machine.execHamperCopyf1d c s
  | .hamperCopyf2d c => Sys2Proof.Machine.execHamperCopyf2d c s
  | .hamperCopyf3d c => Sys2Proof.Machine.execHamperCopyf3d c s
  | .gatherGath c => Sys2Proof.Machine.execGatherGath c s
  | .gatherScat c => Sys2Proof.Machine.execGatherScat c s
  | .collCred c => Sys2Proof.Machine.execCollCred c s
  | .collCbc c => Sys2Proof.Machine.execCollCbc c s
  | .mqueueMq c => Sys2Proof.Machine.execMqueueMq c s
  | .walkerAwalk c => Sys2Proof.Machine.execWalkerAwalk c s
  | .codecEnc c => Sys2Proof.Machine.execCodecEnc c s
  | .codecDec c => Sys2Proof.Machine.execCodecDec c s
  | .tagFill c => Sys2Proof.Machine.execTagFill c s
  | .tagEvict c => Sys2Proof.Machine.execTagEvict c s
  | .tagWback c => Sys2Proof.Machine.execTagWback c s
  | .eventPost c => Sys2Proof.Machine.execEventPost c s
  | .engineOpStart k eng => Sys2Proof.Machine.execEngineOpStart k eng s
  | .engineOpComplete k id => Sys2Proof.Machine.execEngineOpComplete k id s
  | .copyfFollowOn k id => Sys2Proof.Machine.execCopyfFollowOn k id s
  | .mqSourcesReleased k id => Sys2Proof.Machine.execMqSourcesReleased k id s
  | .semaWrite n g src => Sys2Proof.Machine.execSemaWrite n g src s
  | .viewWrite v g src => Sys2Proof.Machine.execViewWrite v g src s
  | .fpcsrWrite g src => Sys2Proof.Machine.execFpcsrWrite g src s
  | .ctrlRegWrite n g src => Sys2Proof.Machine.execCtrlRegWrite n g src s
  | .jobEnd k => Sys2Proof.Machine.execJobEnd k s
  | .rucksackWrite k => Sys2Proof.Machine.execRucksackWrite k s
  | .hardPreempt k => Sys2Proof.Machine.execHardPreempt k s
  | .memRecordPosted src => Sys2Proof.Machine.execMemRecordPosted src s
  | .heldRequestsProceed home => Sys2Proof.Machine.execHeldRequestsProceed home s
  | .sqNop n => Sys2Proof.Machine.execSqNop n s
  | .sqInvoke n => Sys2Proof.Machine.execSqInvoke n s
  | .sqSopen n => Sys2Proof.Machine.execSqSopen n s
  | .sqSclose n => Sys2Proof.Machine.execSqSclose n s
  | .sqSupdate n => Sys2Proof.Machine.execSqSupdate n s
  | .sqFence n => Sys2Proof.Machine.execSqFence n s
  | .frameRelease stream => Sys2Proof.Machine.execFrameRelease stream s
  | .stepBoundary graph node => Sys2Proof.Machine.execStepBoundary graph node s
  | .msixCoalesceTimeout v => Sys2Proof.Machine.execMsixCoalesceTimeout v s
  | .probeTokenSend party => Sys2Proof.Machine.execProbeTokenSend party s
  | .probeTokenReturn id => Sys2Proof.Machine.execProbeTokenReturn id s
  | .storePerformed k p => Sys2Proof.Machine.execStorePerformed k p s
  | .spillAccessComplete k p => Sys2Proof.Machine.execSpillAccessComplete k p s
  | .jobLaunchComplete k => Sys2Proof.Machine.execJobLaunchComplete k s
  | .parityReloadDone k p => Sys2Proof.Machine.execParityReloadDone k p s
  | .nop => Sys2Proof.Machine.execNop s
  | .patchApplyPatch => Sys2Proof.Machine.execPatchApplyPatch s
  | .patchApplyReissue => Sys2Proof.Machine.execPatchApplyReissue s
  | .patchApplyRestart => Sys2Proof.Machine.execPatchApplyRestart s
  | .patchApplyEndJob => Sys2Proof.Machine.execPatchApplyEndJob s
  | .dispatchTurn => Sys2Proof.Machine.execDispatchTurn s
  | .budgetRefill => Sys2Proof.Machine.execBudgetRefill s
  | .sratioSample => Sys2Proof.Machine.execSratioSample s
  | .reset => Sys2Proof.Machine.execReset s
  | .powerControllerRequestDone => Sys2Proof.Machine.execPowerControllerRequestDone s
  | .preemptRequest k => Sys2Proof.Machine.execPreemptRequest k s
  | .eccCorrectable e => Sys2Proof.Machine.execEccCorrectable e s
  | .eccUncorrectable e => Sys2Proof.Machine.execEccUncorrectable e s
  | .homeRequest r => Sys2Proof.Machine.execHomeRequest r s
  | .homeInvalidate home iapg => Sys2Proof.Machine.execHomeInvalidate home iapg s
  | .hostPeerRead port a len tag => Sys2Proof.Machine.execHostPeerRead port a len tag s
  | .hostPeerWrite port a data => Sys2Proof.Machine.execHostPeerWrite port a data s
  | .sqDoorbell n tail => Sys2Proof.Machine.execSqDoorbell n tail s
  | .msixCoalesceWrite v x => Sys2Proof.Machine.execMsixCoalesceWrite v x s
  | .cpreqWrite c x => Sys2Proof.Machine.execCpreqWrite c x s
  | .vminWrite x => Sys2Proof.Machine.execVminWrite x s
  | .sensorRead c n raw => Sys2Proof.Machine.execSensorRead c n raw s
  | .flitReplay port => Sys2Proof.Machine.execFlitReplay port s
  | .laneFault port maxw => Sys2Proof.Machine.execLaneFault port maxw s
  | .l0pWidthChange port width => Sys2Proof.Machine.execL0pWidthChange port width s
  | .ideIntegrityFail port strm => Sys2Proof.Machine.execIdeIntegrityFail port strm s
  | .ideKm port strm aes256gcm => Sys2Proof.Machine.execIdeKm port strm aes256gcm s
  | .linkDown port => Sys2Proof.Machine.execLinkDown port s
  | .portReset port => Sys2Proof.Machine.execPortReset port s
  | .getMeasurements path index => Sys2Proof.Machine.execGetMeasurements path index s
  | .doeRequest port q => Sys2Proof.Machine.execDoeRequest port q s
  | .codecEngineFailure c => Sys2Proof.Machine.execCodecEngineFailure c s
  | .boardControllerTelemetry power current coolant => Sys2Proof.Machine.execBoardControllerTelemetry power current coolant s
  | .msixVectorUnmask v => Sys2Proof.Machine.execMsixVectorUnmask v s
  | .sqstatWrite n x => Sys2Proof.Machine.execSqstatWrite n x s
  | .sriovNumvfsWrite m => Sys2Proof.Machine.execSriovNumvfsWrite m s
  | .homeRegisterWrite home w => Sys2Proof.Machine.execHomeRegisterWrite home w s

end Sys2Proof.Machine
end

