-- ==== Sys2Proof/Machine/Step.lean ====
section
/-! DEFINITION. One step of the part: the next thing of its order of events, and the place of an instruction
that the next step fetches. -/

namespace Sys2Proof.Machine

/-- What is to be done is done. -/
def Todo.act (t : Todo) (s : State) : Result :=
  match t with
  | .run i => exec i s
  | .move s => .next s

/-- One step. A phase that names a core, cluster or partition that the die does not have has no step. -/
def step (s : State) : Result :=
  match s.phase with
  | .fclk => s.todoFclk.1.act s.todoFclk.2
  | .cluster c => if c < 16 then .next (s.clusterTurn c) else .fault .noSuchAgent
  | .start k => if k < 128 then (s.todoStart k).1.act (s.todoStart k).2 else .fault .noSuchAgent
  | .prt k p => if k < 128 ∧ p < 12 then (s.todoTurn k p).act s else .fault .noSuchAgent
  | .finish k => if k < 128 then .next (s.endAclk k) else .fault .noSuchAgent

/-- The instruction whose bits are w stands where the next step fetches it. -/
def State.withFetchWord (s : State) (nbits w : Nat) : State := s.placeParcels (tableParcels nbits w)

end Sys2Proof.Machine
end

