-- ==== Sys2Proof/Safety.lean ====
section
/-! DEFINITION. What a safe step is, and the terms that claims use: when a word of one move issues, what it
reads, and the state it leaves. -/

namespace Sys2Proof.Machine

/-- A phase that names an agent of the die (R16, R17, R19). -/
def Phase.valid : Phase → Bool
  | .fclk => true
  | .cluster c => decide (c < 16)
  | .start k => decide (k < 128)
  | .prt k p => decide (k < 128) && decide (p < 12)
  | .finish k => decide (k < 128)

/-- A result that is a next state. -/
def goesOn : Result → Bool
  | .next _ => true
  | .fault _ => false
  | .refused _ => false

/-- A state from which the part goes on for one step. -/
def State.safe (s : State) : Bool := goesOn (step s)

/-! ### A word of one move that issues (R42, R45, R76, R78, R364) -/

/-- Partition p of core k is at its turn and may issue: nothing holds its locked group, no request of it
waits in the mesh, and its core is not in the debug mode of R362. -/
def State.atTurn (s : State) (k p : Nat) : Bool :=
  decide (s.phase = .prt k p) && s.canIssue k p && !(s.core k).held p && !((s.core k).prt p).meshWait && !(s.core k).dbg

/-- A source can be read now: in bounds, not awaited, of a core that may read it, with an entry to pop. -/
def Env.readable (e : Env) : Src → Bool
  | .main v i => viewOk (e.q0.view v) i.toNat
  | .latch u _ _ => !e.q0.awaits u
  | .creg i => decide (i.toNat < 0x400) || isFwCore e.k
  | .hq n => decide ((hqAt e.hq (hqIndex e.k n)).visible ≠ 0)
  | _ => true

/-- A source can be read now and holds no poison. -/
def Env.clean (e : Env) (src : Src) : Bool := e.readable src && !(e.readPlain src).psn

/-- A word of one move whose guard holds, legal in its partition, with a source that can be read. -/
def State.placed (s : State) (k p : Nat) (g : Guard) (src : Src) (d : Dst) : Bool :=
  s.atTurn k p && (oneMove g src d).wf (ctxOf k p) && !((s.core k).prt p).predPoison g.pred &&
    ((s.core k).prt p).holds g && (s.env k p).readable src

/-- A word of one move whose guard holds, legal in its partition, with a clean source. -/
def State.ready (s : State) (k p : Nat) (g : Guard) (src : Src) (d : Dst) : Bool :=
  s.atTurn k p && (oneMove g src d).wf (ctxOf k p) && !((s.core k).prt p).predPoison g.pred &&
    ((s.core k).prt p).holds g && (s.env k p).clean src

/-- What a move of a source gives the trigger of a unit. -/
def State.datumRead (s : State) (k p : Nat) (src : Src) (u : UnitName) : Read :=
  { (s.env k p).readPlain src with bits := ((s.env k p).readPlain src).at (trigWidth (prtWidth p) u) }

/-- The trigger datum as a number. -/
def State.datum (s : State) (k p : Nat) (src : Src) (u : UnitName) : Nat := (s.datumRead k p src u).bits.toNat

/-- The ports of a unit. -/
def State.ports (s : State) (k p : Nat) (u : UnitName) : UnitRegs := ((s.core k).prt p).unit u

/-- None of the inputs that a trigger uses is poisoned (R58, R352). -/
def State.inputsClean (s : State) (k p : Nat) (src : Src) (t : Trigger) : Bool :=
  (firstPoison (trigUses (s.core k).sh0 (s.ports k p t.unit) t) (s.datumRead k p src t.unit) (s.ports k p t.unit)).isNone

/-- The poison word of what a trigger makes of a poisoned input: that of the first poisoned one that it uses, in the
order t, o1, o2, o3, with DER; none where they are clean (R58, R236, R352). -/
def State.poisonIn (s : State) (k p : Nat) (src : Src) (t : Trigger) : Option Word :=
  let r := s.ports k p t.unit
  let u := trigUses (s.core k).sh0 r t
  let d := s.datumRead k p src t.unit
  if u.t && d.psn then some (d.pw ||| bitAt 54 true)
  else if u.o1 && r.o1.psn then some (r.o1.word ||| bitAt 54 true)
  else if u.o2 && r.o2.psn then some (r.o2.word ||| bitAt 54 true)
  else if u.o3 && r.o3.psn then some (r.o3.word ||| bitAt 54 true)
  else none

/-- A result whose every latch is poisoned by a word, without flags and effect (R352). -/
def Yield.dead (y : Yield) (w : Word) : Yield :=
  { lat := y.lat, res := y.res.map fun _ => w.toNat, res1 := y.res1.map fun _ => w.toNat, flag := y.flag.map fun _ => w.toNat,
    psn := true }

/-- The end of the issue cycle of a group of one word, and of its partition's turn: `e` is the environment
after what the group has done. -/
def State.endWord (s : State) (k p : Nat) (e : Env) : State :=
  let e' := e.modQ fun q => { q with idle := 0 }
  (s.withEnv { e' with core := e'.core.endCycle p 1 ((s.core k).prt p).loop.active }).nextTurn k p

/-- The state after a word of one move: a pop of its source, its effect, and the end of its cycle. -/
def State.afterMove (s : State) (k p : Nat) (src : Src) (f : Env → Env) : State :=
  s.endWord k p (f ((s.env k p).readSrc src).1)

/-- The end of the issue cycle of a group of n words that starts no IDLE count, and of its partition's turn. -/
def State.endGroup (s : State) (k p n : Nat) (e : Env) : State :=
  let e' := e.modQ fun q => { q with idle := 0 }
  (s.withEnv { e' with core := e'.core.endCycle p n ((s.core k).prt p).loop.active }).nextTurn k p

/-- Destinations that take a value and do nothing else (R66): exchange ports and triggers, queues, the main file
and control registers apart. -/
def plainDst : Dst → Bool
  | .ofile _ | .pred _ | .port _ _ | .sink => true
  | _ => false

/-- A slot that moves a clean value, not a queue entry, to a plain destination, or does not execute. -/
def Env.simple (e : Env) (it : Item) : Bool :=
  !e.q0.predPoison it.g.pred && match it.act with
    | .move (.hq _) _ => false
    | .move s d => plainDst d && (!e.q0.holds it.g || e.clean s)
    | .imm _ d => plainDst d
    | .cmd _ _ => false

/-- Partition p of core k exists. -/
def State.has (s : State) (k p : Nat) : Bool := decide (k < s.cores.length) && decide (p < (s.core k).prts.length)

/-- A word that is not a move group of clean values may issue: a command, a long immediate, an IDLE. -/
def State.wordReady (s : State) (k p : Nat) (g : Group) : Bool := s.has k p && s.atTurn k p && g.wf (ctxOf k p)

/-- The operand ports of a unit as numbers. -/
def State.op1 (s : State) (k p : Nat) (u : UnitName) : Nat := (s.ports k p u).o1.bits.toNat
/-- o2. -/
def State.op2 (s : State) (k p : Nat) (u : UnitName) : Nat := (s.ports k p u).o2.bits.toNat
/-- o3. -/
def State.op3 (s : State) (k p : Nat) (u : UnitName) : Nat := (s.ports k p u).o3.bits.toNat

/-- A word that triggers t is ready, and no input that t uses is poisoned. -/
def State.fires (s : State) (k p : Nat) (g : Guard) (src : Src) (t : Trigger) : Bool :=
  s.ready k p g src (.trig t) && s.inputsClean k p src t

/-- Triggers that put a result of fixed latency in flight and meet nothing but their inputs: every trigger of the
units ix, cmp, imd, va, vp, vc, vf, vx, fs, fd, kv and px but kv.frq, whose bytes may be poisoned, the loads of ks,
lp.lrd and sy.semr. -/
def plain : Trigger → Bool
  | .lpLrd _ | .sySemr | .ix _ _ _ | .cmp _ _ | .cmpPred _ | .imd _ _ | .ksLd _ | .ksLdx _ _ | .ksLdb _ _ | .va _ _ _
  | .vp _ _ | .vpF _ _ | .vpClmul _ | .vcCmp _ _ | .vcFcmp _ _ | .vcVote _ | .vcClass _ | .vf _ _ _ _ | .vfToE8m0 _ _ _
  | .vfFromE8m0 _ _ | .vfCvt _ _ _ _ _ | .vx _ _ _ | .fs _ _ _ | .fsCmp _ _ _ | .fsCvt _ _ _ _ | .fd _ _ | .kvLoad _ _
  | .kvAp | .pxCsc _ | .pxPack _ => true
  | _ => false

/-- Step i, a word of one move into trigger t, completes: on clean inputs the result y is in flight; and where an input
that t uses is poisoned and t is no sink, every latch of y is to land poisoned with the poison word of that input, at the
same latency (R351 to R353). The cycle of a word of one move has ended. -/
def Yields (i : Instr) (s : State) (k p : Nat) (g : Guard) (src : Src) (t : Trigger) (y : Yield) : Prop :=
  (s.fires k p g src t = true → exec i s = .next (s.afterMove k p src fun e => e.launch t.unit t.macroIdx y)) ∧
    ∀ w, s.placed k p g src (.trig t) = true → s.poisonIn k p src t = some w → trigSink t = false →
      exec i s = .next (s.afterMove k p src fun e => e.launch t.unit t.macroIdx (y.dead w))

/-- Step i, a word of one move into trigger t, completes with an effect f of its issue cycle. -/
def Effects (i : Instr) (s : State) (k p : Nat) (g : Guard) (src : Src) (t : Trigger) (f : Env → Env) : Prop :=
  s.fires k p g src t = true → exec i s = .next (s.afterMove k p src f)

/-- Lane l of k bits as a bit vector. -/
def laneBv (k x l : Nat) : BitVec k := BitVec.ofNat k (lane k x l)

/-- A value made of lanes of k bits, w bytes wide. -/
def fromLanes (k w : Nat) (f : Nat → BitVec k) : Nat := ofLanes k ((List.range (8 * w / k)).map fun l => (f l).toNat)

/-- A value made of codes of k bits, w bytes wide, and the OR of the flags that its lanes raise (R94). -/
def fromCodes (k w : Nat) (f : Nat → Nat × FFlags) : Nat × FFlags :=
  let l := (List.range (8 * w / k)).map f
  (ofLanes k (l.map Prod.fst), (l.map Prod.snd).foldl (· ||| ·) 0)

/-- Node i of level n of the tree of R207 over the leaves v: its code, and the flags of every operation below
it. -/
def treeAt (op : Nat → Nat → Nat × FFlags) (v : Nat → Nat) : Nat → Nat → Nat × FFlags
  | 0, i => (v i, 0)
  | n + 1, i =>
    let x := treeAt op v n (2 * i)
    let y := treeAt op v n (2 * i + 1)
    let r := op x.1 y.1
    (r.1, x.2 ||| y.2 ||| r.2)

/-- The carry-less product of two k-bit lanes as a polynomial of 2 k bits (R208). -/
def polyMul {k : Nat} (a c : BitVec k) : BitVec (2 * k) :=
  (List.range k).foldl (fun x i => if c.getLsbD i then x ^^^ (a.setWidth (2 * k) <<< i) else x) 0

/-! ### Triggers with conditions of their own -/

/-- A trigger of mx that fires, legal with the macro's formats, and that its macro accepts (R228, R235). -/
def State.macroFires (s : State) (k p : Nat) (g : Guard) (src : Src) (t : Trigger) : Bool :=
  s.fires k p g src t && !(s.env k p).reservedUse t && !(s.env k p).mxRefuses t

/-- The acceptance interval of a macro that a compute trigger begins (R228). -/
def Env.interval (e : Env) (m : BitVec 3) (n : Nat) : Env :=
  e.modSh fun h => h.modCim m fun c => { c with ivl := ⟨true, n, e.p⟩ }

/-- mat0 has used a macro in this ACLK (R228). -/
def Env.used (e : Env) (m : BitVec 3) : Env :=
  if e.p = 9 then { e with core := { e.core with mxUsed := putBit e.core.mxUsed m.toNat true } } else e

/-- An access enters the partition's queues, and a scoreboarded result is in flight unless it is a store. -/
def Env.withAccess (e : Env) (o : MemOp) : Env :=
  let fly : Fly := ⟨e.core.seq, o.unit, 0, 40, true, false, none, none, none, 0, .none, o.sec⟩
  let e := e.modQ fun q => { q with mops := q.mops ++ [o], fly := if o.kind = .store then q.fly else q.fly ++ [fly] }
  { e with core := { e.core.endRefill e.p with seq := e.core.seq + 1 } }

/-- A trigger of br, lp, sy or tg fires on a partition that exists, outside a loop, with no transfer running and
no pre-emption of its job. -/
def State.calm (s : State) (k p : Nat) (g : Guard) (src : Src) (t : Trigger) : Bool :=
  s.has k p && s.fires k p g src t && !((s.core k).prt p).loop.active && ((s.core k).prt p).transfer.isNone && !(s.core k).preempting

/-! ### Frames -/

/-- What no word of a stream changes: memory, the scheduler, the rest of the part's devices, the other cores,
and the other partitions of its core. -/
structure OutsideKept (s t : State) (k p : Nat) : Prop where
  mem : t.mem = s.mem
  sched : t.sched = s.sched
  probes : t.probes = s.probes
  inbox : t.inbox = s.inbox
  out : t.out = s.out
  fclk : t.fclk = s.fclk
  cores : ∀ j, j ≠ k → t.core j = s.core j
  prts : ∀ j, j ≠ p → (t.core k).prt j = (s.core k).prt j

/-- The registers of a partition beside its ports and latches, what is in flight, its predicates and where it
stands in its stream. -/
structure RegistersKept (q r : Partition) : Prop where
  ofile : r.ofile = q.ofile
  xi : r.xi = q.xi
  views : r.views = q.views
  bt : r.bt = q.bt
  rgn : r.rgnPc = q.rgnPc ∧ r.rgnWrem = q.rgnWrem
  rah : r.rah = q.rah
  fpcsr : r.fpcsr = q.fpcsr
  pstat : r.lcol = q.lcol ∧ r.xcol = q.xcol
  pads : r.padv = q.padv ∧ r.mxpad = q.mxpad ∧ r.kvpad = q.kvpad ∧ r.kvpos = q.kvpos
  stack : r.stack = q.stack
  trap : r.trap = q.trap
  mops : r.mops = q.mops
  freq : r.freq = q.freq
  store : r.store = q.store ∧ r.slen = q.slen

/-- The predicates that software writes are kept, and all of them where no loop runs (R77). -/
def PredsKept (q r : Partition) : Prop := r.preds &&& 0x00FF = q.preds &&& 0x00FF ∧ (q.loop.active = false → r.preds = q.preds)

/-- The stream goes on after one word: outside a loop, a transfer and a pre-emption it stands at the next one. -/
def Advances (q r : Partition) (n : Nat) : Prop :=
  q.loop.active = false → r.pc = q.pc + BitVec.ofNat 13 (3 * n) ∧ r.left = q.left - n

/-- The macros of a core but for the intervals that they count (R228). -/
def MacrosKept (h j : Shared) : Prop :=
  ∀ m : BitVec 3, (j.cim m).cfg = (h.cim m).cfg ∧ (j.cim m).p0 = (h.cim m).p0 ∧ (j.cim m).p1 = (h.cim m).p1 ∧
    (j.cim m).act = (h.cim m).act ∧ (j.cim m).pblk = (h.cim m).pblk ∧ (j.cim m).res = (h.cim m).res ∧
    (j.cim m).res1 = (h.cim m).res1 ∧ (j.cim m).flag = (h.cim m).flag

/-- The core store and its tags. -/
def StoreKept (h j : Shared) : Prop := j.cs = h.cs ∧ j.csPsn = h.csPsn ∧ j.tags = h.tags

/-- The register space. -/
def SpaceKept (h j : Shared) : Prop := j.reg = h.reg ∧ j.regPsn = h.regPsn

/-- Semaphores, retirement counts, the event queue, the FTB, pacing and SCNT. -/
structure CountsKept (h j : Shared) : Prop where
  sema : j.sema = h.sema
  rsc : j.rsc = h.rsc
  evq : j.evq = h.evq ∧ j.evLost = h.evLost ∧ j.evOvf = h.evOvf
  ftb : j.ftb = h.ftb ∧ j.fillptr = h.fillptr
  gap : j.gap = h.gap
  scnt : j.scnt = h.scnt

/-- Where a byte lies among n bytes at a place, none when it is not one of them. Ports from 3 on share one list of
bytes. -/
def Place.within (y p : Place) (n : Nat) : Option Nat :=
  match y, p with
  | .loc a, .loc b => if b ≤ a ∧ a < b + n then some (a - b) else none
  | .own i a, .own j b => if min i 3 = min j 3 ∧ b ≤ a ∧ a < b + n then some (a - b) else none
  | .llc a, .llc b => if b ≤ a ∧ a < b + n then some (a - b) else none
  | _, _ => none

/-! ### Groups as a whole -/

/-- The destination of a slot, none of a command. -/
def slotDst (it : Item) : Option Dst :=
  match it.act with
  | .move _ d | .imm _ d => some d
  | .cmd _ _ => none

/-- The queue that a slot pops. -/
def slotPop (it : Item) : Option (BitVec 4) :=
  match it.act with
  | .move (.hq n) _ => some n
  | _ => none

/-- The slots of a group that execute in a partition (R76). -/
def executed (q : Partition) (g : Group) : List Item := (groupItems g).filter fun it => q.holds it.g

/-- The destinations that a group writes. -/
def dstsOf (q : Partition) (g : Group) : List Dst := (executed q g).filterMap slotDst

/-- The queues that a group pops. -/
def popsOf (q : Partition) (g : Group) : List (BitVec 4) := (executed q g).filterMap slotPop

/-- A group has no command word that executes. -/
def noCommand (q : Partition) (g : Group) : Prop := ∀ it ∈ executed q g, slotDst it ≠ none

/-- No trigger with a property is among the destinations. -/
def noTrigger (ds : List Dst) (P : Trigger → Prop) : Prop := ∀ t, Dst.trig t ∈ ds → ¬P t

/-- A group that traps at its partition's turn: the state after it. -/
def State.trapped (s : State) (k p : Nat) (cause : BitVec 8) (i1 i2 : Word) : State :=
  (s.takeTrap k p cause i1 i2 ((s.core k).prt p).pc).nextTurn k p

/-- The partition takes its turn as its stream stands: nothing of a pre-emption, a reload, an IDLE count, a request in
the mesh or a software trap comes before its next words. -/
def State.streams (s : State) (k p : Nat) : Bool :=
  decide (s.phase = .prt k p) && decide (k < 128) && decide (p < 12) && s.canIssue k p && !(s.core k).preempting &&
    !(s.core k).ftbReload && ((s.core k).prt p).swtrap.isNone && ((s.core k).prt p).idle == 0 && ((s.core k).prt p).badParcels.isEmpty &&
    !((s.core k).prt p).meshWait

/-- n parcels of a partition's store from its PC on. -/
def Partition.ahead (q : Partition) (n : Nat) : List (BitVec 32) := (List.range n).map fun j => q.parcel (q.pc.toNat + j)

/-- The form that every step keeps: the phase names an agent of the die, every core, cluster and home is there, and
memory is in canonical form. -/
structure State.Form (s : State) : Prop where
  phase : s.phase.valid = true
  cores : s.cores.length = 128
  clusters : s.clusters.length = 16
  homes : s.mem.homes.length = 36
  mem : s.mem.wf = true

end Sys2Proof.Machine
end

