-- ==== Sys2Proof/Certificates/Slice0/Obligations.lean ====
section
/-! DEFINITION. The statements for the provers: what the rules of spec/ say that the words of a stream, the
events of the part and the machine as a whole do. -/

open Sys2Proof Sys2Proof.Machine

/-! ### Scalar units and core-store ports -/

/-- R190: what every operation of ix0 and ix1 puts into res, 1 cycle later: the operation on bit vectors of the n bits
that the modifier names, zero-extended. For shifts and rol the amount is c mod n; bext and bins take pos from t[5:0]
and len from t[14:8], at most 64. A poisoned input that an operation uses poisons every latch of its result (R351,
R352). -/
def Obligations.IntegerUnitResults : Prop :=
  ∀ (s : State) (k p : Nat) (g : Guard) (src : Src) (u : Bool) (w : IntW),
    let n := wBits w
    let un (op : IxOp) : Trigger := .ix u op w
    let nm : UnitName := if u then .ix1 else .ix0
    let t := s.datum k p src nm
    let a := BitVec.ofNat n (s.op1 k p nm)
    let b := BitVec.ofNat n (s.op2 k p nm)
    let c := BitVec.ofNat n t
    let sh := c.toNat % n
    let pos := t % 64
    let m := BitVec.ofNat n (2 ^ min (t / 256 % 128) 64 - 1)
    let go (i : Instr) (op : IxOp) (x : BitVec n) : Prop := Yields i s k p g src (un op) (.one 1 x.toNat)
    go (.ixAdd u w g src) .add (a + c) ∧ go (.ixSub u w g src) .sub (a - c) ∧ go (.ixAnd u w g src) .and (a &&& c) ∧
    go (.ixOr u w g src) .or (a ||| c) ∧ go (.ixXor u w g src) .xor (a ^^^ c) ∧ go (.ixAndn u w g src) .andn (a &&& ~~~c) ∧
    go (.ixShl u w g src) .shl (a <<< sh) ∧ go (.ixShr u w g src) .shr (a >>> sh) ∧ go (.ixSar u w g src) .sar (a.sshiftRight sh) ∧
    go (.ixRol u w g src) .rol (a.rotateLeft sh) ∧ go (.ixMin u w g src) .min (if a.slt c then a else c) ∧
    go (.ixMax u w g src) .max (if a.slt c then c else a) ∧ go (.ixMinu u w g src) .minu (if a.ult c then a else c) ∧
    go (.ixMaxu u w g src) .maxu (if a.ult c then c else a) ∧ go (.ixClz u w g src) .clz c.clz ∧ go (.ixCtz u w g src) .ctz c.ctz ∧
    go (.ixPopc u w g src) .popc c.cpop ∧
    go (.ixBswap u w g src) .bswap (BitVec.ofFnLE fun i : Fin n => c.getLsbD (8 * (n / 8 - 1 - i.val / 8) + i.val % 8)) ∧
    go (.ixBext u w g src) .bext ((a >>> pos) &&& m) ∧ go (.ixBins u w g src) .bins ((a &&& ~~~(m <<< pos)) ||| ((b &&& m) <<< pos)) ∧
    go (.ixSel u w g src) .sel (if t % 2 = 1 then a else b) ∧ go (.ixMov u w g src) .mov c

/-- R191: cmp puts 1 or 0 into res, as the condition on n bits holds, and its predicate operations put the operation
on bit 0 of o1 and t. A poisoned input that an operation uses poisons every latch of its result (R351, R352). -/
def Obligations.CompareUnitResults : Prop :=
  ∀ (s : State) (k p : Nat) (g : Guard) (src : Src) (w : IntW),
    let n := wBits w
    let t := s.datum k p src .cmp
    let o := s.op1 k p .cmp
    let a := BitVec.ofNat n o
    let c := BitVec.ofNat n t
    let x := o % 2 = 1
    let y := t % 2 = 1
    let go (i : Instr) (tr : Trigger) (b : Bool) : Prop := Yields i s k p g src tr (.one 1 b.toNat)
    go (.cmpCond .eq w g src) (.cmp .eq w) (a = c) ∧ go (.cmpCond .ne w g src) (.cmp .ne w) (a ≠ c) ∧
    go (.cmpCond .lt w g src) (.cmp .lt w) (a.slt c) ∧ go (.cmpCond .le w g src) (.cmp .le w) (a.sle c) ∧
    go (.cmpCond .gt w g src) (.cmp .gt w) (c.slt a) ∧ go (.cmpCond .ge w g src) (.cmp .ge w) (c.sle a) ∧
    go (.cmpCond .ltu w g src) (.cmp .ltu w) (a.ult c) ∧ go (.cmpCond .leu w g src) (.cmp .leu w) (a.ule c) ∧
    go (.cmpCond .gtu w g src) (.cmp .gtu w) (c.ult a) ∧ go (.cmpCond .geu w g src) (.cmp .geu w) (c.ule a) ∧
    go (.cmpPand g src) (.cmpPred .pand) (x ∧ y) ∧ go (.cmpPor g src) (.cmpPred .por) (x ∨ y) ∧
    go (.cmpPxor g src) (.cmpPred .pxor) (x ≠ y) ∧ go (.cmpPandn g src) (.cmpPred .pandn) (x ∧ ¬y)

/-- R192: imd multiplies in 3 cycles and leaves flag alone; it divides in 20, with the rows for a zero divisor (flag
1) and for -2^(n-1) / -1 (flag 2) first, the quotient rounded toward zero and the remainder with the sign of the
dividend. A poisoned input that an operation uses poisons every latch of its result (R351, R352). -/
def Obligations.MultiplyDivideResults : Prop :=
  ∀ (s : State) (k p : Nat) (g : Guard) (src : Src) (w32 : Bool),
    let n := if w32 then 32 else 64
    let a := BitVec.ofNat n (s.op1 k p .imd)
    let c := BitVec.ofNat n (s.datum k p src .imd)
    let mul (i : Instr) (op : ImdOp) (x : BitVec n) : Prop := Yields i s k p g src (.imd op w32) (.one 3 x.toNat)
    let div (i : Instr) (op : ImdOp) (x : BitVec n) (f : Nat) : Prop :=
      Yields i s k p g src (.imd op w32) { lat := 20, res := some x.toNat, flag := some f }
    let wrap := a = BitVec.intMin n ∧ c = -1
    let sf := if c = 0 then 1 else if wrap then 2 else 0
    let uf := if c = 0 then 1 else 0
    mul (.imdMul w32 g src) .mul (a * c) ∧
    mul (.imdMulh w32 g src) .mulh (((a.signExtend (2 * n) * c.signExtend (2 * n)) >>> n).setWidth n) ∧
    mul (.imdMulhu w32 g src) .mulhu (((a.setWidth (2 * n) * c.setWidth (2 * n)) >>> n).setWidth n) ∧
    div (.imdDiv w32 g src) .div (if c = 0 then -1 else if wrap then a else a.sdiv c) sf ∧
    div (.imdDivu w32 g src) .divu (if c = 0 then -1 else a / c) uf ∧
    div (.imdRem w32 g src) .rem (if c = 0 then a else if wrap then 0 else a.srem c) sf ∧
    div (.imdRemu w32 g src) .remu (if c = 0 then a else a % c) uf

/-- R193, R194: the loads of ks take the core store as it stands at the start of the cycle: ld the W bytes of the
partition's width at the aligned address, ldb one element replicated, ldx one element for each lane of max(e, 4) bytes
at the base plus that lane's offset, modulo 2^20 and aligned to e. A poisoned piece among the bytes gives a poisoned
result of cause 0x0C (R387). The bits above the poison word are zero by log 28. A poisoned input that an operation
uses poisons every latch of its result (R351, R352). -/
def Obligations.CoreStoreLoadResults : Prop :=
  ∀ (s : State) (k p : Nat) (g : Guard) (src : Src) (u : Bool) (w : IntW),
    let nm : UnitName := if u then .ks1 else .ks0
    let h := (s.core k).sh0
    let W := prtWidth p
    let e := wBits w / 8
    let A := max e 4
    let t := s.datum k p src nm % 2 ^ 20
    let offs := s.op1 k p nm
    let at' (l : Nat) : Nat := (t + offs / 2 ^ (8 * A * l) % 2 ^ 20) % 2 ^ 20 / e * e
    let y (bad : Bool) (x : Nat) : Yield :=
      if bad then { lat := 6, res := some (poisonWord 0x0C false false noIndex).toNat, psn := true } else .one 6 x
    Yields (.ksLd u g src) s k p g src (.ksLd u) (y (csPoisoned h (t / W * W) W) (csRead h (t / W * W) W)) ∧
    Yields (.ksLdb u w g src) s k p g src (.ksLdb u w)
      (y (csPoisoned h (t / e * e) e) ((List.range (W / e)).map fun i => csRead h (t / e * e) e * 2 ^ (8 * e * i)).sum) ∧
    Yields (.ksLdx u w g src) s k p g src (.ksLdx u w)
      (y ((List.range (W / A)).any fun l => csPoisoned h (at' l) e)
        ((List.range (W / A)).map fun l => csRead h (at' l) e * 2 ^ (8 * A * l)).sum)

/-- R193 to R195, R118: a store of ks writes the low W bytes of o1 at the aligned address, stx the low e bytes of
each lane of o1 at that lane's address, the highest lane winning a byte; no other byte of the core store changes,
slots with V = 1 and PIN = 0 that are written become dirty, and no other field of a tag that a program sees
changes. -/
def Obligations.CoreStoreStoreEffects : Prop :=
  ∀ (s : State) (k p : Nat) (g : Guard) (src : Src) (u : Bool) (w : IntW),
    let nm : UnitName := if u then .ks1 else .ks0
    let h := (s.core k).sh
    let W := prtWidth p
    let e := wBits w / 8
    let A := max e 4
    let t := s.datum k p src nm % 2 ^ 20
    let x := s.op1 k p nm
    let offs := s.op2 k p nm
    let a := t / W * W
    let lane' (l : Nat) : Nat := (t + offs / 2 ^ (8 * A * l) % 2 ^ 20) % 2 ^ 20 / e * e
    let hits (b : Nat) : List Nat := (List.range (W / A)).filter fun l => decide (lane' l ≤ b) && decide (b < lane' l + e)
    let done (i : Instr) (P : Shared → Prop) : Prop :=
      ∃ t, exec i s = .next t ∧ Advances ((s.core k).prt p) ((t.core k).prt p) 1 ∧ P (t.core k).sh ∧ SpaceKept h (t.core k).sh ∧
        t.mem = s.mem ∧ t.sched = s.sched
    let tagged (j : Shared) (sl : Nat) (b : Prop) [Decidable b] : Prop :=
      tagGet j.tags sl = if b then (tagGet h.tags sl).stored else tagGet h.tags sl
    (s.has k p = true → s.fires k p g src (.ksSt u) = true → done (.ksSt u g src) fun j =>
      (∀ b, Cells.byte j.cs b = if a ≤ b ∧ b < a + W then BitVec.ofNat 8 (x / 2 ^ (8 * (b - a))) else Cells.byte h.cs b) ∧
      (∀ sl, tagged j sl (a / 128 ≤ sl ∧ sl ≤ (a + W - 1) / 128))) ∧
    (s.has k p = true → s.fires k p g src (.ksStx u w) = true → done (.ksStx u w g src) fun j =>
      (∀ b, Cells.byte j.cs b = match (hits b).getLast? with
        | some l => BitVec.ofNat 8 (x / 2 ^ (8 * (A * l + (b - lane' l))))
        | none => Cells.byte h.cs b) ∧
      (∀ sl, tagged j sl (∃ l ∈ List.range (W / A), lane' l / 128 = sl)))

/-! ### Vector units -/

/-- R198: what every operation of va0 and va1 puts into each lane of res, 1 cycle later. A poisoned input that an
operation uses poisons every latch of its result (R351, R352). -/
def Obligations.VectorIntegerResults : Prop :=
  ∀ (s : State) (k p : Nat) (g : Guard) (src : Src) (u : Bool) (w : IntW),
    let n := wBits w
    let nm : UnitName := if u then .va1 else .va0
    let sat (x : Int) : BitVec n := BitVec.ofInt n (max (-(2 ^ (n - 1))) (min (2 ^ (n - 1) - 1) x))
    let go (i : Instr) (op : VaOp) (f : BitVec n → BitVec n → BitVec n → BitVec n) : Prop :=
      Yields i s k p g src (.va u op w) (.one 1 (fromLanes n (prtWidth p) fun l =>
        f (laneBv n (s.op1 k p nm) l) (laneBv n (s.op2 k p nm) l) (laneBv n (s.datum k p src nm) l)))
    go (.vaAdd u w g src) .add (fun a _ c => a + c) ∧ go (.vaSub u w g src) .sub (fun a _ c => a - c) ∧
    go (.vaMul u w g src) .mul (fun a _ c => a * c) ∧
    go (.vaMulh u w g src) .mulh (fun a _ c => ((a.signExtend (2 * n) * c.signExtend (2 * n)) >>> n).setWidth n) ∧
    go (.vaAnd u w g src) .and (fun a _ c => a &&& c) ∧ go (.vaOr u w g src) .or (fun a _ c => a ||| c) ∧
    go (.vaXor u w g src) .xor (fun a _ c => a ^^^ c) ∧ go (.vaAndn u w g src) .andn (fun a _ c => a &&& ~~~c) ∧
    go (.vaShl u w g src) .shl (fun a _ c => a <<< (c.toNat % n)) ∧ go (.vaShr u w g src) .shr (fun a _ c => a >>> (c.toNat % n)) ∧
    go (.vaSar u w g src) .sar (fun a _ c => a.sshiftRight (c.toNat % n)) ∧
    go (.vaMin u w g src) .min (fun a _ c => if a.slt c then a else c) ∧ go (.vaMax u w g src) .max (fun a _ c => if a.slt c then c else a) ∧
    go (.vaMinu u w g src) .minu (fun a _ c => if a.ult c then a else c) ∧ go (.vaMaxu u w g src) .maxu (fun a _ c => if a.ult c then c else a) ∧
    go (.vaAbs u w g src) .abs (fun _ _ c => if c.slt 0 then -c else c) ∧
    go (.vaSel u w g src) .sel (fun a b c => if c.getLsbD 0 then a else b) ∧ go (.vaPopc u w g src) .popc (fun _ _ c => c.cpop) ∧
    go (.vaClz u w g src) .clz (fun _ _ c => c.clz) ∧ go (.vaAdds u w g src) .adds (fun a _ c => sat (a.toInt + c.toInt)) ∧
    go (.vaSubs u w g src) .subs (fun a _ c => sat (a.toInt - c.toInt))

/-- R205, R206, R208: the permutes, integer reductions and scans of vp, and clmul. A poisoned input that an operation
uses poisons every latch of its result (R351, R352). -/
def Obligations.VectorPermuteResults : Prop :=
  ∀ (s : State) (k p : Nat) (g : Guard) (src : Src) (w : IntW),
    let n := wBits w
    let W := prtWidth p
    let m := 8 * W / n
    let o := s.op1 k p .vp
    let t := s.datum k p src .vp
    let a := laneBv n o
    let c := laneBv n t
    let half (x l : Nat) : BitVec n := if o / 2 % 2 = 1 then (laneBv (n / 2) x l).signExtend n else (laneBv (n / 2) x l).setWidth n
    let kept := ((List.range m).filter fun l => (c l).getLsbD 0).map a
    let go (i : Instr) (op : VpOp) (lat : Nat) (x : Nat) (x1 : Option Nat) : Prop :=
      Yields i s k p g src (.vp op w) { lat := lat, res := some x, res1 := x1 }
    let clm (i : Instr) (w32 : Bool) : Prop :=
      let b := dwBits w32
      let r (l : Nat) : BitVec (2 * b) := polyMul (laneBv b o l) (laneBv b t l)
      Yields i s k p g src (.vpClmul w32)
        { lat := 4, res := some (fromLanes b W fun l => (r l).setWidth b), res1 := some (fromLanes b W fun l => (r l >>> b).setWidth b) }
    go (.vpPerm w g src) .perm 2 (fromLanes n W fun l => a ((c l).toNat % m)) none ∧
    go (.vpBcast w g src) .bcast 2 (fromLanes n W fun _ => a ((c 0).toNat % m)) none ∧
    go (.vpRot w g src) .rot 2 (fromLanes n W fun l => a (((l : Int) - (c 0).toNat) % (m : Int)).toNat) none ∧
    go (.vpPack w g src) .pack 2
      (fromLanes n W fun l => if l < m / 2 then (laneBv (2 * n) o l).setWidth n else (laneBv (2 * n) t (l - m / 2)).setWidth n) none ∧
    go (.vpUnpk w g src) .unpk 2 (fromLanes n W fun l => half t (o % 2 * m + l)) none ∧
    go (.vpCmprs w g src) .cmprs 2 (fromLanes n W fun l => kept.getD l 0) (some kept.length) ∧
    go (.vpRedadd w g src) .redadd 6 ((List.range m).foldl (fun x l => x + c l) 0).toNat none ∧
    go (.vpRedmax w g src) .redmax 6 ((List.range m).foldl (fun x l => if x.slt (c l) then c l else x) (c 0)).toNat none ∧
    go (.vpRedmin w g src) .redmin 6 ((List.range m).foldl (fun x l => if (c l).slt x then c l else x) (c 0)).toNat none ∧
    go (.vpScan w g src) .scan 6 (fromLanes n W fun l => (List.range (l + 1)).foldl (fun x j => x + c j) 0) none ∧
    go (.vpXscan w g src) .xscan 6 (fromLanes n W fun l => (List.range (l + 1)).foldl (fun x j => x ^^^ c j) 0) none ∧
    clm (.vpClmul false g src) false ∧ clm (.vpClmul true g src) true

/-- R209 to R211: the comparisons of vc give all ones or zero in a lane, its votes and count one number, and class one
bit of ten in a lane. A poisoned input that an operation uses poisons every latch of its result (R351, R352). -/
def Obligations.VectorConditionResults : Prop :=
  ∀ (s : State) (k p : Nat) (g : Guard) (src : Src) (w : IntW) (f : FpF) (fc : FCond),
    let n := wBits w
    let W := prtWidth p
    let o := s.op1 k p .vc
    let t := s.datum k p src .vc
    let F := fFmt f
    let all (b : Bool) : BitVec n := if b then BitVec.allOnes n else 0
    let go (cd : Cond) (r : BitVec n → BitVec n → Bool) : Prop :=
      Yields (.vcCmp cd w g src) s k p g src (.vcCmp cd w) (.one 1 (fromLanes n W fun l => all (r (laneBv n o l) (laneBv n t l))))
    let y := fromCodes F.bits W fun l =>
      let r := fcompare fc (F.unpack (lane F.bits o l)) (F.unpack (lane F.bits t l))
      (if r.1 then 2 ^ F.bits - 1 else 0, r.2)
    go .eq (fun a c => a == c) ∧ go .ne (fun a c => a != c) ∧ go .lt BitVec.slt ∧ go .le BitVec.sle ∧ go .gt (fun a c => c.slt a) ∧
    go .ge (fun a c => c.sle a) ∧ go .ltu BitVec.ult ∧ go .leu BitVec.ule ∧ go .gtu (fun a c => c.ult a) ∧ go .geu (fun a c => c.ule a) ∧
    Yields (.vcFcmp fc f g src) s k p g src (.vcFcmp fc f) { lat := 1, res := some y.1, fl := y.2 } ∧
    Yields (.vcAny g src) s k p g src (.vcVote .any) (.one 1 (if BitVec.ofNat (8 * W) t = 0 then 0 else 1)) ∧
    Yields (.vcAll g src) s k p g src (.vcVote .all) (.one 1 (if BitVec.ofNat (8 * W) t = BitVec.allOnes (8 * W) then 1 else 0)) ∧
    Yields (.vcCnt g src) s k p g src (.vcVote .cnt) (.one 1 (BitVec.ofNat (8 * W) t).cpop.toNat) ∧
    Yields (.vcClass f g src) s k p g src (.vcClass f)
      (.one 1 (fromLanes F.bits W fun l => BitVec.twoPow F.bits (classBit F (lane F.bits t l))))

/-! ### Floating point -/

/-- R199 to R201, R207: vf, fs and the floating reductions of vp compute the exact result of each element and round it
once in the mode that RC selects; flags are the OR over the elements. A poisoned input that an operation uses poisons
every latch of its result (R351, R352). -/
def Obligations.FloatArithmeticResults : Prop :=
  ∀ (s : State) (k p : Nat) (g : Guard) (src : Src) (u : Bool) (rc : Rc) (f : FpF),
    let F := fFmt f
    let W := prtWidth p
    let q := (s.core k).prt p
    let md := q.rcMode rc
    let nm : UnitName := if u then .vf1 else .vf0
    let v (x l : Nat) : FNum := F.unpack (lane F.bits x l)
    let vec (i : Instr) (op : VfOp) (e : Nat → Nat × FFlags) : Prop :=
      let r := fromCodes F.bits W e
      Yields i s k p g src (.vf u op rc f) { lat := 4, res := some r.1, fl := r.2 }
    let a := v (s.op1 k p nm)
    let b := v (s.op2 k p nm)
    let c := v (s.datum k p src nm)
    let ca := lane F.bits (s.op1 k p nm)
    let cc := lane F.bits (s.datum k p src nm)
    let sgn := 2 ^ (F.bits - 1)
    let sca (i : Instr) (op : FsOp) (r : Nat × FFlags) : Prop :=
      Yields i s k p g src (.fs op rc f) { lat := 4, res := some r.1, fl := r.2 }
    let x := v (s.op1 k p .fs) 0
    let y := v (s.op2 k p .fs) 0
    let z := v (s.datum k p src .fs) 0
    let red (i : Instr) (op : VpFOp) (o : Nat → Nat → Nat × FFlags) : Prop :=
      let r := treeAt o (lane F.bits (s.datum k p src .vp)) (Nat.log2 (8 * W / F.bits)) 0
      Yields i s k p g src (.vpF op f) { lat := 6, res := some r.1, fl := r.2 }
    vec (.vfAdd u rc f g src) .add (fun l => F.pack md (addExact md (a l) (c l))) ∧
    vec (.vfSub u rc f g src) .sub (fun l => F.pack md (addExact md (a l) (c l).negate)) ∧
    vec (.vfMul u rc f g src) .mul (fun l => F.pack md (mulExact (a l) (c l))) ∧
    vec (.vfFma u rc f g src) .fma (fun l => F.pack md (fmaExact md (a l) (b l) (c l))) ∧
    vec (.vfNma u rc f g src) .nma (fun l => F.pack md (fmaExact md (a l).negate (b l) (c l))) ∧
    vec (.vfMin u rc f g src) .min (fun l => fminmax F false (ca l) (cc l)) ∧
    vec (.vfMax u rc f g src) .max (fun l => fminmax F true (ca l) (cc l)) ∧
    vec (.vfAbs u rc f g src) .abs (fun l => if (c l).isNan then (F.nan, flagIf (c l).isSig fNV) else (cc l % sgn, 0)) ∧
    vec (.vfNeg u rc f g src) .neg (fun l => if (c l).isNan then (F.nan, flagIf (c l).isSig fNV) else (cc l ^^^ sgn, 0)) ∧
    vec (.vfRnd u rc f g src) .rnd (fun l => rndIntegral F md (cc l)) ∧
    sca (.fsAdd rc f g src) .add (F.pack md (addExact md x z)) ∧ sca (.fsSub rc f g src) .sub (F.pack md (addExact md x z.negate)) ∧
    sca (.fsMul rc f g src) .mul (F.pack md (mulExact x z)) ∧ sca (.fsFma rc f g src) .fma (F.pack md (fmaExact md x y z)) ∧
    sca (.fsMin rc f g src) .min (fminmax F false (lane F.bits (s.op1 k p .fs) 0) (lane F.bits (s.datum k p src .fs) 0)) ∧
    sca (.fsMax rc f g src) .max (fminmax F true (lane F.bits (s.op1 k p .fs) 0) (lane F.bits (s.datum k p src .fs) 0)) ∧
    (∀ cd : FsCond,
      let r := fcompare (fsCondOf cd) x z
      Yields (.fsFcmp cd rc f g src) s k p g src (.fsCmp cd rc f) { lat := 4, res := some r.1.toNat, fl := r.2 }) ∧
    red (.vpFredadd f g src) .redadd (fun x y => F.pack q.rm (addExact q.rm (F.unpack x) (F.unpack y))) ∧
    red (.vpFredmax f g src) .redmax (fminmax F true) ∧ red (.vpFredmin f g src) .redmin (fminmax F false)

/-- R202 to R204, R212: conversions, vx and fd compute each element exactly and round it once; division and the roots
take 14 cycles, the other functions of vx 8, and fd writes flag 1 where t is zero, negative or a NaN. The sines,
cosines, powers and logarithms are those of the evaluation of log 21. A poisoned input that an operation uses poisons
every latch of its result (R351, R352). -/
def Obligations.FloatFunctionResults : Prop :=
  ∀ (s : State) (k p : Nat) (g : Guard) (src : Src) (u : Bool) (rc : Rc) (f : FpF) (d sf : CvtF) (sat : Bool) (r : CvtRnd),
    let F := fFmt f
    let W := prtWidth p
    let q := (s.core k).prt p
    let md := q.rcMode rc
    let vf : UnitName := if u then .vf1 else .vf0
    let t := s.datum k p src vf
    let m := 8 * W / max (cvtBits sf) (cvtBits d)
    let cv := (List.range m).map fun l => cvtElem d sf sat (q.cvtMode r) (lane (cvtBits sf) t l)
    let e8 := (List.range (8 * W / F.bits)).map fun l => toE8m0 (F.unpack (lane F.bits t l))
    let one := cvtElem d sf sat (q.cvtMode r) (lane (cvtBits sf) (s.datum k p src .fs) 0)
    let a (l : Nat) : FNum := F.unpack (lane F.bits (s.op1 k p .vx) l)
    let c (l : Nat) : FNum := F.unpack (lane F.bits (s.datum k p src .vx) l)
    let vx (i : Instr) (op : VxOp) (lat : Nat) (x : Nat → Exact) : Prop :=
      let y := fromCodes F.bits W fun l => F.pack md (x l)
      Yields i s k p g src (.vx op rc f) { lat := lat, res := some y.1, fl := y.2 }
    let sn := fromCodes F.bits W fun l => F.pack md (sincosExact false (c l))
    let cs := fromCodes F.bits W fun l => F.pack md (sincosExact true (c l))
    let dt := s.datum k p src .fd % 2 ^ 32
    let z := fp32.unpack dt
    let bad := (match z with | .nan _ => true | .inf n => n | .fin n m _ => n || m == 0).toNat
    let fd (i : Instr) (op : FdOp) (x : Exact) : Prop :=
      let y := fp32.pack md x
      Yields i s k p g src (.fd op rc) { lat := 14, res := some y.1, flag := some bad, fl := y.2 }
    Yields (.vfCvt u d sf sat r g src) s k p g src (.vfCvt u d sf sat r)
      { lat := 4, res := some (ofLanes (cvtBits d) (cv.map Prod.fst)), fl := (cv.map Prod.snd).foldl (· ||| ·) 0 } ∧
    Yields (.vfCvtE8m0 u rc f g src) s k p g src (.vfToE8m0 u rc f)
      { lat := 4, res := some (ofLanes 8 (e8.map Prod.fst)), fl := (e8.map Prod.snd).foldl (· ||| ·) 0 } ∧
    Yields (.vfCvtF32E8m0 u rc g src) s k p g src (.vfFromE8m0 u rc)
      (.one 4 (ofLanes 32 ((List.range (W / 4)).map fun l => fromE8m0 (lane 8 t l)))) ∧
    Yields (.fsCvt d sf sat r g src) s k p g src (.fsCvt d sf sat r) { lat := 4, res := some one.1, fl := one.2 } ∧
    vx (.vxExp2 rc f g src) .exp2 8 (fun l => exp2Exact (c l)) ∧ vx (.vxLog2 rc f g src) .log2 8 (fun l => log2Exact (c l)) ∧
    vx (.vxRcp rc f g src) .rcp 8 (fun l => divExact (.fin false 1 0) (c l)) ∧ vx (.vxRsqrt rc f g src) .rsqrt 8 (fun l => rsqrtExact (c l)) ∧
    vx (.vxDiv rc f g src) .div 14 (fun l => divExact (a l) (c l)) ∧ vx (.vxSqrt rc f g src) .sqrt 14 (fun l => sqrtExact (c l)) ∧
    Yields (.vxSincos rc f g src) s k p g src (.vx .sincos rc f) { lat := 8, res := some sn.1, res1 := some cs.1, fl := sn.2 ||| cs.2 } ∧
    fd (.fdDiv rc g src) .div (divExact (fp32.unpack (s.op1 k p .fd % 2 ^ 32)) z) ∧ fd (.fdSqrt rc g src) .sqrt (sqrtExact z) ∧
    fd (.fdRsqrt rc g src) .rsqrt (rsqrtExact z)

/-! ### Matrix, key-value and pixel units -/

/-- R96, R97, R228, R232 to R237, R352: mma, mmt and mad sample CFG, the active plane and the macro's operands, land
W_A + 10 cycles later, and begin an interval of W_A; mad adds the term of its row's adapter, when that is valid; bsw
begins an interval too and changes planes at once; mcfg writes CFG, whose bits 15 to 10 stay zero; bld reads its 32
rows at the start of the cycle and lands in the plane that is then the shadow, W_A + 10 later, with an interval of 8.
A poisoned input that is used, a poisoned block of the plane and a poisoned piece of the adapter poison all three
latches; a poisoned input of a bld poisons its block. In a pair of float formats an output is one aligned pass: the eight
partials, summed in the tree and then to the accumulator, or a fill where the masks of CFG and MXPAD or the diagonal of
mmt say so; its flags are OF and NV, and flag tells TIDX, OF, NV and a masked row. That a NaN in a masked element makes
its block invalid is log 30. -/
def Obligations.MacroTriggerEffects : Prop :=
  ∀ (s : State) (k p : Nat) (g : Guard) (src : Src) (m : BitVec 3) (z : Bool),
    let e0 := s.env k p
    let h := (s.core k).sh0
    let c := h.cim m
    let wa := mxWa (cfgAfmt c.cfg)
    let x := s.datum k p src .mx
    let r := s.ports k p .mx
    let go (i : Instr) (t : Trigger) (f : Env → Env) : Prop := s.macroFires k p g src t = true → exec i s = .next (s.afterMove k p src f)
    let bad (i : Instr) (t : Trigger) (f : Word → Env → Env) : Prop := ∀ w, s.placed k p g src (.trig t) = true → e0.reservedUse t = false →
      e0.mxRefuses t = false → s.poisonIn k p src t = some w → exec i s = .next (s.afterMove k p src (f w))
    let comp (op : MxOp) : Env → Env := fun e => ((e.interval m wa).used m).launch .mx m (e0.mxResult op m z x r)
    let dead (w : Word) : Yield := { lat := wa + 10, res := some w.toNat, res1 := some w.toNat, flag := some w.toNat, psn := true }
    let dies : Word → Env → Env := fun w e => ((e.interval m wa).used m).launch .mx m (dead w)
    let b := bldBlock (cfgBfmt c.cfg) x r.o1.bits.toNat r.o2.bits.toNat h
    let load (psn : Bool) : Env → Env := fun e =>
      ((e.modSh fun h => h.modCim m fun y => { y with bivl := ⟨true, 8, e.p⟩ }).launch .mx m
        { lat := wa + 10, eff := .bld (!c.act) (bldJ r.o1.bits.toNat) (BitVec.ofNat 4 (cfgBfmt c.cfg)) b.1 b.2.1 psn }).used m
    let pblk := c.pblk.toNat / (if c.act then 256 else 1) % 256
    let gives (op : MxOp) (ad : Option (Nat → Nat × FFlags)) : Prop :=
      let y := mxCompute ⟨op, z, c.cfg, c.plane c.act, ((s.core k).prt p).mxpad, x, r.o1.bits.toNat, r.o2.bits.toNat, r.o3.bits.toNat,
        (BitVec.ofNat 32 (fld c.cfg 32 32)).toInt, fld c.cfg 16 16, ad⟩
      e0.mxResult op m z x r = { lat := wa + 10, res := some y.res, res1 := some y.res1, flag := some y.flag, fl := y.fl }
    let lost (op : MxOp) (cause : Nat) : Prop := e0.mxResult op m z x r = dead (at' 56 cause ||| bitAt 54 true ||| at' 0 0xFFFFFFFF)
    let ma := r.o2.bits.toNat / 128 % 8192 * 128 + 4 * (x / 2 ^ 8148 % 4096)
    let ent := csRead h ma 4
    let rank := min (ent / 2 ^ 24 % 128) 64
    let up (j : Nat) : Nat := ent % 2 ^ 20 / 128 * 128 + 512 * j
    (e0.mxResult .mma m z x r).lat = wa + 10 ∧ (e0.mxResult .mmt m z x r).lat = wa + 10 ∧ (e0.mxResult .mad m z x r).lat = wa + 10 ∧
    go (.mxMma m z g src) (.mxComp .mma m z) (comp .mma) ∧ go (.mxMmt m z g src) (.mxComp .mmt m z) (comp .mmt) ∧
    go (.mxMad m z g src) (.mxComp .mad m z) (comp .mad) ∧
    go (.mxBsw m g src) (.mxBsw m) (fun e => ((e.interval m wa).modSh fun h => h.modCim m fun y => { y with act := !c.act }).used m) ∧
    go (.mxMcfg m g src) (.mxMcfg m) (fun e => (e.modSh fun h => h.modCim m fun y => { y with cfg := BitVec.ofNat 64 x &&& 0xFFFFFFFFFFFF03FF#64 }).used m) ∧
    go (.mxBld m g src) (.mxBld m) (load b.2.2) ∧
    bad (.mxMma m z g src) (.mxComp .mma m z) dies ∧ bad (.mxMmt m z g src) (.mxComp .mmt m z) dies ∧
    bad (.mxMad m z g src) (.mxComp .mad m z) dies ∧ bad (.mxBld m g src) (.mxBld m) (fun _ => load true) ∧
    (pblk ≠ 0 → ∀ op, lost op 0x41) ∧
    (pblk = 0 → gives .mma none ∧ gives .mmt none ∧
      (csPoisoned h ma 4 = true → lost .mad 0x0C) ∧
      (csPoisoned h ma 4 = false →
        ((ent / 2 ^ 31 = 0 ∨ rank = 0) → gives .mad none) ∧
        (ent / 2 ^ 31 ≠ 0 → rank ≠ 0 →
          ((∃ j < rank, csPoisoned h (up j) 512 = true) → lost .mad 0x0C) ∧
          ((∀ j < rank, csPoisoned h (up j) 512 = false) → gives .mad (some fun n => fp32.pack 0 (sumNum 0 ((List.range rank).map fun j =>
            mulNum (fp32.unpack (lane 32 (x / 2 ^ 4096) j)) (bf16.unpack (lane 16 (csRead h (up j) 512) n))))))))) ∧
    ∀ i : MxIn, mxInteger (cfgAfmt i.cfg) = false → mxInteger i.plane.fmt.toNat = false →
      let f := cfgAfmt i.cfg
      let W : Int := mxWa f
      let wb := mxBits i.plane.fmt.toNat
      let cb := mxCb i.plane.fmt.toNat
      let tidx := i.t / 2 ^ 8160 % 2 ^ 32
      let msk : Bool := i.t / 2 ^ 8128 % 2 == 1
      let past (a : Nat) : Bool := i.mxpad.getLsbD 32 && decide (fld i.mxpad 0 32 ≤ a)
      let rowm : Bool := fld i.cfg 8 2 == 1 && (msk || past tidx)
      let colm (n : Nat) : Bool := fld i.cfg 8 2 == 3 && past (tidx + n)
      let elm (e : Nat) : Bool := fld i.cfg 8 2 == 2 && (msk || past (tidx + e))
      let above (n : Nat) : Bool := i.op == .mmt && decide ((tidx : Int) + i.diag < (n : Int))
      let v (e : Nat) : FNum := mxElem f (lane (mxBits f) i.t e)
      let logs (b : Nat) : List Int := (List.range 32).filterMap fun e => if elm (32 * b + e) then none else (v (32 * b + e)).log2
      let emax (b : Nat) : Int := (logs b).tail.foldl max ((logs b).headD 0)
      let sx (b : Nat) : Int := if mxScaled f then (lane 8 i.o3 b : Int) - 127 else 0
      let inval (b : Nat) : Bool := (mxScaled f && lane 8 i.o3 b == 255) ||
        (List.range 32).any fun e => match v (32 * b + e) with | .fin _ _ _ => false | _ => true
      let qa (b e : Nat) : Int := if elm (32 * b + e) then 0 else rneInt ((v (32 * b + e)).scale (W - 2 - emax b))
      let eqb (b n : Nat) : BitVec 16 := BitVec.ofNat 16 (Cells.nat i.plane.eq (2 * (512 * b + n)) 2)
      let qb (b e n : Nat) : Int := (laneBv wb (Cells.nat i.plane.cells (256 * (32 * b + e)) 256) n).toInt
      let on : FFlags := fOF ||| fNV
      let part (n b : Nat) : Nat × FFlags :=
        if inval b || eqb b n == 0x8000 then (fp32.nan, fNV)
        else
          let S : Int := ((List.range 32).map fun e => qa b e * qb b e n).sum
          let y := fp32.pack 0 (.num (decide (S < 0)) S.natAbs (sx b + emax b - (W - 2) + (eqb b n).toInt) false)
          (y.1, y.2 &&& on)
      let add (a b : Nat × FFlags) : Nat × FFlags :=
        let y := fp32.pack 0 (addExact 0 (fp32.unpack a.1) (fp32.unpack b.1))
        (y.1, a.2 ||| b.2 ||| (y.2 &&& on))
      let acc (n : Nat) : Nat := if i.z then 0 else if n < 256 then lane 32 i.o1 n else lane 32 i.o2 (n - 256)
      let pass (n : Nat) : Nat × FFlags :=
        add (acc n, 0) (add (add (add (part n 0) (part n 1)) (add (part n 2) (part n 3))) (add (add (part n 4) (part n 5)) (add (part n 6) (part n 7))))
      let val (n : Nat) : Nat × FFlags := match i.ad with
        | none => pass n
        | some ad => add (pass n) ((ad n).1, (ad n).2 &&& on)
      let fill (y : Nat) : Nat := if 0x7F80 < y % 2 ^ 15 then 0x7FC00000 else y % 65536 * 65536
      let out (n : Nat) : Nat × FFlags :=
        if rowm || colm n then (fill (fld i.mxpad 48 16), 0) else if above n then (fill i.tfill, 0) else val n
      let y := mxCompute i
      let fl := (List.range cb).foldl (fun a n => a ||| (out n).2) 0
      (∀ n < 512, lane 32 (if n < 256 then y.res else y.res1) (n % 256) = if n < cb then (out n).1 % 2 ^ 32 else 0) ∧ y.fl = fl ∧
        y.flag = tidx * 2 ^ 32 + (if fl &&& fOF = 0 then 0 else 4) + (if fl &&& fNV = 0 then 0 else 2) + rowm.toNat

/-- R98, R234, R235: in a pair of integer formats, output n of a compute trigger is the accumulator, or 0 for .z, plus
the sum over the elements of the A row that no mask excludes of each times the cell of its row in column n, modulo 2^32;
where the row or the column is masked, or mmt stands above its diagonal, it is -2^31. No flag is raised, lanes from C_B on
are zero, and flag tells TIDX and a masked row. -/
def Obligations.IntegerMatrixSum : Prop :=
  ∀ (i : MxIn) (n : Nat), mxInteger (cfgAfmt i.cfg) = true → mxInteger i.plane.fmt.toNat = true → n < 512 →
      let tidx := i.t / 2 ^ 8160 % 2 ^ 32
      let msk : Bool := i.t / 2 ^ 8128 % 2 == 1
      let past (a : Nat) : Bool := i.mxpad.getLsbD 32 && decide (fld i.mxpad 0 32 ≤ a)
      let rowm : Bool := fld i.cfg 8 2 == 1 && (msk || past tidx)
      let colm : Bool := fld i.cfg 8 2 == 3 && past (tidx + n)
      let elm (e : Nat) : Bool := fld i.cfg 8 2 == 2 && (msk || past (tidx + e))
      let above : Bool := i.op == .mmt && decide ((tidx : Int) + i.diag < (n : Int))
      let a (j : Nat) : Int := let w := mxBits (cfgAfmt i.cfg); if elm j then 0 else (laneBv w i.t j).toInt
      let b (j : Nat) : Int := let w := mxBits i.plane.fmt.toNat; (laneBv w (Cells.nat i.plane.cells (256 * j) 256) n).toInt
      let acc := if i.z then 0 else if n < 256 then lane 32 i.o1 n else lane 32 i.o2 (n - 256)
      let out := mxCompute i
      lane 32 (if n < 256 then out.res else out.res1) (n % 256) =
        (if mxCb i.plane.fmt.toNat ≤ n then 0 else if rowm || colm || above then 2 ^ 31 else
          (BitVec.ofNat 32 acc + BitVec.ofInt 32 ((List.range 256).map fun j => a j * b j).sum).toNat) ∧
        out.fl = 0 ∧ out.flag = tidx * 2 ^ 32 + rowm.toNat

/-- R238 to R244: kv and px put their results in flight: loads of one row after 24 cycles, kvap with its key and value
rows to write at landing and none of them when its descriptor is malformed, kvfrq with 512 bytes of the core store for
its table, csc and pack after 6. A kvfrq that would read a poisoned piece traps with POISON and a poison word of cause
0x0C instead (R387); its INFO2 is log 117. A scale code of 0xFF goes through the formula by log 64. A poisoned input
of a load, csc or pack poisons its result (R351, R352). -/
def Obligations.KeyValuePixelResults : Prop :=
  ∀ (s : State) (k p : Nat) (g : Guard) (src : Src) (d : KvD) (n : BitVec 2) (p10 : Bool),
    let q := (s.core k).prt p
    let h := (s.core k).sh0
    let x := s.datum k p src .kv
    let a := s.op1 k p .kv
    let b := s.op2 k p .kv
    let y := s.datum k p src .px
    let ld (key : Bool) : Yield :=
      let o := kvLoad key d h q.freq q.kvpos q.kvpad x a b
      { lat := 24, res := some o.res, fl := o.fl, psn := o.psn }
    let m (i : Nat) : FNum := fp32.unpack (lane 32 (s.op1 k p .px / 2 ^ (512 * n.toNat)) i)
    let v (i j : Nat) : FNum := fp32.unpack (lane 32 y (3 * i + j))
    let px := (List.range 192).map fun i =>
      fp32.pack 0 (sumNum 0 [mulNum (m (3 * (i % 3))) (v (i / 3) 0), mulNum (m (3 * (i % 3) + 1)) (v (i / 3) 1),
        mulNum (m (3 * (i % 3) + 2)) (v (i / 3) 2), some (m (9 + i % 3))])
    let hi : Nat := if p10 then 1023 else 255
    let sample (w : Nat) : Nat := match fp32.unpack w with
      | .nan _ => 0
      | .inf neg => if neg then 0 else hi
      | u => (max 0 (min (hi : Int) (rneInt u))).toNat
    Yields (.kvKvk d g src) s k p g src (.kvLoad true d) (ld true) ∧ Yields (.kvKvv d g src) s k p g src (.kvLoad false d) (ld false) ∧
    (∀ o, kvAppend q.rm x a b = some o →
      Yields (.kvKvap g src) s k p g src .kvAp { lat := 24, res := some o.res, fl := o.fl, eff := .kvap o.ka o.va o.key o.val }) ∧
    (kvAppend q.rm x a b = none →
      Yields (.kvKvap g src) s k p g src .kvAp { lat := 24, res := some (poisonWord 0x21 false false noIndex).toNat, psn := true }) ∧
    (csPoisoned h (kvFreqAddr x) 512 = false →
      Yields (.kvKvfrq n g src) s k p g src (.kvFrq n) { lat := 24, eff := .kvfrq n (natBytes 512 (csRead h (kvFreqAddr x) 512)) }) ∧
    (csPoisoned h (kvFreqAddr x) 512 = true → s.fires k p g src (.kvFrq n) = true →
      exec (.kvKvfrq n g src) s = .next (s.trapped k p 0x02 (poisonWord 0x0C false false noIndex) 0)) ∧
    Yields (.pxCsc n g src) s k p g src (.pxCsc n)
      { lat := 6, res := some (ofLanes 32 (px.map Prod.fst)), fl := (px.map Prod.snd).foldl (· ||| ·) 0 } ∧
    Yields (.pxPack p10 g src) s k p g src (.pxPack p10)
      (.one 6 (ofLanes (if p10 then 16 else 8) ((List.range 256).map fun i => sample (lane 32 y i))))

/-! ### Memory and tags -/

/-- R103, R214 to R220, R242, R343: a trigger of gm or rw whose address the FTB translates enters its access into the
partition's queues, in order, at the address cleared to its size, with o1, o2 and the modifier as it samples
them; every form but a store has a scoreboarded result in flight, due 40 cycles later at the earliest. A load,
atomic or walk whose translation faults enters with the fault, which it meets when it is performed; a store whose
translation faults traps with STFAULT, its address and the status, and nothing enters. -/
def Obligations.MemoryAccessIssues : Prop :=
  ∀ (s : State) (k p : Nat) (g : Guard) (src : Src) (u w32 pref : Bool) (z : GmZ) (zs : GmS),
    let c := s.core k
    let q := c.prt p
    let go (i : Instr) (t : Trigger) (kind : MemKind) (acc : AccKind) (size : Nat) : Prop :=
      let x := s.datum k p src t.unit
      let walk := t.unit = .rw
      let va : Addr := BitVec.ofNat 48 (if walk then s.op1 k p t.unit else x % 2 ^ 48 / size * size)
      let o (ia : Addr) (l1p : BitVec 2) (fault : BitVec 8) : MemOp :=
        { id := c.seq, kind := kind, unit := t.unit, opc := t.opcode, md := t.modifier, nib := x.testBit 48, va := va, ia := ia,
          size := size, fault := fault, a := (s.ports k p t.unit).o1.bits,
          b := BitVec.ofNat 64 (if walk then x else s.op2 k p t.unit), l1p := l1p, held := false, sec := q.secNo - 1,
          mesh := false, seen := false }
      s.fires k p g src t = true → c.isLocked p = false →
      (kind ≠ .store → (q.fly.filter fun y => y.unit == t.unit && y.sb).length < if walk then 40 else 64) →
        (∀ ia l1p, c.translateBy c.sh0.ftb p va acc = .ok ia l1p → exec i s = .next (s.afterMove k p src fun e => e.withAccess (o ia l1p 0))) ∧
        (kind ≠ .store → ∀ st, c.translateBy c.sh0.ftb p va acc = .fault st → exec i s = .next (s.afterMove k p src fun e => e.withAccess (o 0 0 st))) ∧
        (kind = .store → ∀ st, c.translateBy c.sh0.ftb p va acc = .fault st →
          exec i s = .next (s.trapped k p 0x03 (va.setWidth 64) (st.setWidth 64)))
    let amo (i : Instr) (op : AmoOp) : Prop := go i (.gmAmo u op w32) .amo .at (if w32 then 4 else 8)
    let big := match z with | .w => 4 | .d => 8 | .q => 16 | .l => 128
    let small := match zs with | .n => 1 | .b => 1 | .h => 2
    go (.gmLd u z g src) (.gmLd u false z) (.load false) .rd big ∧ go (.gmLdS u z g src) (.gmLd u true z) (.load true) .rd big ∧
    go (.gmSt u z g src) (.gmSt u z) .store .wr big ∧ go (.gmStSm u zs g src) (.gmStSm u zs) .store .wr small ∧
    go (.gmLdSm u zs g src) (.gmLdSm u false zs) (.load false) .rd small ∧
    go (.gmLdSmS u zs g src) (.gmLdSm u true zs) (.load true) .rd small ∧
    amo (.gmAmoAdd u w32 g src) .add ∧ amo (.gmAmoAnd u w32 g src) .and ∧ amo (.gmAmoOr u w32 g src) .or ∧ amo (.gmAmoXor u w32 g src) .xor ∧
    amo (.gmAmoMin u w32 g src) .min ∧ amo (.gmAmoMax u w32 g src) .max ∧ amo (.gmAmoMinu u w32 g src) .minu ∧
    amo (.gmAmoMaxu u w32 g src) .maxu ∧ amo (.gmAmoSwap u w32 g src) .swap ∧ amo (.gmAmoCas u w32 g src) .cas ∧
    go (.gmAmoFadd u g src) (.gmAmoFadd u) .amo .at 4 ∧ go (.gmAmoNib u g src) (.gmAmoNib u) .amo .at 1 ∧
    go (.rwWalk g src) (.rwWalk false) (.walk false) .rd 16 ∧ go (.rwWalkp g src) (.rwWalk true) (.walk true) .rd 16 ∧
    (s.fires k p g src (.gmPref u) = true → c.isLocked p = false →
      let va : Addr := BitVec.ofNat 48 (s.datum k p src (if u then .gm1 else .gm0))
      (∀ ia l1p, c.translateBy c.sh0.ftb p va .rd = .ok ia l1p →
        exec (.gmPref u g src) s = .next (s.afterMove k p src fun e => { e with core := { e.core with prefs := e.core.prefs ++ [(ia, l1p)] } })) ∧
      (∀ st, c.translateBy c.sh0.ftb p va .rd = .fault st →
        exec (.gmPref u g src) s = .next (s.afterMove k p src fun e => { e with core := e.core.endRefill e.p })))

/-- R222 to R224: look puts what it finds of a VA in the tags into res after 4 cycles; pin, unpin, inval and setag
on a slot that is not busy are carried out on its tag at the end of the ACLK. -/
def Obligations.TagOperationEffects : Prop :=
  ∀ (s : State) (k p : Nat) (g : Guard) (src : Src),
    let c := s.core k
    let x := s.datum k p src .tg
    let slot := x % 8192
    let go (i : Instr) (op : TgOp) : Prop :=
      s.fires k p g src (.tg op) = true → (tagGet c.sh0.tags slot).busy = false →
        exec i s = .next (s.afterMove k p src fun e =>
          { e with core := { e.core with tagWrs := e.core.tagWrs ++ [⟨slot, op, BitVec.ofNat 64 (s.op1 k p .tg)⟩] } })
    let d (t : TagEntry) (op : TgOp) (y : Word) : TagEntry := t.apply op y
    (s.fires k p g src (.tg .look) = true →
      exec (.tgLook g src) s = .next (s.afterMove k p src fun e => e.launch .tg 0 (.one 4 (tgLook c.sh0 (BitVec.ofNat 48 x))))) ∧
    go (.tgPin g src) .pin ∧ go (.tgUnpin g src) .unpin ∧ go (.tgInval g src) .inval ∧ go (.tgSetag g src) .setag ∧
    (∀ (t : TagEntry) (y : Word),
      d t .pin y = { t with v := true, pin := true, dirty := false, tag := 0 } ∧
      d t .unpin y = (if t.pin then { t with v := false, pin := false } else t) ∧
      d t .inval y = { t with v := false, pin := false, dirty := false } ∧
      d t .setag y = { t with v := true, pin := false, dirty := y.getLsbD 61, tag := y.extractLsb' 16 32 }) ∧
    (∀ (w : TagWr) (sl : Nat), c.tagWrs = [w] → tagGet c.applyTags.sh.tags sl =
      (if sl = w.slot then (tagGet c.sh.tags sl).apply w.op w.entry else tagGet c.sh.tags sl)) 

/-! ### Control, loops and synchronisation -/

/-- R173 to R178: tgt writes a target register; jmp, call, ret and bkt start a transfer to their target, of which
three delay cycles are left when the cycle ends; call pushes t[14:2] and ret pops, a full or empty stack through
the entry of the spill area; bkt writes the padding registers of its bucket, at the end of the ACLK in every partition of
the core, where MXPAD keeps its FILL (R135; over what the ACLK writes there itself by log 141), and keeps a target that
lies beyond every store, where a header is a FETCH trap (R375, R378); trap is taken at the next group. -/
def Obligations.BranchEffects : Prop :=
  ∀ (s : State) (k p : Nat) (g : Guard) (src : Src) (n : BitVec 2),
    let c := s.core k
    let q := c.prt p
    let x := s.datum k p src .br
    let o := s.op1 k p .br
    let tgt := q.bt.getD n.toNat 0
    let push : BitVec 15 := BitVec.ofNat 15 (x / 4 % 8192 * 4)
    let done (i : Instr) (P : Partition → Core → Prop) : Prop :=
      ∃ t, exec i s = .next t ∧ P ((t.core k).prt p) (t.core k) ∧ Advances q ((t.core k).prt p) 1
    (s.calm k p g src (.brTgt n) = true → done (.brTgt n g src) fun r _ => r.bt = q.bt.set n.toNat (BitVec.ofNat 13 (x / 4)) ∧ r.transfer = none) ∧
    (s.calm k p g src (.brJmp n) = true → done (.brJmp n g src) fun r _ => r.transfer = some ⟨tgt, 3⟩ ∧ r.stack = q.stack) ∧
    (s.calm k p g src (.brCall n) = true → q.stack.length < 16 →
      done (.brCall n g src) fun r _ => r.transfer = some ⟨tgt, 3⟩ ∧ r.stack = q.stack ++ [push]) ∧
    (s.calm k p g src (.brCall n) = true → 16 ≤ q.stack.length → q.spill = .donePush →
      done (.brCall n g src) fun r _ => r.transfer = some ⟨tgt, 3⟩ ∧ r.stack = q.stack.drop 1 ++ [push] ∧ r.spill = .idle) ∧
    (∀ st y, s.calm k p g src .brRet = true → q.stack = st ++ [y] →
      done (.brRet g src) fun r _ => r.transfer = some ⟨y.extractLsb' 2 13, 3⟩ ∧ r.stack = st) ∧
    (∀ y, s.calm k p g src .brRet = true → q.stack = [] → q.spill = .donePop y →
      done (.brRet g src) fun r _ => r.transfer = some ⟨y.extractLsb' 2 13, 3⟩ ∧ r.stack = [] ∧ r.spill = .idle) ∧
    (∀ b, s.calm k p g src .brBkt = true → pickBucket q (o / 4 % 8192) (x % 2 ^ 32) = some b →
      let lim : Word := at' 0 (x % 2 ^ 32) ||| at' 32 1
      done (.brBkt g src) fun r c => r.transfer = some ⟨BitVec.ofNat 13 b.target, 3⟩ ∧
        r.far = (if 8192 ≤ b.target then some (BitVec.ofNat 16 b.target) else none) ∧
        c.bktWr = some (at' 32 b.bound ||| at' 0 (x % 2 ^ 32), lim, lim)) ∧
    (s.calm k p g src .brTrap = true → done (.brTrap g src) fun r _ => r.swtrap = some (BitVec.ofNat 16 x) ∧ r.trap = none) ∧
    (∀ a b d, s.phase = .finish k → k < 128 → k < s.cores.length → c.bktWr = some (a, b, d) →
      ∃ t, step s = .next t ∧ (t.core k).bktWr = none ∧ ∀ i < c.prts.length,
        (t.core k).prt i = { c.prt i with padv := a, mxpad := (c.prt i).mxpad &&& 0xFFFF000000000000#64 ||| b, kvpad := d }) ∧
    (s.phase = .finish k → k < 128 → k < s.cores.length → c.bktWr = none → ∃ t, step s = .next t ∧ (t.core k).prts = c.prts)

/-- R180 to R182: loop starts the engine for the L words that follow, with N iterations and its predicates for
pass 0, or skips them when N is 0; lbrk ends the iterations after the one that starts in the present pass; lrd
reads the iteration, the iterations left, and p15 to p8. -/
def Obligations.LoopEffects : Prop :=
  ∀ (s : State) (k p : Nat) (g : Guard) (src : Src) (sel : LrdSel),
    let q := (s.core k).prt p
    let l := q.loop
    let x := s.datum k p src .lp % 2 ^ 32
    let o := s.op1 k p .lp
    let L := o % 512
    let S := o / 2 ^ 16 % 16
    (s.calm k p g src .lpLoop = true → (s.env k p).loopBad 1 o = false → x ≠ 0 →
      ∃ t, exec (.lpLoop g src) s = .next t ∧
        let r := (t.core k).prt p
        r.loop = ⟨true, BitVec.ofNat 32 x, 0, 0, BitVec.ofNat 32 x, BitVec.ofNat 9 L, BitVec.ofNat 4 S, q.pc + 3, 0⟩ ∧
          r.pc = q.pc + 3 ∧ r.left = q.left - 1 ∧ r.preds = (q.preds &&& 0x00FF#16) ||| 0x0100#16) ∧
    (s.calm k p g src .lpLoop = true → (s.env k p).loopBad 1 o = false → x = 0 →
      ∃ t, exec (.lpLoop g src) s = .next t ∧
        let r := (t.core k).prt p
        r.loop.active = false ∧ r.pc = q.pc + BitVec.ofNat 13 (3 * (L + 1)) ∧ r.left = q.left - (L + 1) ∧ r.preds = q.preds) ∧
    (s.has k p = true → s.fires k p g src .lpLbrk = true → l.active = true → (s.core k).preempting = false →
      ∃ t, exec (.lpLbrk g src) s = .next t ∧
        ((t.core k).prt p).loop.nst.toNat = min l.nst.toNat (l.j.toNat + 1)) ∧
    (s.calm k p g src .lpLbrk = true → ∃ t, exec (.lpLbrk g src) s = .next t ∧ ((t.core k).prt p).loop = l) ∧
    Yields (.lpLrd sel g src) s k p g src (.lpLrd sel) (.one 1 (if l.active then (match sel with
      | .iter => l.ibase.toNat + l.j.toNat
      | .rem => l.nst.toNat - l.j.toNat - 1
      | .stg => q.preds.toNat / 256) else 0))

/-- R40, R184: semw issues once the semaphore holds the value asked for and stalls until then; sema adds its
signed amount, and semr reads the semaphore as it stood at the start of the ACLK. At the end of the ACLK the write that
stands, the last of the ACLK, and the sum of its adds are applied to each semaphore, clamped to 0 to 0xFFFF: OVF is set
where the clamp applies at the top (over a write that clears it by log 112), cleared by a write of 1, and otherwise
kept. -/
def Obligations.SemaphoreTriggers : Prop :=
  ∀ (s : State) (k p : Nat) (g : Guard) (src : Src),
    let c := s.core k
    let q := c.prt p
    let x := s.datum k p src .sy
    let n := s.op1 k p .sy % 256
    let sm := c.sh0.semaAt n
    let rd := c.sh0.semaAt (x % 256)
    (s.calm k p g src .sySemw = true → x % 65536 ≤ sm.val.toNat →
      ∃ t, exec (.sySemw g src) s = .next t ∧ Advances q ((t.core k).prt p) 1 ∧ ((t.core k).prt p).stalled = false ∧ (t.core k).semAdds = c.semAdds) ∧
    (s.calm k p g src .sySemw = true → sm.val.toNat < x % 65536 →
      ∃ t, exec (.sySemw g src) s = .next t ∧ ((t.core k).prt p).pc = q.pc ∧ ((t.core k).prt p).left = q.left ∧
        ((t.core k).prt p).stalled = true) ∧
    (s.calm k p g src .sySema = true →
      ∃ t, exec (.sySema g src) s = .next t ∧ Advances q ((t.core k).prt p) 1 ∧
        (t.core k).semAdds = c.semAdds ++ [(n, (BitVec.ofNat 17 x).toInt)]) ∧
    Yields (.sySemr g src) s k p g src .sySemr (.one 1 (rd.val.toNat + if rd.ovf then 65536 else 0)) ∧
    (s.phase = .finish k → k < 128 → k < s.cores.length → ∃ t, step s = .next t ∧ (t.core k).semAdds = [] ∧ (t.core k).semWrs = [] ∧
      ∀ m < c.sh.sema.length,
        let y := c.sh.semaAt m
        let z := (t.core k).sh.semaAt m
        let wrs := c.semWrs.filter fun w => w.n == m
        let base : Int := match wrs.getLast? with | some w => (w.val.toNat : Int) | none => (y.val.toNat : Int)
        let total := base + ((c.semAdds.filter fun a => a.1 == m).map Prod.snd).sum
        (z.val.toNat : Int) = max 0 (min 65535 total) ∧ (z.ovf = true ↔ 65535 < total ∨ (y.ovf = true ∧ ∀ w ∈ wrs, w.clr = false)))

/-- R33, R44, R185 to R189, R267, R353: join ends the stream, lock waits for its group, unlock leaves it at the end of
the step, rgn records the restart point, rah the helper's, chk passes a clean value, a mark enters the queues,
evt takes the oldest record of the core's event queue, or gives 0. -/
def Obligations.SynchronisationTriggers : Prop :=
  ∀ (s : State) (k p : Nat) (g : Guard) (src : Src),
    let c := s.core k
    let q := c.prt p
    let x := s.datum k p src .sy
    let m : BitVec 12 := BitVec.ofNat 12 x
    let done (i : Instr) (P : Partition → Core → Prop) : Prop := ∃ t, exec i s = .next t ∧ P ((t.core k).prt p) (t.core k)
    let mark (i : Instr) (sc : Scope) : Prop :=
      s.calm k p g src (.syMark sc) = true →
        done i fun r _ => ∃ o, r.mops = q.mops ++ [o] ∧ o.kind = .mark sc ∧ o.id = c.seq ∧ Advances q r 1
    (s.calm k p g src .syJoin = true →
      done (.syJoin g src) fun r d => r.joined = true ∧ r.loop = .zero ∧ r.transfer = none ∧
        (c.isLocked p = true → d.lleave.getLsbD p = true)) ∧
    (s.calm k p g src .syLock = true → m.getLsbD p = true → c.locked = 0 → (c.lpend = 0 ∨ c.lpend = m) → p < 12 →
      done (.syLock g src) fun r d => d.lpend = m ∧ d.lwait.getLsbD p = true ∧ Advances q r 1) ∧
    (s.calm k p g src .syUnlock = true → p < 12 → done (.syUnlock g src) fun r d =>
      Advances q r 1 ∧ (if c.isLocked p then d.lleave.getLsbD p = true else d.lleave = c.lleave)) ∧
    (s.calm k p g src .syRgn = true → done (.syRgn g src) fun r _ => r.rgnPc = q.pc ∧ r.rgnWrem = BitVec.ofNat 9 q.left ∧ Advances q r 1) ∧
    (s.calm k p g src .syRah = true → done (.syRah g src) fun r _ => r.rah = BitVec.ofNat 13 (x / 4) ∧ Advances q r 1) ∧
    (s.calm k p g src .syChk = true → done (.syChk g src) fun r _ => r.units = q.units ∧ Advances q r 1) ∧
    mark (.syMarkPrt g src) .prt ∧ mark (.syMarkCore g src) .core ∧ mark (.syMarkClu g src) .clu ∧ mark (.syMarkDev g src) .dev ∧
    mark (.syMarkSys g src) .sys ∧
    (∀ y ys, c.sh.evq = y :: ys → x / 32 % 8192 * 32 < 196608 → s.fires k p g src .syEvt = true →
      exec (.syEvt g src) s = .next (s.afterMove k p src fun e =>
        (e.modSh fun h => regWrite { h with evq := ys } (x / 32 % 8192 * 32) 32 y.nat false).launch .sy 0 (.one 1 1))) ∧
    (c.sh.evq = [] → x / 32 % 8192 * 32 < 196608 → s.fires k p g src .syEvt = true →
      exec (.syEvt g src) s = .next (s.afterMove k p src fun e => e.launch .sy 0 (.one 1 0)))

/-! ### Moves, immediates, IDLE words and headers -/

/-- R66, R73, R75, R76, R78: in a group whose slots move clean values to operand-file entries, predicates, operand ports
or the sink, every source is read as the cycle starts, and the destinations are written in slot order, of the
slots whose guard holds. Two pops of one port in a word deliver its two oldest entries, in slot order. -/
def Obligations.MoveGroupOrder : Prop :=
  (∀ (s : State) (k p : Nat) (g : Group),
    let e := s.env k p
    let its := (groupItems g).filter fun it => e.q0.holds it.g
    let value (it : Item) : Read := match it.act with
      | .move src _ => e.readPlain src
      | .imm x _ => ⟨x.setWidth 8192, false, 0, .imm64⟩
      | .cmd _ _ => .clean 8 0
    let write (f : Env) (it : Item) : Env := match it.act with
      | .move _ d | .imm _ d => f.writeDst (value it) d
      | .cmd _ _ => f
    s.wordReady k p g = true → (groupItems g).all e.simple = true → (∀ n, g.w0 ≠ .idle n) → (∀ n, g.w1 ≠ some (.idle n)) →
      exec (.mmWord g) s = .next (s.endGroup k p g.len (its.foldl write e))) ∧
  ∀ (s : State) (k p : Nat) (g h : Guard) (n : BitVec 4) (i j : BitVec 3),
    let q := (s.core k).prt p
    let port := hqAt (s.cluster (cluOf k)).hq (hqIndex k n)
    let w : Group := ⟨.mm ⟨g, .hq n, .ofile i⟩ ⟨h, .hq n, .ofile j⟩, none⟩
    s.wordReady k p w = true → q.holds g = true → q.holds h = true → q.predPoison g.pred = false → q.predPoison h.pred = false →
      i ≠ j → cluOf k < s.clusters.length → hqIndex k n < (s.cluster (cluOf k)).hq.length → q.ofile.length = 8 →
      ∀ x y rest, port.ents = x :: y :: rest → x.vis = true → y.vis = true →
        ∃ t, exec (.mmWord w) s = .next t ∧
          let r := (t.core k).prt p
          let W := prtWidth p
          (r.ofile.getD i.toNat .zero).bits.toNat = x.data.toNat % 2 ^ (8 * W) ∧
            (r.ofile.getD j.toNat .zero).bits.toNat = y.data.toNat % 2 ^ (8 * W) ∧
            (hqAt (t.cluster (cluOf k)).hq (hqIndex k n)).ents = rest ∧ Advances q r 1

/-- R65, R66, R69 to R75, R144: what a word of one move of a clean value leaves at its destination: an operand-file
entry or port of its width, bit 0 in a predicate (p0 keeps 1), W bytes of the register space at an entry in
bounds, an exchange two cycles away, or a queue entry not yet visible. A queue source loses its oldest entry. -/
def Obligations.MoveDestinations : Prop :=
  ∀ (s : State) (k p : Nat) (g : Guard) (src : Src),
    let c := s.core k
    let q := c.prt p
    let v := (s.env k p).readPlain src
    let move (d : Dst) : Instr := .mmWord (oneMove g src d)
    let done (d : Dst) (P : Partition → Core → State → Prop) : Prop :=
      s.has k p = true → s.ready k p g src d = true →
        ∃ t, exec (move d) s = .next t ∧ P ((t.core k).prt p) (t.core k) t ∧ Advances q ((t.core k).prt p) 1
    (∀ j, done (.ofile j) fun r _ _ => r.ofile = q.ofile.set j.toNat (v.slot (prtWidth p))) ∧
    (∀ u o, p < 12 → q.units.length = 25 → done (.port u o) fun r _ _ => (r.unit u).port o = v.slot (portWidth (prtWidth p) u o) ∧
      ∀ o', o' ≠ o → (r.unit u).port o' = (q.unit u).port o') ∧
    (∀ n, n ≠ 0 → (n.toNat < 8 ∨ q.loop.active = false) → done (.pred n) fun r _ _ => r.pred n = (v.at 1).getLsbD 0 ∧
      ∀ m, m ≠ n → (m.toNat < 8 ∨ q.loop.active = false) → r.pred m = q.pred m) ∧
    (∀ n, 8 ≤ n.toNat → q.loop.active = true → done (.pred n) fun r _ _ => r.preds &&& 0x00FF = q.preds &&& 0x00FF) ∧
    (done (.pred 0) fun r _ _ => r.pred 0 = true ∧ PredsKept q r) ∧
    (∀ w i, viewOk (q.view w) i.toNat = true → done (.main w i) fun _ d _ =>
      let a := viewAddr (q.view w) i.toNat
      let n := viewWidth (q.view w)
      ∀ b, Cells.byte d.sh.reg b = if a ≤ b ∧ b < a + n then BitVec.ofNat 8 ((v.at n).toNat / 2 ^ (8 * (b - a))) else Cells.byte c.sh.reg b) ∧
    (∀ m j, done (.xo m j) fun _ d _ =>
      d.xfly = c.xfly ++ [⟨p, m.toNat, j, v.slot (prtWidth m.toNat), 2, c.isLocked p && c.isLocked m.toNat⟩]) ∧
    (∀ n, (hqAt (s.cluster (cluOf k)).hq (hqIndex k n)).room ≠ 0 →
      cluOf k < s.clusters.length → hqIndex k n < (s.cluster (cluOf k)).hq.length → done (.hq n) fun _ _ t =>
        (hqAt (t.cluster (cluOf k)).hq (hqIndex k n)).ents = (hqAt (s.cluster (cluOf k)).hq (hqIndex k n)).ents ++
          [⟨(v.at 128).setWidth 1024, 1, false⟩]) ∧
    (∀ n, src = .hq n → cluOf k < s.clusters.length → hqIndex k n < (s.cluster (cluOf k)).hq.length → done .sink fun _ _ t =>
        (hqAt (t.cluster (cluOf k)).hq (hqIndex k n)).ents = (hqAt (s.cluster (cluOf k)).hq (hqIndex k n)).ents.drop 1)

/-- R37, R38, R146, R151, R164, R376: an ML word moves its immediate, in every 8-byte lane of a wider destination;
an IDLE word counts n - 1 further cycles; an empty word does nothing but advance; a header opens its section when
its waits are satisfied, and its first word issues in the same ACLK, else its partition stalls, or traps with
HEADER when LEN is 0 or a wait can never be satisfied. -/
def Obligations.ImmediateIdleHeader : Prop :=
  ∀ (s : State) (k p : Nat) (g : Guard) (x : BitVec 64) (n : BitVec 16) (len : BitVec 9) (mask : BitVec 11) (wait : BitVec 44),
    let c := s.core k
    let q := c.prt p
    let lanes (w : Nat) : Nat := ((List.range (w / 8)).map fun i => x.toNat * 2 ^ (64 * i)).sum
    let ml (d : Dst) (P : Partition → Prop) : Prop :=
      s.wordReady k p ⟨.ml g d x, none⟩ = true → q.predPoison g.pred = false → q.holds g = true →
        ∃ t, exec (.mlWord g d x) s = .next t ∧ P ((t.core k).prt p) ∧ Advances q ((t.core k).prt p) 1
    let due (i : Nat) : Prop := ((c.sh0.rsc.getD (headerPrt p i) 0).toNat + 16 - wait.toNat / 2 ^ (4 * i) % 16) % 16 < 8
    (∀ j : BitVec 3, q.ofile.length = 8 → ml (.ofile j) fun r => (r.ofile.getD j.toNat .zero) = ⟨BitVec.ofNat 8192 (lanes (prtWidth p)), false, false⟩) ∧
    (∀ u o, q.units.length = 25 → prtWidth p = 128 → portWidth 128 u o = 128 →
      ml (.port u o) fun r => (r.unit u).port o = ⟨BitVec.ofNat 8192 (lanes 128), false, false⟩) ∧
    (s.wordReady k p ⟨.idle n, none⟩ = true → ∃ t, exec (.idle n) s = .next t ∧
      ((t.core k).prt p).idle = n.toNat - 1 ∧ Advances q ((t.core k).prt p) 1) ∧
    (s.wordReady k p ⟨.mm Move.empty Move.empty, none⟩ = true → ∃ t, exec .nop s = .next t ∧
      let r := (t.core k).prt p
      RegistersKept q r ∧ PredsKept q r ∧ r.units = q.units ∧ StoreKept c.sh (t.core k).sh ∧ SpaceKept c.sh (t.core k).sh ∧
        CountsKept c.sh (t.core k).sh ∧ Advances q r 1) ∧
    (s.has k p = true → s.phase = .prt k p → s.canIssue k p = true →
      (len ≠ 0 → q.pc.toNat + 2 + 3 * len.toNat ≤ q.slen → (∀ i < 11, mask.getLsbD i = true → due i) →
        ∃ t, exec (.sectionHeader len mask wait) s = .next t ∧ t.phase = s.phase ∧
          let r := (t.core k).prt p
          r.pc = q.pc + 2 ∧ r.left = len.toNat ∧ r.secNo = q.secNo + 1 ∧ r.secs = q.secs ++ [⟨q.secNo, false, 0⟩]) ∧
      (len ≠ 0 → q.pc.toNat + 2 + 3 * len.toNat ≤ q.slen →
        (∃ i < 11, mask.getLsbD i = true ∧ ¬due i ∧ (c.prt (headerPrt p i)).spent = false) →
          ∃ t, exec (.sectionHeader len mask wait) s = .next t ∧ ((t.core k).prt p).pc = q.pc ∧ ((t.core k).prt p).left = q.left ∧
            ((t.core k).prt p).stalled = true) ∧
      (k ≠ 0 → c.held p = false →
        (len = 0 ∨ (q.pc.toNat + 2 + 3 * len.toNat ≤ q.slen ∧ (∃ i < 11, mask.getLsbD i = true ∧ ¬due i) ∧
          ∀ i < 11, mask.getLsbD i = true → ¬due i → (c.prt (headerPrt p i)).spent = true)) →
          ∃ t, exec (.sectionHeader len mask wait) s = .next t ∧
            ((t.core k).prt p).trap = some ⟨0x05, headerBits len mask wait, 0, q.pc⟩))

/-- R148, R245, R273: a command word whose semaphore holds its threshold, on an engine with fewer than 16 commands,
and with no poison in its block, enters its engine's queue with its fields and its block as the register space
holds it, and takes its place among the stores of its partition. With its semaphore below the threshold the
partition stalls and nothing enters, whether the block holds poison or not. -/
def Obligations.EngineCommands : Prop :=
  ∀ (s : State) (k p : Nat) (f : CmdFields),
    let c := s.core k
    let q := c.prt p
    let h := c.sh0
    let blk := 128 * f.cboff.toNat
    let go (i : Instr) (op : CmdOp) : Prop :=
      s.wordReady k p ⟨.mc op f, none⟩ = true → q.predPoison f.g.pred = false → q.holds f.g = true →
      let unpoisoned : Prop := op.readsBlock = true → Cells.anyIn h.regPsn blk 128 = false ∧
        ∀ a n, cmdSpan op (Cells.bytes h.reg blk 128) = some (a, n) → Cells.anyIn h.regPsn a n = false
      c.engineLoad (cmdEngine op) < 16 → (c.isLocked p = true → cmdEngine op ≠ 8) →
        ((unpoisoned → f.wthr.toNat ≤ (h.semaAt f.wsem.toNat).val.toNat →
          ∃ t o m, exec i s = .next t ∧ (t.core k).ops = c.ops ++ [o] ∧ o.id = c.opId ∧ o.op = op ∧ o.prt = p ∧ o.job = c.jobId ∧
            o.fields = f ∧ o.phase = .queued ∧ o.forked = false ∧ (op.readsBlock = true → o.block = Cells.bytes h.reg blk 128) ∧
            (t.core k).opId = c.opId + 1 ∧ ((t.core k).prt p).mops = q.mops ++ [m] ∧ m.kind = .fork c.opId ∧
            Advances q ((t.core k).prt p) 1) ∧
        ((h.semaAt f.wsem.toNat).val.toNat < f.wthr.toNat →
          ∃ t, exec i s = .next t ∧ (t.core k).ops = c.ops ∧ ((t.core k).prt p).mops = q.mops ∧ ((t.core k).prt p).pc = q.pc ∧
            ((t.core k).prt p).stalled = true))
    go (.hamperCopy1d f) (.copy 0) ∧ go (.hamperCopy2d f) (.copy 1) ∧ go (.hamperCopy3d f) (.copy 2) ∧
    go (.hamperCopyf1d f) (.copyf 0) ∧ go (.hamperCopyf2d f) (.copyf 1) ∧ go (.hamperCopyf3d f) (.copyf 2) ∧
    go (.gatherGath f) .gath ∧ go (.gatherScat f) .scat ∧ go (.collCred f) .cred ∧ go (.collCbc f) .cbc ∧ go (.mqueueMq f) .mq ∧
    go (.walkerAwalk f) .awalk ∧ go (.codecEnc f) .enc ∧ go (.codecDec f) .dec ∧ go (.tagFill f) .fill ∧ go (.tagEvict f) .evict ∧
    go (.tagWback f) .wback ∧ go (.eventPost f) .post ∧ go (.mmWord ⟨.mc .patch f, none⟩) .patch

/-- R40, R69, R71, R79 to R81, R93, R94, R101, R136, R187, R188, R354, R362, R363: what a write of each control
register leaves: fields take the written bits, reserved and read-only ones ignore them, and bits that clear are
cleared by ones. A write of a register that is read-only or not assigned, or of one of firmware's by a user core, changes
nothing but the stream that goes on; that registers from 0x400 on that no rule names ignore writes is log 16, and that
FWTREC takes what firmware writes in the record's fields log 136. -/
def Obligations.ControlRegisterWrites : Prop :=
  ∀ (s : State) (k p : Nat) (g : Guard) (src : Src) (n : BitVec 8) (v : BitVec 3) (j : BitVec 12),
    let c := s.core k
    let q := c.prt p
    let x : Word := (((s.env k p).readPlain src).at 8).setWidth 64
    let pc : Pc := x.extractLsb' 2 13
    let done (i : Instr) (l : BitVec 12) (P : Partition → Core → State → Prop) : Prop :=
      s.has k p = true → s.ready k p g src (.creg l) = true →
        ∃ t, exec i s = .next t ∧ P ((t.core k).prt p) (t.core k) t ∧ Advances q ((t.core k).prt p) 1
    let reg (l : BitVec 12) (P : Partition → Core → State → Prop) : Prop := done (.ctrlRegWrite l g src) l P
    let ignored : Prop := s.ready k p g src (.creg j) = true → exec (.ctrlRegWrite j g src) s = .next (s.afterMove k p src fun e => e)
    let among (a b : Nat) : Prop := a ≤ j.toNat ∧ j.toNat ≤ b
    done (.semaWrite n g src) (n.setWidth 12) (fun _ d _ => d.semWrs = c.semWrs ++ [⟨n.toNat, p, x.setWidth 16, x.getLsbD 16⟩]) ∧
    done (.viewWrite v g src) (0x100#12 ||| v.setWidth 12) (fun r _ _ => r.views = q.views.set v.toNat (x &&& 0xFCFFFFFFFC03FFFF#64)) ∧
    done (.fpcsrWrite g src) 0x10E (fun r _ _ => r.rm = x.extractLsb' 8 2 ∧ r.fpf = x.setWidth 5) ∧
    (∀ b : BitVec 2, reg (0x108#12 ||| b.setWidth 12) fun r _ _ => r.bt = q.bt.set b.toNat pc) ∧
    reg 0x10C (fun r _ _ => r.rgnPc = pc ∧ r.rgnWrem = x.extractLsb' 32 9) ∧ reg 0x10D (fun r _ _ => r.rah = pc) ∧
    reg 0x10F (fun r _ _ => r.lcol = (q.lcol && !x.getLsbD 15) ∧ r.xcol = (q.xcol && !x.getLsbD 14)) ∧
    reg 0x120 (fun r _ _ => r.padv = x) ∧ reg 0x121 (fun r _ _ => r.mxpad = x &&& 0xFFFF0001FFFFFFFF#64) ∧
    reg 0x122 (fun r _ _ => r.kvpad = x &&& 0x00000001FFFFFFFF#64) ∧ reg 0x123 (fun r _ _ => r.kvpos = x &&& 0x00000003FFFFFFFF#64) ∧
    reg 0x140 (fun _ d _ => d.sh.evq = c.sh.evq ∧ d.sh.evOvf = (c.sh.evOvf && !x.getLsbD 15) ∧
      d.sh.evLost = if x.getLsbD 15 then 0 else c.sh.evLost) ∧
    (among 0x110 0x11F ∨ among 0x124 0x12F ∨ j = 0x137 ∨ among 0x13A 0x13F ∨ among 0x141 0x1FF → ignored) ∧
    (k ≠ 0 → among 0x130 0x13F ∨ among 0x200 0x3FF → ignored) ∧
    (k = 0 → j = 0x402 ∨ among 0x405 0x407 ∨ j = 0x40B ∨ 0x410 ≤ j.toNat → ignored) ∧
    (k = 0 → (reg 0x40A fun _ _ t => t.fw.fwtvec = x) ∧ (reg 0x40C fun _ _ t => t.fw.rec0 = x &&& 0xFFFFFF80FFFFFFFF#64) ∧
      (reg 0x40D fun _ _ t => t.fw.rec1 = x) ∧ (reg 0x40E fun _ _ t => t.fw.rec2 = x) ∧
      (reg 0x40F fun _ _ t => t.fw.rec3 = x &&& 0xFFFFFFFF00007FFC#64) ∧
      (reg 0x400 fun _ _ t => t.fw.rrbase = x &&& 0x0000FFFFFFFFF000#64) ∧ (reg 0x401 fun _ _ t => t.fw.rrcfg = x.setWidth 4) ∧
      (reg 0x402 fun _ _ t => t.fw.rrtail = s.fw.rrtail) ∧ (reg 0x403 fun _ _ t => t.fw.rrhead = x.setWidth 32) ∧
      (reg 0x404 fun _ _ t => t.fw.rrovf = (s.fw.rrovf && !x.getLsbD 0)) ∧
      (reg 0x408 fun _ _ t => t.fw.dbg0 = x) ∧ (reg 0x409 fun _ _ t => t.fw.dbg1 = x) ∧
      (0x130 ≤ j.toNat → j.toNat < 0x13A → j ≠ 0x137 → reg j fun _ d _ => d.sh.gap = c.sh.gap.set (j.toNat - 0x130) (x.setWidth 16)) ∧
      ∀ (i : Nat) (dw : Fin 4) (y : FtbEntry), i < 128 → c.sh.ftb[i]? = some y → j.toNat = 0x200 + 4 * i + dw →
        reg j fun _ d _ => (∀ m, m ≠ i → d.sh.ftb[m]? = c.sh.ftb[m]?) ∧ d.sh.ftb[i]? = some (match dw with
          | 0 => { y with vabase := x &&& 0x0000FFFFFFFFF000#64 }
          | 1 => { y with valimit := x &&& 0x0000FFFFFFFFF000#64 }
          | 2 => { y with iabase := x &&& 0x0000FFFFFFFFF000#64 }
          | 3 => { y with attr := x &&& 0xFE00000000000000#64 }))

/-! ### Events of a core -/

/-- R59, R61 to R64, R94, R232, R240, R241: a result that is due lands: the latches that it writes take its values and
its flags are ORed into FPCSR, and it is in flight no more. Of two that fall due on one latch the later trigger's
is kept, PSTAT.LCOL is set, and both raise their flags. A bld replaces its block of its plane, a kvfrq its table,
and the rows of a kvap are written in the cycle that begins. -/
def Obligations.ResultLandingEffects : Prop :=
  ∀ (s : State) (k p i : Nat) (f g : Fly),
    let c := s.core k
    let q := c.prt i
    let done (P : Partition → Core → Prop) : Prop :=
      ∃ t, exec (.resultLands k p) s = .next t ∧ OutsideKept s t k i ∧ P ((t.core k).prt i) (t.core k)
    let latched (r x : UnitRegs) (f : Fly) : Prop :=
      r.res = f.res.getD x.res ∧ r.res1 = f.res1.getD x.res1 ∧ r.flag = f.flag.getD x.flag ∧ r.o1 = x.o1 ∧ r.o2 = x.o2 ∧ r.o3 = x.o3
    s.has k i = true → q.units.length = 25 → c.sh.cims.length = 8 →
      ((c.landing p = [(i, f)] → f.unit ≠ .mx → f.eff = .none → done fun r d =>
        latched (r.unit f.unit) (q.unit f.unit) f ∧ (∀ u, u ≠ f.unit → r.unit u = q.unit u) ∧ r.fpf = q.fpf ||| f.fpf ∧ r.rm = q.rm ∧
          r.fly = q.fly.filter (fun x => x.seq != f.seq) ∧ r.lcol = q.lcol ∧ d.sh = c.sh) ∧
      (c.landing p = [(i, f), (i, g)] → f.collides g = true → f.unit ≠ .mx → f.eff = .none → g.eff = .none → done fun r _ =>
        r.lcol = true ∧ r.fpf = q.fpf ||| f.fpf ||| g.fpf ∧ (∀ x, g.res = some x → (r.unit g.unit).res = x)) ∧
      (c.landing p = [(i, f)] → f.unit = .mx → f.eff = .none → done fun r d =>
        let m := d.sh.cim f.mac
        let n := c.sh.cim f.mac
        m.res = f.res.getD n.res ∧ m.res1 = f.res1.getD n.res1 ∧ m.flag = f.flag.getD n.flag ∧ m.p0 = n.p0 ∧ m.p1 = n.p1 ∧
          r.fpf = q.fpf ||| f.fpf ∧ ∀ j, j ≠ f.mac → d.sh.cim j = c.sh.cim j) ∧
      (∀ pl j fmt cells eq psn, c.landing p = [(i, f)] → f.unit = .mx → f.eff = .bld pl j fmt cells eq psn → cells.length = 8192 →
        done fun _ d =>
          let m := (d.sh.cim f.mac).plane pl
          let n := (c.sh.cim f.mac).plane pl
          m.fmt = fmt ∧ (d.sh.cim f.mac).plane (!pl) = (c.sh.cim f.mac).plane (!pl) ∧ (d.sh.cim f.mac).act = (c.sh.cim f.mac).act ∧
            ∀ b, Cells.byte m.cells b = if 8192 * j.toNat ≤ b ∧ b < 8192 * j.toNat + 8192 then cells.getD (b - 8192 * j.toNat) 0
              else if n.fmt = fmt then Cells.byte n.cells b else 0) ∧
      (∀ ka va key val, c.landing p = [(i, f)] → f.unit = .kv → f.eff = .kvap ka va key val →
        done fun _ d => d.late = c.late ++ [(ka, key), (va, val)] ∧ d.sh = c.sh) ∧
      (∀ n data, c.landing p = [(i, f)] → f.unit = .kv → f.eff = .kvfrq n data → done fun r _ =>
        ∀ b, Cells.byte r.freq b =
          if 512 * n.toNat ≤ b ∧ b < 512 * n.toNat + data.length then data.getD (b - 512 * n.toNat) 0 else Cells.byte q.freq b))

/-- R37, R175, R187, R342: the oldest open section retires once its last word has issued and none of its results is in
flight, unless its partition has trapped: RSC counts it, and RGNADDR names the header that follows, unless a region entry of a later section has
issued. After three delay cycles a transfer takes its partition to the target, where a header is read. That a
transfer ends a loop is log 20. -/
def Obligations.SectionTransferEvents : Prop :=
  ∀ (s : State) (k p : Nat) (x : OpenSec) (rest : List OpenSec) (target : Pc),
    let c := s.core k
    let q := c.prt p
    s.has k p = true → c.sh.rsc.length = 12 → p < 12 →
      ((q.secs = x :: rest → q.trap = none → x.done = true → (∀ f ∈ q.fly, f.sec ≠ x.no) →
        ∃ t, exec (.sectionRetire k p) s = .next t ∧ OutsideKept s t k p ∧
          let r := (t.core k).prt p
          r.secs = rest ∧ r.pc = q.pc ∧ r.left = q.left ∧ (t.core k).sh.rsc.getD p 0 = c.sh.rsc.getD p 0 + 1 ∧
            (∀ j, j ≠ p → (t.core k).sh.rsc.getD j 0 = c.sh.rsc.getD j 0) ∧
            (x.no < q.rgnSec → r.rgnPc = q.rgnPc ∧ r.rgnWrem = q.rgnWrem) ∧
            (q.rgnSec ≤ x.no → r.rgnPc = x.next ∧ r.rgnWrem = 0)) ∧
      (q.secs = x :: rest → (q.trap ≠ none ∨ x.done = false ∨ ∃ f ∈ q.fly, f.sec = x.no) → exec (.sectionRetire k p) s = .next s) ∧
      (q.transfer = some ⟨target, 0⟩ → ∃ t, exec (.transferDelayEnds k p) s = .next t ∧ OutsideKept s t k p ∧
        let r := (t.core k).prt p
        r.pc = target ∧ r.left = 0 ∧ r.transfer = none ∧ r.loop.active = false ∧ RegistersKept q r ∧ r.preds = q.preds ∧ r.units = q.units) ∧
      ((∀ g, q.transfer ≠ some ⟨g, 0⟩) → exec (.transferDelayEnds k p) s = .next s))

/-- R73, R228: a value exchanged lands in its receiver's slot; of two from different senders in one slot the higher
sender's is kept and PSTAT.XCOL is set. An interval that has elapsed ends. -/
def Obligations.ExchangeIntervalEvents : Prop :=
  ∀ (s : State) (k m : Nat) (x y : Exchange),
    let c := s.core k
    let q := c.prt x.rcv
    let due := c.xfly.filter fun z => z.rem == 0
    let n : BitVec 3 := BitVec.ofNat 3 m
    let cim := c.sh.cim n
    let ended (i : Interval) : Interval := if i.on && i.left == 0 then { i with on := false } else i
    (s.has k x.rcv = true → q.xi.length = 8 → due = [x] → ∃ t, exec (.exchangeLands k) s = .next t ∧ OutsideKept s t k x.rcv ∧
      let r := (t.core k).prt x.rcv
      r.xi = q.xi.set x.slot.toNat x.val ∧ r.xcol = q.xcol ∧ (t.core k).xfly = c.xfly.filter (fun z => z.rem != 0) ∧ (t.core k).sh = c.sh) ∧
    (s.has k x.rcv = true → q.xi.length = 8 → (due = [x, y] ∨ due = [y, x]) → y.rcv = x.rcv → y.slot = x.slot → x.snd < y.snd →
      ∃ t, exec (.exchangeLands k) s = .next t ∧
        let r := (t.core k).prt x.rcv
        r.xi = q.xi.set x.slot.toNat y.val ∧ r.xcol = true) ∧
    (k < s.cores.length → c.sh.cims.length = 8 → ∃ t, exec (.mxAcceptIntervalEnds k m) s = .next t ∧
      let d := (t.core k).sh.cim n
      d.ivl = ended cim.ivl ∧ d.bivl = ended cim.bivl ∧ d.cfg = cim.cfg ∧ d.p0 = cim.p0 ∧ d.p1 = cim.p1 ∧ d.act = cim.act ∧
        (∀ j, j ≠ n → (t.core k).sh.cim j = c.sh.cim j) ∧ (t.core k).prts = c.prts ∧ t.mem = s.mem)

/-- R43 to R45, R48, R186, R374: a locked group forms once every member of its mask waits, outside a pre-emption and
with no other group formed; with a member that never started or has joined, those that wait trap with LOCKUSE. At
the end of an ACLK in which its step went on SCNT counts it, and the members that unlocked leave. Which partitions
trap is log 71. -/
def Obligations.LockedGroupEvents : Prop :=
  ∀ (s : State) (k : Nat),
    let c := s.core k
    let dead : Prop := ∃ p < 12, c.lpend.getLsbD p = true ∧ ((c.prt p).started = false ∨ (c.prt p).joined = true)
    (k < s.cores.length → c.lpend ≠ 0 → c.preempting = false → ¬dead → c.locked = 0 → c.lwait &&& c.lpend = c.lpend →
      ∃ t, exec (.lockGroupForms k) s = .next t ∧ (t.core k).locked = c.lpend ∧ (t.core k).lpend = 0 ∧
        (t.core k).lwait = c.lwait &&& ~~~c.lpend ∧ (t.core k).prts = c.prts ∧ (t.core k).sh = c.sh ∧ t.mem = s.mem) ∧
    (k < s.cores.length → k ≠ 0 → c.prts.length = 12 → c.lpend ≠ 0 → c.preempting = false → dead →
      ∃ t, exec (.lockGroupForms k) s = .next t ∧ (t.core k).lpend = 0 ∧ (t.core k).lwait = 0 ∧ (t.core k).locked = c.locked ∧
        ∀ p < 12, ((t.core k).prt p).trap =
          if c.lwait.getLsbD p = true then some ⟨0x09, 0x30814, 0, (c.prt p).pc⟩ else (c.prt p).trap) ∧
    (k < s.cores.length → s.phase = .finish k → k < 128 → c.locked ≠ 0 → ∃ t, step s = .next t ∧
      (t.core k).sh.scnt = (if c.lockGo then c.sh.scnt + 1 else c.sh.scnt) ∧
        (t.core k).locked = c.locked &&& ~~~c.lleave ∧ (t.core k).lleave = 0)

/-- R46, R47: while the decoupled mem partition stalls on a load and RAHBASE is not zero, a helper is spawned with
copies of the operand file, predicates and latches, and nothing of the stream changes; it dies at its 256th word,
with the stall, or with a request to pre-empt. Where it begins is log 74. -/
def Obligations.HelperEvents : Prop :=
  ∀ (s : State) (k : Nat) (h : Helper),
    let c := s.core k
    let q := c.prt 11
    let kept (t : State) : Prop := (t.core k).prts = c.prts ∧ (t.core k).sh = c.sh ∧ t.mem = s.mem
    (k < s.cores.length → c.helper = none → q.rah ≠ 0 → c.preempting = false → s.loadStall k = true →
      ∃ t h, exec (.rahHelperSpawn k) s = .next t ∧ kept t ∧ (t.core k).helper = some h ∧ h.pc = q.rah ∧ h.issued = 0 ∧
        h.preds = q.preds ∧ h.ofile = q.ofile ∧ h.units = q.units ∧ h.fly = [] ∧ h.dead = false) ∧
    ((q.rah = 0 ∨ s.loadStall k = false ∨ c.preempting = true) → exec (.rahHelperSpawn k) s = .next s) ∧
    (k < s.cores.length → c.helper = some h → s.loadStall k = false →
      ∃ t, exec (.rahHelperDies k) s = .next t ∧ kept t ∧ (t.core k).helper = none) ∧
    (k < s.cores.length → c.helper = some h → s.loadStall k = true → h.dead = false →
      (c.preempting = true ∨ 256 ≤ h.issued ∨ q.slen < h.pc.toNat + 3) →
        ∃ t, exec (.rahHelperDies k) s = .next t ∧ kept t ∧ (t.core k).helper = some { h with dead := true })

/-! ### Memory accesses that are performed -/

/-- R116, R131, R214, R215, R216, R242, R351, R354, R355, R393: a load at the head of its order returns the bytes of its line at its address to its
latch, a nibble form one nibble of its byte, and leaves the queues; the line comes from the L1 where its policy
allows, else from its home, and an L1 policy of 0 keeps it. This is of a load from memory, not from BAR0 through the
loop-back window (log 108), of bytes of which no other partition of its core has had the value of an unperformed
store, for which it would wait (R280, log 101). A speculative load that faulted leaves a poison word with its status
and SPEC, and no entry in the retry ring; a load that is not speculative and an atomic, that faulted at the FTB or at their
home or met poison there, leave one entry in the ring and its number in their poison word, or set OVF where the ring is
full. A walk returns the descriptor that the page list of its node gives, the KVPOS value and its place, from the root or
a child of it; a malformed handle, an invalid node and a position in no node poison its results with flag written plainly,
and a fault makes a ring entry too. -/
def Obligations.LoadReturns : Prop :=
  ∀ (s : State) (k p id : Nat) (o : MemOp) (spec : Bool) (line : BitVec 1024) (m : Memory) (pl : Place) (cf : Bool),
    let c := s.core k
    let q := c.prt p
    let off := o.ia.toNat % 128
    let field (x : Nat) : Nat :=
      let v := x / 2 ^ (8 * off) % 2 ^ (8 * o.size)
      if o.isNibble then v / (if o.nib then 16 else 1) % 16 else v
    let back (r : Partition) (v : Slot) : Prop :=
      r.mops = q.mops.filter (fun x => x.id != o.id) ∧
        r.fly = q.fly.map fun f => if f.seq = o.id then { f with ready := true, res := some v, res1 := none, flag := none } else f
    let plainly : Prop := o.fault = 0 ∧ q.mopsBefore o.id = [] ∧ s.loopBack k o = none ∧ c.seenElsewhere p o.ia.toNat o.size = false
    let base : Addr := BitVec.ofNat 48 (o.ia.toNat / 128 * 128)
    let pos := o.b.toNat % 2 ^ 32
    let clean (x : Nat) : Slot := ⟨BitVec.ofNat 8192 x, false, false⟩
    let poisoned (v : Slot) (cause ix : Nat) : Prop := v.psn = true ∧ v.bits = (at' 56 cause ||| at' 0 ix : Word).setWidth 8192
    let walked (r : Partition) (res res1 : Slot) (flag : Word) : Prop :=
      r.mops = q.mops.filter (fun x => x.id != o.id) ∧ r.fly = q.fly.map fun f =>
        if f.seq = o.id then { f with ready := true, res := some res, res1 := some res1, flag := some (clean flag.toNat) } else f
    let reads (m : Memory) (a z : Nat) (m' : Memory) (x : Nat) : Prop := iaReserved (BitVec.ofNat 48 a) = false ∧ c.seenElsewhere p a z = false ∧
      ∃ pl cf, m.request (BitVec.ofNat 48 a) .rd z c.jobId = (m', .go pl cf) ∧ m'.poisoned pl z = false ∧ x = m'.get pl z
    let nib := o.nib && o.isNibble
    let ring (s1 : State) (kind : Nat) (u : UnitName) (cause : Nat) (nib : Bool) (opa opb : Word) (P : Partition → Nat → Prop) : Prop :=
      let f := s1.fw
      let n := 2 ^ f.rrcfg.toNat
      let a : Addr := BitVec.ofNat 48 (fld f.rrbase 0 48 + 64 * (f.rrtail.toNat % n))
      ((f.rrtail - f.rrhead).toNat = n → ∃ t, exec (.gmDataReturns k p id) s = .next t ∧ t.mem = s1.mem ∧ t.fw = { f with rrovf := true } ∧
        P ((t.core k).prt p) 0xFFFFFFFF) ∧
      (∀ m' pl' cf', (f.rrtail - f.rrhead).toNat ≠ n → s1.mem.request a .wr 64 c.jobId = (m', .go pl' cf') →
        ∃ t, exec (.gmDataReturns k p id) s = .next t ∧ t.fw = { f with rrtail := f.rrtail + 1 } ∧ (t.core k).ringValid = c.ringValid + 1 ∧
          P ((t.core k).prt p) f.rrtail.toNat ∧ (∀ y : Place, y.within pl' 64 = none → t.mem.get y 1 = m'.get y 1) ∧
          let dw (i : Nat) : Word := BitVec.ofNat 64 (t.mem.get (pl'.add (8 * i)) 8)
          dw 0 = (bitAt 63 true ||| at' 60 kind ||| at' 56 p ||| at' 50 (mopUnitId u) ||| at' 40 cause ||| at' 36 (k % 8) |||
            at' 32 (k / 8) ||| c.jobId.setWidth 64) ∧
          dw 1 = (bitAt 52 nib ||| at' 48 o.md.toNat ||| at' 0 o.va.toNat) ∧
          dw 2 = (match c.job with | some j => j.ria.setWidth 64 | none => 0) ∧ dw 3 = opa ∧ dw 4 = opb ∧
          dw 5 = f.rrtail.setWidth 64 ∧ dw 6 = o.opc.setWidth 64 ∧ dw 7 = 0)
    (s.has k p = true → q.loadEntry id = some o → q.mopReady o = true → o.kind = .load spec →
      ((plainly → o.l1p.toNat < 2 → c.l1Find o.ia = some line →
        ∃ t, exec (.gmDataReturns k p id) s = .next t ∧ t.mem = s.mem ∧ back ((t.core k).prt p) ⟨BitVec.ofNat 8192 (field line.toNat), false, false⟩) ∧
      (plainly → (2 ≤ o.l1p.toNat ∨ c.l1Find o.ia = none) →
        s.mem.request base .rd 128 c.jobId = (m, .go pl cf) → m.poisoned (pl.add off) o.size = false →
          ∃ t, exec (.gmDataReturns k p id) s = .next t ∧ t.mem = m ∧
            back ((t.core k).prt p) ⟨BitVec.ofNat 8192 (field (m.get pl 128)), false, false⟩ ∧
            (o.l1p ≠ 0 → (t.core k).l1 = c.l1) ∧
            (o.l1p = 0 → m.poisoned pl 128 = false → (t.core k).l1Find o.ia = some (BitVec.ofNat 1024 (m.get pl 128)))) ∧
      (o.fault ≠ 0 → spec = true → ∃ t v, exec (.gmDataReturns k p id) s = .next t ∧ t.mem = s.mem ∧ t.fw = s.fw ∧
        back ((t.core k).prt p) v ∧ v.psn = true ∧ v.bits.setWidth 64 =
          (at' 56 o.fault.toNat ||| bitAt 55 true ||| 0xFFFFFFFF : Word)) ∧
      (spec = false →
        let fails (m : Memory) (st : BitVec 8) : Prop := ring { s with mem := m } (if o.opc = 5 then 1 else 0) o.unit st.toNat nib 0 0 fun r ix =>
          ∃ v : Slot, back r v ∧ v.psn = true ∧ v.bits.setWidth 64 = (at' 56 st.toNat ||| at' 0 ix : Word) ∧
            v.bits.extractLsb' 64 64 = (at' 0 o.va.toNat ||| at' 48 o.md.toNat ||| bitAt 50 o.nib ||| bitAt 51 (o.opc == 5 || o.opc == 6) : Word)
        (o.fault ≠ 0 → fails s.mem o.fault) ∧
        (plainly → (2 ≤ o.l1p.toNat ∨ c.l1Find o.ia = none) → 0 < o.size →
          (∀ st, s.mem.request base .rd 128 c.jobId = (m, .fault st) → fails m st) ∧
          (s.mem.request base .rd 128 c.jobId = (m, .go pl cf) → m.poisoned (pl.add off) 1 = true → fails m 0x07))))) ∧
    (s.has k p = true → q.loadEntry id = some o → q.mopReady o = true → o.kind = .amo →
      let fails (m : Memory) (st : BitVec 8) : Prop := ring { s with mem := m } 2 o.unit st.toNat nib (o.a.setWidth 64) o.b fun r ix =>
        ∃ v : Slot, back r v ∧ v.psn = true ∧ v.bits = (at' 56 st.toNat ||| at' 0 ix : Word).setWidth 8192
      (o.fault ≠ 0 → fails s.mem o.fault) ∧
      (o.fault = 0 → c.seenElsewhere p o.ia.toNat o.size = false →
        (∀ st, s.mem.request o.ia .at o.size c.jobId = (m, .fault st) → fails m st) ∧
        (s.mem.request o.ia .at o.size c.jobId = (m, .go pl cf) → (∀ n b, pl ≠ .own n b) → m.poisoned pl o.size = true → fails m 0x07) ∧
        (∀ n b, s.mem.request o.ia .at o.size c.jobId = (m, .go (.own n b) false) → o.opc ≠ 0x10 → o.opc ≠ 0x18 → o.opc ≠ 0x19 →
          fails m stHatom))) ∧
    (∀ (pref : Bool) (m1 m2 m3 : Memory) (hd nd le : Nat), s.has k p = true → q.loadEntry id = some o → q.mopReady o = true →
      o.kind = .walk pref → q.mopsBefore o.id = [] →
      let at64 (x i : Nat) : Word := BitVec.ofNat 64 (x / 2 ^ (64 * i))
      let root := fld (at64 hd 0) 0 48
      let depth := fld (at64 hd 0) 52 6
      let good : Prop := fld (at64 hd 0) 48 4 = 0 ∧ fld (at64 hd 0) 58 6 = 0 ∧ 1 ≤ depth ∧ depth ≤ 32
      let bad (m : Memory) (st : Nat) : Prop := ∃ t v, exec (.gmDataReturns k p id) s = .next t ∧ t.mem = m ∧ t.fw = s.fw ∧
        poisoned v (0x30 + st) 0xFFFFFFFF ∧ walked ((t.core k).prt p) v v (at' 56 st)
      let wfault (m : Memory) : Prop := ring { s with mem := m } 4 .rw 0x34 false (BitVec.ofNat 64 pos) 0 fun r ix =>
        ∃ v, poisoned v 0x34 ix ∧ walked r v v (at' 56 4)
      let start := fld (at64 nd 0) 32 32
      let inside : Prop := start ≤ pos ∧ pos - start < fld (at64 nd 0) 0 32
      let j := (pos - start) / 64
      let base := fld (at64 nd 1) 32 32 + 64 * j
      let list := fld (at64 nd 6) 0 48
      let found : Prop := (at64 nd 1).getLsbD 6 = true ∧ inside ∧ reads m2 ((list + 8 * j) % 2 ^ 48) 8 m3 le
      let done : Prop := ∃ t, exec (.gmDataReturns k p id) s = .next t ∧ t.mem = m3 ∧ t.fw = s.fw ∧
        walked ((t.core k).prt p) (clean (le % 2 ^ 48))
          (clean ((if 2 ^ 32 ≤ base then 2 ^ 33 else 0) + (if (at64 nd 1).getLsbD 5 then 2 ^ 32 else 0) + base % 2 ^ 32))
          (at' 32 (j % 65536) ||| at' 0 ((pos - start) % 64)) ∧
        (t.core k).prefs = if pref then c.prefs ++ [(BitVec.ofNat 48 le, 1), (BitVec.ofNat 48 (list + 8 * (j + 1)), 1)] else c.prefs
      (o.fault ≠ 0 → wfault s.mem) ∧
      (o.fault = 0 → c.seenElsewhere p o.ia.toNat 16 = false →
        (∀ st, s.mem.request o.ia .rd 16 c.jobId = (m1, .fault st) → wfault m1) ∧
        (reads s.mem o.ia.toNat 16 m1 hd →
          (¬good → bad m1 3) ∧
          (good → iaReserved (BitVec.ofNat 48 root) = true → wfault m1) ∧
          (good → reads m1 root 64 m2 nd →
            ((at64 nd 1).getLsbD 6 = false → bad m2 1) ∧
            ((at64 nd 1).getLsbD 6 = true → ¬inside → (depth = 1 ∨ (at64 nd 1).getLsbD (fld (at64 hd 1) 0 2) = false) → bad m2 2) ∧
            (found → done)) ∧
          (∀ (m0 : Memory) (up : Nat), good → 2 ≤ depth → reads m1 root 64 m0 up → (at64 up 1).getLsbD 6 = true →
            ¬(fld (at64 up 0) 32 32 ≤ pos ∧ pos - fld (at64 up 0) 32 32 < fld (at64 up 0) 0 32) →
            let way := fld (at64 hd 1) 0 2
            (at64 up 1).getLsbD way = true → reads m0 (fld (at64 up (2 + way)) 0 48) 64 m2 nd → found → done))))


/-- R116, R217, R262, R265, R383, R387: a store is performed at its home: the bytes of its size at the place that the
home gives take its data, a nibble form one nibble, every other byte reads as the home left it, and the entry leaves
the queue. In the L1 of its core a line that it hits takes the bytes too, every other line stays as it is, and no line
enters. A store that faults at its home writes nothing and leaves a memory record. That a nibble store is one access
is log 68. A store of the firmware core to BAR0 through the loop-back window is no access to memory (log 108). -/
def Obligations.StorePerforms : Prop :=
  ∀ (s : State) (k p : Nat) (o : MemOp) (m : Memory) (pl : Place) (cf : Bool) (st : BitVec 8),
    let c := s.core k
    let q := c.prt p
    let old := m.get pl 1
    let nib := o.a.toNat % 16
    let x := if o.isNibble then (if o.nib then old % 16 + 16 * nib else old / 16 * 16 + nib) else o.a.toNat
    let off := o.ia.toNat % 128
    s.has k p = true → q.storeEntry = some o → o.kind = .store → s.loopBack k o = none →
      ((s.mem.request o.ia .wr o.size c.jobId = (m, .go pl cf) → ∃ t, exec (.storePerformed k p) s = .next t ∧
        (∀ y : Place, t.mem.get y 1 = match y.within pl o.size with
          | some i => x / 2 ^ (8 * i) % 256
          | none => m.get y 1) ∧
        ((t.core k).prt p).mops = q.mops.filter (fun z => z.id != o.id) ∧ ((t.core k).prt p).fly = q.fly ∧
        (t.core k).sh = c.sh ∧ t.sched = s.sched ∧
        (∀ i < o.size, o.size % 16 = 0 → pl.key % 16 = 0 → t.mem.poisoned (pl.add i) 1 = false) ∧
        (∀ (la : Addr) (was : BitVec 1024), off + o.size ≤ 128 → c.l1Find la = some was →
          ∃ now : BitVec 1024, (t.core k).l1Find la = some now ∧ (lineOf la ≠ lineOf o.ia → now = was) ∧
            (lineOf la = lineOf o.ia → ∀ i < 128, now.toNat / 2 ^ (8 * i) % 256 =
              if off ≤ i ∧ i < off + o.size then x / 2 ^ (8 * (i - off)) % 256 else was.toNat / 2 ^ (8 * i) % 256)) ∧
        (∀ la : Addr, c.l1Find la = none → (t.core k).l1Find la = none)) ∧
      (s.mem.request o.ia .wr o.size c.jobId = (m, .fault st) → homeOf o.ia < m.homes.length →
        ∃ t r, exec (.storePerformed k p) s = .next t ∧
        (∀ y : Place, t.mem.get y 1 = m.get y 1) ∧ ((t.core k).prt p).mops = q.mops.filter (fun z => z.id != o.id) ∧
        (t.mem.home (homeOf o.ia)).recs = (m.home (homeOf o.ia)).recs ++ [r] ∧ fld r.dw0 60 4 = 0xE ∧ fld r.dw0 56 4 = 0 ∧
          fld r.dw0 48 8 = st.toNat ∧ fld r.dw0 0 32 = c.jobId.toNat ∧ r.dw1.toNat = lineOf o.ia))

/-- R113, R219: an atomic returns what its place held and leaves there, when its home grants it and no piece of it
is poisoned, what its operation makes of that and of o1, on bit vectors of its size; cas writes o2 only where the
place held o1; fadd adds in FP32 and nib replaces one nibble, returning it. This is of an atomic in local memory or in
the LLC; which forms an owner takes is log 69. -/
def Obligations.AtomicReturns : Prop :=
  ∀ (s : State) (k p id : Nat) (o : MemOp) (m : Memory) (pl : Place) (cf : Bool) (z : Nat),
    let c := s.core k
    let q := c.prt p
    let old : BitVec (8 * z) := BitVec.ofNat (8 * z) (m.get pl z)
    let a : BitVec (8 * z) := BitVec.ofNat (8 * z) o.a.toNat
    let b : BitVec (8 * z) := BitVec.ofNat (8 * z) o.b.toNat
    let was : Nat := if o.isNibble then old.toNat / (if o.nib then 16 else 1) % 16 else old.toNat
    let go (opc : BitVec 8) (new : BitVec (8 * z)) : Prop :=
      o.opc = opc → ∃ t, exec (.gmDataReturns k p id) s = .next t ∧
        (∀ y : Place, t.mem.get y 1 = match y.within pl z with
          | some i => new.toNat / 2 ^ (8 * i) % 256
          | none => m.get y 1) ∧
        ((t.core k).prt p).mops = q.mops.filter (fun x => x.id != o.id) ∧
        ((t.core k).prt p).fly = (q.fly.map fun f =>
          if f.seq = o.id then { f with ready := true, res := some ⟨BitVec.ofNat 8192 was, false, false⟩, res1 := none, flag := none } else f) ∧
        (t.core k).l1Find o.ia = none
    s.has k p = true → q.loadEntry id = some o → q.mopReady o = true → o.kind = .amo → o.fault = 0 → o.size = z → (z = 1 ∨ z = 4 ∨ z = 8) →
      c.seenElsewhere p o.ia.toNat z = false → s.mem.request o.ia .at z c.jobId = (m, .go pl cf) → (∀ n b, pl ≠ .own n b) →
      m.poisoned pl z = false → m.wf = true →
        go 0x10 (old + a) ∧ go 0x11 (old &&& a) ∧ go 0x12 (old ||| a) ∧ go 0x13 (old ^^^ a) ∧ go 0x14 (if a.slt old then a else old) ∧
        go 0x15 (if old.slt a then a else old) ∧ go 0x16 (if a.ult old then a else old) ∧ go 0x17 (if old.ult a then a else old) ∧
        go 0x18 a ∧ go 0x19 (if old = a then b else old) ∧
        (z = 4 → go 0x1A (BitVec.ofNat (8 * z) (fp32.pack 0 (addExact 0 (fp32.unpack old.toNat) (fp32.unpack (o.a.toNat % 2 ^ 32)))).1)) ∧
        (z = 1 → go 0x1B (BitVec.ofNat (8 * z)
          (if o.nib then old.toNat % 16 + 16 * (o.a.toNat % 16) else old.toNat / 16 * 16 + o.a.toNat % 16)))

/-- R103, R176, R267, R273: a mark from clu on leaves the L1 empty, and at sys reads the owners of stores forwarded
since the last one, and of forwarded writes of its job's engines (log 126); a fork lets its command start; a spill of a call or ret reads the count of its area and moves it
by one, with an entry written or read, and fails with RSTACK on an empty, full or damaged area; a refill loads the
entry that the search of the range table finds at FILLPTR, which moves on within 16 to 127, or reports FMISS to the
accesses that wait for it. That the reads of a sys mark end at once is log 81. -/
def Obligations.MarkSpillRefill : Prop :=
  ∀ (s : State) (k p : Nat) (o : MemOp) (x : BitVec 15) (r : Refill) (m : Nat) (s1 s2 s3 : State) (v : Nat) (e : FtbEntry),
    let c := s.core k
    let q := c.prt p
    let spa := c.spa p
    let entry (n : Nat) : Addr := spa + 0x40 + 4 * BitVec.ofNat 48 n
    let left (t : State) : Prop := ((t.core k).prt p).mops = q.mops.filter (fun z => z.id != o.id) ∧ ((t.core k).prt p).fly = q.fly ∧ t.mem = s.mem
    let spilled (y : Spill) : Prop := ∃ t, exec (.spillAccessComplete k p) s = .next t ∧ ((t.core k).prt p).spill = y
    (∀ sc, s.has k p = true → q.storeEntry = some o → o.kind = .mark sc → ∃ t, exec (.storePerformed k p) s = .next t ∧ left t ∧
      ((sc = .prt ∨ sc = .core) → (t.core k).l1 = c.l1) ∧ ((sc = .clu ∨ sc = .dev ∨ sc = .sys) → (t.core k).l1 = []) ∧
      (sc = .sys → ((t.core k).prt p).fwd = 0 ∧ ∀ n < 4, q.fwd.getLsbD n = true ∨ c.engFwd.getLsbD n = true → OutMsg.read0 n ∈ t.out) ∧
      (sc ≠ .sys → t.out = s.out)) ∧
    (∀ id, s.has k p = true → q.storeEntry = some o → o.kind = .fork id → ∃ t, exec (.storePerformed k p) s = .next t ∧ left t ∧
      (t.core k).ops = c.ops.map fun z => if z.id = id then { z with forked := true } else z) ∧
    (s.has k p = true → q.mops = [] → q.spill = .wanted true x → s.spillRead k p spa = .ok s1 m →
      (1008 < m → spilled (.failed 3 (BitVec.ofNat 64 m))) ∧ (m = 1008 → spilled (.failed 0 0)) ∧
      (m < 1008 → s1.spillWrite k p (entry m) x.toNat = .ok s2 v → s2.spillWrite k p spa (m + 1) = .ok s3 v → s3.has k p = true →
        spilled .donePush)) ∧
    (s.has k p = true → q.mops = [] → q.spill = .wanted false x → s.spillRead k p spa = .ok s1 m →
      (m = 0 → spilled (.failed 1 0)) ∧
      (0 < m → m ≤ 1008 → ∀ w, s1.spillRead k p (entry (m - 1)) = .ok s2 w → s2.spillWrite k p spa (m - 1) = .ok s3 v →
        s3.has k p = true → spilled (.donePop (BitVec.ofNat 15 w)))) ∧
    (c.refill = some r → s.readPinned k c.rangetab 8 = (s1, .ok m false) →
      rangeSearch k c.rangetab (r.va.toNat / 4096) 17 s1 0 (m % 65536) = (s2, .found e) → k < s2.cores.length →
        (e.attr.getLsbD 63 = true → ∃ t, exec (.ftbRefill k) s = .next t ∧
          let h := (s2.core k).sh
          (t.core k).sh.ftb = h.ftb.set h.fillptr (e.loaded false) ∧ (t.core k).refill = none ∧
            (t.core k).refillFault = (s2.core k).refillFault ∧
            (16 ≤ h.fillptr → h.fillptr < 128 → (t.core k).sh.fillptr = if h.fillptr = 127 then 16 else h.fillptr + 1)) ∧
        (e.attr.getLsbD 63 = false → ∃ t, exec (.ftbRefill k) s = .next t ∧ (t.core k).sh.ftb = (s2.core k).sh.ftb ∧
          (t.core k).refill = none ∧ (t.core k).refillFault = (s2.core k).refillFault ++ (r.prt :: r.also).map fun w => (w, r.va, 0x02)))

/-- R75, R402, R408, R409: a queue entry becomes visible 8 FCLK after its push at the earliest, behind those before it;
a partition or a codec engine that has waited 4,096 ACLK on a port sends one token. A token that returns over a cycle
with a full port whose reserve entry is free grants that port its reserve entry, once, and logs DEADLOCK with SUB 0
in the region of its origin's job. A cycle over one whose reserve entry is in use changes no port: it logs DEADLOCK
with SUB 1, and its jobs are to be ended (log 120); and no cycle of waits is without a full port. A port that has been granted its reserve
entry already changes nothing more, nor does a token that comes back no more. That a token travels at the instant of
its return is log 12. -/
def Obligations.QueueProbeEvents : Prop :=
  ∀ (s : State) (clu port : Nat) (xs ys : List HqEntry) (y : HqEntry) (k p n i c : Nat) (tk : Probe),
    let q := hqAt (s.cluster clu).hq port
    let s' : State := { s with probes := s.probes.filter fun x => x.id != tk.id }
    let returns : Prop := s.probes.find? (fun x => x.id == tk.id) = some tk
    let full := hqAt (s.cluster tk.clu).hq i
    let there : Prop := tk.clu < s.clusters.length ∧ i < (s.cluster tk.clu).hq.length
    let popper (e : Nat) : Option EngineOp := (s.core (8 * e + 7)).ops.find? fun o => o.popping
    let region : Nat := match tk.origin with
      | .partition j _ => (match (s.core j).job with | some x => descRegion x.desc | none => 0)
      | .codec e => (match popper e with | some o => s.opRegion (8 * e + 7) o | none => 0)
    let job : Nat := match tk.origin with
      | .partition j _ => (match (s.core j).job with | some x => (descJob x.desc).toNat | none => 0)
      | .codec e => (match popper e with | some o => o.job.toNat | none => 0)
    let seq := s.dev.flogseq.getD region 0
    let logged (t : State) (sub : Nat) : Prop :=
      region < s.dev.flog.length → region < s.dev.flogseq.length → (∀ g ∈ s.sched.graphs, ∀ j, g.stream = some j → j < 1024) →
        t.dev.flogseq.getD region 0 = seq + 1 ∧ ∃ r ∈ t.dev.flog.getD region [], fld r.dw0 56 8 = 8 ∧ fld r.dw0 48 8 = sub ∧
          fld r.dw1 0 32 = seq.toNat ∧ fld r.dw1 32 32 = job
    let unresolved : Prop := ∃ t, exec (.probeTokenReturn tk.id) s = .next t ∧ t.clusters = s.clusters ∧ t.probes = s'.probes ∧
      logged t 1 ∧ (∀ x ∈ s'.onCycle tk.origin (some i), ∀ j, s'.partyJob x = some j → j ∈ t.sched.ending) ∧
      ∀ j ∈ t.sched.ending, j ∈ s.sched.ending ∨ ∃ x ∈ s'.onCycle tk.origin (some i), s'.partyJob x = some j
    (clu < s.clusters.length → port < (s.cluster clu).hq.length → q.ents = xs ++ y :: ys → (∀ x ∈ xs, x.vis = true) → y.vis = false →
      (8 ≤ y.age → ∃ t, exec (.queueEntryVisible clu port) s = .next t ∧
        (hqAt (t.cluster clu).hq port).ents = xs ++ { y with vis := true } :: ys ∧ t.cores = s.cores ∧ t.mem = s.mem ∧
        ∀ j, j ≠ port → hqAt (t.cluster clu).hq j = hqAt (s.cluster clu).hq j) ∧
      (y.age < 8 → exec (.queueEntryVisible clu port) s = .next s)) ∧
    (s.has k p = true → ((s.core k).prt p).probed = false → s.waitsOn (.partition k p) = some (i, n) →
      (4096 ≤ n → ∃ t, exec (.probeTokenSend (.partition k p)) s = .next t ∧ ((t.core k).prt p).probed = true ∧
        t.probes = s.probes ++ [⟨s.probeId, k / 8, .partition k p⟩] ∧ t.mem = s.mem) ∧
      (n < 4096 → exec (.probeTokenSend (.partition k p)) s = .next s)) ∧
    (((s.core k).prt p).probed = true → exec (.probeTokenSend (.partition k p)) s = .next s) ∧
    (c < s.clusters.length → (s.cluster c).codecProbed = false → s.waitsOn (.codec c) = some (i, n) → 4096 ≤ n →
      ∃ t, exec (.probeTokenSend (.codec c)) s = .next t ∧ (t.cluster c).codecProbed = true ∧
        t.probes = s.probes ++ [⟨s.probeId, c, .codec c⟩] ∧ t.cores = s.cores ∧ t.mem = s.mem) ∧
    (returns → s'.cycles tk.origin = [some i] → there → full.granted = false → full.reserve = false →
      ∃ t, exec (.probeTokenReturn tk.id) s = .next t ∧ (hqAt (t.cluster tk.clu).hq i).granted = true ∧
        (hqAt (t.cluster tk.clu).hq i).ents = full.ents ∧ t.probes = s'.probes ∧ logged t 0 ∧ t.sched = s.sched ∧
        ∀ j, j ≠ i → hqAt (t.cluster tk.clu).hq j = hqAt (s.cluster tk.clu).hq j) ∧
    (returns → s'.cycles tk.origin = [some i] → full.granted = true → exec (.probeTokenReturn tk.id) s = .next s') ∧
    (returns → s'.cycles tk.origin = [some i] → full.granted = false → full.reserve = true → unresolved) ∧
    none ∉ s.cycles tk.origin ∧
    (returns → s'.cycles tk.origin = [] → exec (.probeTokenReturn tk.id) s = .next s')

/-! ### Engines -/

/-- R119, R245, R246, R248 to R254, R257 to R260, R318, R380: an engine starts the head of its queue once its earlier
stores have been performed and its pacing has passed; a malformed command fails with HBAD, one out of range with BOUND.
An operation that completes leaves its queue, adds SINC to its semaphore and posts its record with its status and
results. An mq releases its sources once, and when it completes raises the flags of its result in its issuer's FPCSR
(R95); no bytes are left counted beside memory then (R296); a copyf that has copied puts its follow-on behind the matrix
queue. The bytes: a copy of one run moves it between memory, core store and register space, its pieces of one line; runs
between the two spaces of a core are made in loop order, the last naming of a byte winning; gath fills its elements,
scat writes one, awalk gives the walk of a position; a collective writes its contribution at its start, and one of two
members gives each the sum, maximum, minimum or root's elements; enc and dec write what the coder gives, with VAL1 and
VAL2, RINGFULL or BITSTREAM; fill, evict and wback move the line of a slot and change its tag. When an operation makes
its accesses is log 41, VAL1 of BOUND and of an error without an address log 39, log 144, and that a follow-on signals
nothing log 36. -/
def Obligations.EngineOperations : Prop :=
  ∀ (s : State) (k eng id : Nat) (o : EngineOp),
    let c := s.core k
    k < s.cores.length →
      ((c.startable k eng = some o → c.ops.find? (fun x => x.id == o.id) = some o →
          let started (st : BitVec 8) (v1 : Word) : Prop := ∃ t, exec (.engineOpStart k eng) s = .next t ∧
            (t.core k).op? o.id = some { o with phase := .running, status := st, val1 := v1, val2 := if st = 0 then o.val2 else 0 } ∧
              t.mem = s.mem ∧ (t.core k).prts = c.prts ∧ (t.core k).sh = c.sh ∧
              (t.core k).paceAge = c.paceAge.set o.op.codes.1.toNat 0
          (o.malformed k c.sh = true → started 0x06 0) ∧
          (∀ a, o.malformed k c.sh = false → o.outOfRange c.sh = some a → started 0x08 (BitVec.ofNat 64 a)) ∧
          (o.malformed k c.sh = false → o.outOfRange c.sh = none → o.status = 0 →
            (∃ d, o.op = .copy d ∨ o.op = .copyf d) ∨ o.op = .gath ∨ o.op = .scat ∨ o.op = .awalk ∨ o.op = .post → started 0 o.val1)) ∧
      (c.op? id = some o → o.id = id → (o.phase = .running ∨ o.phase = .released) → opInOrder c o = true → o.left = none → o.parent = none →
        (∀ t, s.opEffect k o = some (t, o) → t.core k = c →
          ((∀ d, o.op ≠ .copyf d) ∨ o.status ≠ 0) → o.op ≠ .enc → o.op ≠ .dec →
          ∃ u, exec (.engineOpComplete k id) s = .next u ∧ (u.core k).ops = c.ops.filter (fun x => x.id != id) ∧
            (u.core k).semAdds = (if o.fields.sinc = 0 then c.semAdds else c.semAdds ++ [(o.fields.ssem.toNat, (o.fields.sinc.toNat : Int))]) ∧
            (u.core k).prts = c.prts ∧ u.mem = { t.mem with traffic := [] } ∧
            (o.posts = true → c.sh.evq.length < 64 → (u.core k).sh.evq = c.sh.evq ++
              [⟨at' 60 o.op.codes.1.toNat ||| at' 56 o.op.codes.2.toNat ||| at' 48 o.status.toNat ||| at' 44 o.prt |||
                  (if o.op = .post then o.fields.imm.setWidth 64 else 0),
                o.val1, o.val2, at' 32 o.job.toNat ||| c.evseq.setWidth 64⟩]) ∧
            (o.posts = false → (u.core k).sh.evq = c.sh.evq)) ∧
        (o.op = .post → s.opEffect k o = some (s, o)) ∧ (o.status ≠ 0 → o.op = .awalk → s.opEffect k o = some (s, o))) ∧
      (c.op? id = some o → o.id = id → o.op = .mq → o.phase = .released → o.status = 0 → opInOrder c o = true → o.left = none →
        o.parent = none → o.prt < c.prts.length → ∃ u, exec (.engineOpComplete k id) s = .next u ∧
          (u.core k).ops = c.ops.filter (fun x => x.id != id) ∧ ((u.core k).prt o.prt).fpf = (c.prt o.prt).fpf ||| o.fl ∧
          u.mem = { s.mem with traffic := [] } ∧ ∀ j, j ≠ o.prt → (u.core k).prt j = c.prt j) ∧
      (c.op? id = some o → o.op = .mq → o.phase = .running → o.status = 0 → ∃ t, exec (.mqSourcesReleased k id) s = .next t ∧
        (t.core k).op? id = some { o with phase := .released } ∧
        (t.core k).semAdds = (if fld (o.dw 0) 20 4 = 0 then c.semAdds else c.semAdds ++ [(fld (o.dw 0) 24 8, (fld (o.dw 0) 20 4 : Int))]) ∧
        (t.core k).sh = c.sh ∧ t.mem = s.mem) ∧
      (c.op? id = some o → o.phase = .copied → c.engineLoad 3 < 16 → (∀ x ∈ c.ops, x.parent ≠ some id) →
        ∃ t y, exec (.copyfFollowOn k id) s = .next t ∧ (t.core k).ops = c.ops ++ [y] ∧ y.op = .mq ∧ y.block = o.block2 ∧
          y.parent = some id ∧ y.phase = .queued ∧ y.prt = o.prt ∧ y.job = o.job ∧ y.fields.sinc = 0 ∧ y.id = c.opId ∧
          (t.core k).sh = c.sh ∧ (t.core k).prts = c.prts ∧ t.mem = s.mem) ∧
      (c.ftbReload = false →
        let h := c.sh
        let at1 (n : Nat) (i w : Nat) : Nat := fld (o.dw n) i w
        let reads (j : Nat) (m : Memory) (va n : Nat) (m' : Memory) (x : Nat) : Prop := ∃ ia l pl cf,
          ftbLookup (s.core j).sh.ftb (BitVec.ofNat 48 va) .rd = .ok ia l ∧ (s.core j).ftbReload = false ∧ 0 < n ∧ va % 128 + n ≤ 128 ∧
            m.request ia .rd n (s.core j).jobId = (m', .go pl cf) ∧ m'.poisoned pl n = false ∧ x = m'.get pl n
        let writes (m : Memory) (va n : Nat) (m' : Memory) (pl : Place) : Prop := ∃ ia l cf,
          ftbLookup h.ftb (BitVec.ofNat 48 va) .wr = .ok ia l ∧ 0 < n ∧ va % 128 + n ≤ 128 ∧ m.request ia .wr n c.jobId = (m', .go pl cf)
        let stored (t : State) (m : Memory) (pl : Place) (n : Nat) (x : Nat → Nat) : Prop :=
          ∀ y : Place, t.mem.get y 1 = match y.within pl n with | some i => x i | none => m.get y 1
        let space (old new : List Host.Cell) (a n : Nat) (x : Nat → Byte) : Prop :=
          ∀ b, Cells.byte new b = if a ≤ b ∧ b < a + n then x (b - a) else Cells.byte old b
        let byteOf (x i : Nat) : Nat := x / 2 ^ (8 * i) % 256
        let unpoisoned (a n : Nat) : Prop := ∀ i < n, Cells.byte h.regPsn (a + i) = 0
        let ends (P : State → Prop) : Prop := ∃ u, exec (.engineOpComplete k id) s = .next u ∧
          (u.core k).ops = c.ops.filter (fun x => x.id != id) ∧ P u
        let posted (u : State) (st : Nat) (v1 v2 : Word) : Prop := h.evq.length < 64 → (u.core k).sh.evq = h.evq ++
          [⟨at' 60 o.op.codes.1.toNat ||| at' 56 o.op.codes.2.toNat ||| at' 48 st ||| at' 44 o.prt ||| o.fnum.setWidth 64,
            v1, v2, at' 32 o.job.toNat ||| c.evseq.setWidth 64⟩]
        let runs : Prop := c.op? id = some o ∧ o.id = id ∧ o.phase = .running ∧ o.status = 0 ∧ opInOrder c o = true ∧ o.left = none ∧
          o.parent = none
        let begins (P : State → Prop) : Prop := ∃ t, exec (.engineOpStart k eng) s = .next t ∧ P t
        let head : Prop := c.startable k eng = some o ∧ c.ops.find? (fun x => x.id == o.id) = some o ∧ o.malformed k h = false ∧
          o.outOfRange h = none ∧ o.left = none
        -- copy
        (runs → ∀ d : Fin 3, o.op = .copy d →
          let n := at1 2 0 32
          let sa := at1 0 0 48
          let da := at1 1 0 48
          let sk := at1 0 62 2
          let dk := at1 1 62 2
          (d = 0 → at1 2 32 32 = 0 → 0 < n → sa % 128 + n ≤ 128 → da % 128 + n ≤ 128 → ∀ (m : Memory) (x : Nat → Nat),
            (sk = 0 ∧ (∃ v, reads k s.mem sa n m v ∧ x = byteOf v)) ∨
              (sk = 1 ∧ sa < 1048576 ∧ csPoisoned h sa n = false ∧ m = s.mem ∧ x = fun i => (Cells.byte h.cs (sa + i)).toNat) ∨
              (sk = 2 ∧ sa < 196608 ∧ unpoisoned sa n ∧ m = s.mem ∧ x = fun i => (Cells.byte h.reg (sa + i)).toNat) →
            (∀ m' pl, dk = 0 → writes m da n m' pl → ends fun u => stored u m' pl n x ∧ (u.core k).sh.reg = h.reg ∧ (u.core k).sh.cs = h.cs) ∧
            (dk = 1 → da < 1048576 → ends fun u => space h.cs (u.core k).sh.cs da n (fun i => BitVec.ofNat 8 (x i)) ∧
              (u.core k).sh.reg = h.reg ∧ (u.core k).sh.tags = h.tags ∧ u.mem = { m with traffic := [] }) ∧
            (dk = 2 → da < 196608 → ends fun u => space h.reg (u.core k).sh.reg da n (fun i => BitVec.ofNat 8 (x i)) ∧
              (u.core k).sh.cs = h.cs ∧ u.mem = { m with traffic := [] })) ∧
          (let at2 (i1 i2 : Nat) : Int × Int := ((sa : Int) + i1 * (BitVec.ofNat 32 (at1 3 32 32)).toInt + i2 * (BitVec.ofNat 32 (at1 4 32 32)).toInt,
              (da : Int) + i1 * (BitVec.ofNat 32 (at1 3 0 32)).toInt + i2 * (BitVec.ofNat 32 (at1 4 0 32)).toInt)
            let rs := (List.range (max (at1 2 48 16) 1)).flatMap fun i2 => (List.range (max (at1 2 32 16) 1)).map fun i1 => at2 i1 i2
            let fits (top : Nat) (a : Int) : Prop := 0 ≤ a ∧ a % 128 + (n : Int) ≤ 128 ∧ a < (top : Int)
            let last (b : Nat) : Option (Int × Int) := (rs.filter fun (r : Int × Int) => decide (r.2 ≤ (b : Int)) && decide ((b : Int) < r.2 + (n : Int))).getLast?
            (sk = 1 → dk = 2 → 0 < n → (∀ r ∈ rs, fits 1048576 r.1 ∧ fits 196608 r.2 ∧ csPoisoned h r.1.toNat n = false) →
              ends fun u => u.mem = { s.mem with traffic := [] } ∧ ∀ b : Nat, Cells.byte (u.core k).sh.reg b =
                match last b with | some r => Cells.byte h.cs (r.1 + ((b : Int) - r.2)).toNat | none => Cells.byte h.reg b) ∧
            (sk = 2 → dk = 1 → 0 < n → (∀ r ∈ rs, fits 196608 r.1 ∧ fits 1048576 r.2 ∧ unpoisoned r.1.toNat n) →
              ends fun u => u.mem = { s.mem with traffic := [] } ∧ (u.core k).sh.tags = h.tags ∧ ∀ b : Nat, Cells.byte (u.core k).sh.cs b =
                match last b with | some r => Cells.byte h.reg (r.1 + ((b : Int) - r.2)).toNat | none => Cells.byte h.cs b))) ∧
        -- gath, scat and awalk
        (runs →
          let z := at1 2 32 32
          let off := at1 2 0 18
          let va (i : Nat) : Nat := (at1 0 0 48 + bytesNat ((o.sampled.drop (4 * i)).take 4) * at1 3 0 32) % 2 ^ 48
          (o.op = .gath → ∀ (ms : Nat → Memory) (xs : Nat → Nat), ms 0 = s.mem →
            (∀ i < at1 1 32 32, reads k (ms i) (va i) z (ms (i + 1)) (xs i)) →
            ends fun u => u.mem = { ms (at1 1 32 32) with traffic := [] } ∧
              space h.reg (u.core k).sh.reg off (at1 1 32 32 * z) (fun i => BitVec.ofNat 8 (byteOf (xs (i / z)) (i % z)))) ∧
          (∀ m pl, o.op = .scat → at1 1 32 32 = 1 → unpoisoned off z → writes s.mem (va 0) z m pl →
            ends fun u => stored u m pl z (fun i => (Cells.byte h.reg (off + i)).toNat) ∧ (u.core k).sh.reg = h.reg) ∧
          (∀ m1 m2 m3 hd nd le pl2 pl3 c2 c3, o.op = .awalk → at1 1 32 32 = 1 → reads k s.mem (at1 0 0 48) 16 m1 hd →
            let at64 (x i : Nat) : Word := BitVec.ofNat 64 (x / 2 ^ (64 * i))
            let depth := fld (at64 hd 0) 52 6
            let good : Prop := fld (at64 hd 0) 48 4 = 0 ∧ fld (at64 hd 0) 58 6 = 0 ∧ 1 ≤ depth ∧ depth ≤ 32
            let pos := at1 1 0 32
            let start := fld (at64 nd 0) 32 32
            let j := (pos - start) / 64
            let base := fld (at64 nd 1) 32 32 + 64 * j
            let root : Addr := BitVec.ofNat 48 (fld (at64 hd 0) 0 48)
            let ea : Addr := BitVec.ofNat 48 (fld (at64 nd 6) 0 48 + 8 * j)
            let gives (m : Memory) (bs : List Byte) : Prop := ends fun u => u.mem = { m with traffic := [] } ∧
              space h.reg (u.core k).sh.reg (at1 2 0 18) 24 (fun i => bs.getD i 0)
            (¬good → gives m1 (natBytes 16 0 ++ natBytes 8 (3 * 2 ^ 56))) ∧
            (good → iaReserved root = false → m1.request root .rd 64 c.jobId = (m2, .go pl2 c2) → m2.poisoned pl2 64 = false → nd = m2.get pl2 64 →
              ((at64 nd 1).getLsbD 6 = false → gives m2 (natBytes 16 0 ++ natBytes 8 (1 * 2 ^ 56))) ∧
              ((at64 nd 1).getLsbD 6 = true → start ≤ pos → pos - start < fld (at64 nd 0) 0 32 → iaReserved ea = false →
                m2.request ea .rd 8 c.jobId = (m3, .go pl3 c3) → m3.poisoned pl3 8 = false → le = m3.get pl3 8 →
                  gives m3 (natBytes 8 (le % 2 ^ 48) ++
                    natBytes 8 ((if 2 ^ 32 ≤ base then 2 ^ 33 else 0) + (if (at64 nd 1).getLsbD 5 then 2 ^ 32 else 0) + base % 2 ^ 32) ++
                    natBytes 8 (at' 32 (j % 65536) ||| at' 0 ((pos - start) % 64) : Word).toNat))))) ∧
        -- collectives
        (let size (e : Nat) : Nat := if e = 0xB then 2 else 4
          let z := size (at1 2 0 4)
          let n := at1 1 32 32
          let place (r : Nat) : Nat := at1 0 0 48 + 128 + r * ((n * z + 127) / 128 * 128)
          let off := at1 1 0 18
          (∀ j m pl, head → c.job = some j → o.op = .cred ∨ o.op = .cbc → unpoisoned off (n * z) → writes s.mem (place (descRank j.desc)) (n * z) m pl →
            begins fun t => stored t m pl (n * z) (fun i => (Cells.byte h.reg (off + i)).toNat) ∧
              (t.core k).op? o.id = some { o with phase := .running }) ∧
          (c.op? id = some o → o.id = id → o.phase = .released → o.status = 0 → o.left = none → o.parent = none → o.op = .cred ∨ o.op = .cbc →
            opInOrder c o = true → ends fun u => u.mem = { s.mem with traffic := [] } ∧
              space h.reg (u.core k).sh.reg off o.outs.length (fun i => o.outs.getD i 0)) ∧
          (∀ (i : Nat) (x : EngineOp) (j : Job), runs → c.job = some j → descSize j.desc = 2 → s.gangCores k = [(k, 0), (i, 1)] → i ≠ k →
            i < s.cores.length → c.collPeer k o = some o → (s.core i).collPeer i o = some x → (s.core i).op? x.id = some x → x.status = 0 →
            x.op = o.op → fld (x.dw 1) 32 32 = n → fld (x.dw 2) 0 8 = at1 2 0 8 → (s.collForm k o).isSome = true →
            let got (u : State) (f g : Nat → Nat) : Prop := (∀ l < n, Cells.nat (u.core k).sh.reg (off + z * l) z = f l) ∧
              ∃ y, (u.core i).op? x.id = some y ∧ y.phase = .released ∧ y.status = 0 ∧ y.outs.length = n * z ∧
                ∀ l < n, lane (8 * z) (bytesNat y.outs) l = g l
            let A (v l : Nat) : BitVec 32 := BitVec.ofNat 32 (lane (8 * z) v l)
            let F : Fmt := if at1 2 0 4 = 0xB then bf16 else fp32
            let sum (v w l : Nat) : Nat := match at1 2 0 4, at1 2 4 4 with
              | 5, 0 | 6, 0 => (A v l + A w l).toNat
              | 5, 1 => (if (A v l).slt (A w l) then A w l else A v l).toNat
              | 6, 1 => max (A v l).toNat (A w l).toNat
              | 5, _ => (if (A w l).slt (A v l) then A w l else A v l).toNat
              | 6, _ => min (A v l).toNat (A w l).toNat
              | _, 0 => (F.pack 0 (addExact 0 (F.unpack (lane (8 * z) v l)) (F.unpack (lane (8 * z) w l)))).1 % 2 ^ (8 * z)
              | _, 1 => (fminmax F true (lane (8 * z) v l) (lane (8 * z) w l)).1 % 2 ^ (8 * z)
              | _, _ => (fminmax F false (lane (8 * z) v l) (lane (8 * z) w l)).1 % 2 ^ (8 * z)
            (∀ m1 m2 m3 m4 v w v' w', o.op = .cred → reads k s.mem (place 0) (n * z) m1 v → reads k m1 (place 1) (n * z) m2 w →
              reads i m2 (place 0) (n * z) m3 v' → reads i m3 (place 1) (n * z) m4 w' → ends fun u => got u (sum v w) (sum v' w')) ∧
            (∀ m1 m2 v v', o.op = .cbc → at1 2 8 6 = fld (x.dw 2) 8 6 → at1 2 8 6 < 2 → reads k s.mem (place (at1 2 8 6)) (n * z) m1 v →
              reads i m1 (place (at1 2 8 6)) (n * z) m2 v' → ends fun u => got u (lane (8 * z) v) (lane (8 * z) v')))) ∧
        -- enc and dec
        (∀ (s1 s2 s3 : State) (d q r : Nat), runs → o.op = .enc → o.popping = false → s.codecRetired k = false →
          let sess := o.sampled
          let buf := at1 1 0 48
          let qn := (sessWidth sess + 63) / 64 * ((sessHeight sess + 63) / 64)
          s.engReadClean k buf 32 = .ok s1 d → (if at1 2 0 48 = 0 then s2 = s1 ∧ q = 0 else s1.engReadClean k (at1 2 0 48) qn = .ok s2 q) →
          s2.engReadClean k (sessRef sess) (sessRefBytes sess) = .ok s3 r →
          let w (i : Nat) : Word := BitVec.ofNat 64 (d / 2 ^ (64 * i))
          let task := o.encTask (natBytes (sessRefBytes sess) r) (if at1 2 0 48 = 0 then none else some (natBytes qn q))
          let px := sessSamples sess (entryBytes (o.luma ++ o.chroma))
          let pay := Config.codec.enc task px
          let au := natBytes 8 (pay.length % 2 ^ 32 + o.fnum.toNat * 2 ^ 32) ++ natBytes 8 (if sessIsKey sess o.fnum.toNat then 1 else 0) ++ pay ++
            List.replicate ((16 - pay.length % 16) % 16) 0
          let full : Prop := (w 1).toNat < (w 2 - w 3).toNat + au.length
          (∀ s4, full → s3.engWrite k (at1 0 0 48 + 28) 4 1 = .ok s4 () →
            ends fun u => u.mem = { s4.mem with traffic := [] } ∧ posted u 9 0 0) ∧
          (∀ s4 s5 s6 s7 a v, ¬full → (w 2).toNat % (w 1).toNat + au.length ≤ (w 1).toNat → s.encode State.engAsk k o = .ok a v →
            s3.engWrite k (fld (w 0) 0 48 + (w 2).toNat % (w 1).toNat) au.length (bytesNat au) = .ok s4 () →
            s4.engWrite k (sessRef sess) (sessRefBytes sess) (bytesNat ((Config.codec.encRef task px).take (sessRefBytes sess))) = .ok s5 () →
            s5.engWrite k (buf + 16) 8 (((w 2).toNat + au.length) % 2 ^ 64) = .ok s6 () →
            s6.engWrite k (at1 0 0 48 + 24) 8 o.fnum.toNat = .ok s7 () →
              ends fun u => u.mem = { s7.mem with traffic := [] } ∧ posted u 0 (BitVec.ofNat 64 pay.length) (w 2))) ∧
        (∀ (s1 s2 : State) (x r : Nat), runs → o.op = .dec → s.codecRetired k = false →
          let sess := o.sampled
          s.engReadClean k (at1 1 0 48) (at1 3 32 32) = .ok s1 x → s1.engReadClean k (sessRef sess) (sessRefBytes sess) = .ok s2 r →
          let inp := natBytes (at1 3 32 32) x
          let ref := natBytes (sessRefBytes sess) r
          let n := sessWidth sess * sessSample sess
          let rows := sessHeight sess + sessHeight sess / 2
          let next := bytesNat ((Config.codec.decRef (sessProf sess) (sessWidth sess) (sessHeight sess) ref inp).take (sessRefBytes sess))
          (∀ s3, Config.codec.dec (sessProf sess) (sessWidth sess) (sessHeight sess) ref inp = none → s2.decScrap k o = .ok s3 () →
            ends fun u => u.mem = { s3.mem with traffic := [] } ∧ posted u 0x0A 0 0) ∧
          (∀ (px : List Byte) (ts : Nat → State) (a1 a2 w1 w2 : State),
            Config.codec.dec (sessProf sess) (sessWidth sess) (sessHeight sess) ref inp = some px → ts 0 = s2 →
            (∀ i < rows, (ts i).engWrite k (at1 2 0 48 + i * sessPitch sess) n (bytesNat ((px.drop (i * n)).take n)) = .ok (ts (i + 1)) ()) →
            (ts rows).engAsk k (sessRef sess) (sessRefBytes sess) next = .ok a1 () → a1.engAsk k (at1 0 0 48 + 24) 4 o.fnum.toNat = .ok a2 () →
            (ts rows).engWrite k (sessRef sess) (sessRefBytes sess) next = .ok w1 () → w1.engWrite k (at1 0 0 48 + 24) 4 o.fnum.toNat = .ok w2 () →
              ends fun u => u.mem = { w2.mem with traffic := [] } ∧
                posted u 0 (BitVec.ofNat 64 (Config.pictureBytes (sessProf sess) (sessWidth sess) (sessHeight sess))) 0)) ∧
        -- the tag engine
        (let slot := o.fields.imm.toNat % 8192
          let e := tagGet h.tags slot
          let tagged (t : State) (x : TagEntry) : Prop := tagGet (t.core k).sh.tags slot = x ∧
            ∀ i, i ≠ slot → tagGet (t.core k).sh.tags i = tagGet h.tags i
          let lineVa := at1 0 7 41 * 128
          let line := Cells.nat h.cs (128 * slot) 128
          let backed : Prop := e.v = true ∧ e.pin = false
          let ia : Addr := BitVec.ofNat 48 (e.tag.toNat * 65536 + slot / 16 * 128)
          (head → o.op = .fill →
            (∀ ia l, ftbLookup h.ftb (BitVec.ofNat 48 lineVa) .rd = .ok ia l →
              begins fun t => tagged t ⟨true, false, false, true, BitVec.ofNat 32 (ia.toNat / 65536), false⟩ ∧
                (t.core k).op? o.id = some { o with phase := .running, ia := ia } ∧ (t.core k).sh.cs = h.cs ∧ t.mem = s.mem) ∧
            (∀ st, ftbLookup h.ftb (BitVec.ofNat 48 lineVa) .rd = .fault st →
              begins fun t => tagged t { e with v := false, pin := false, dirty := false, busy := false } ∧
                (t.core k).op? o.id = some { o with phase := .running, status := st, val1 := BitVec.ofNat 64 lineVa, val2 := 0 })) ∧
          (head → o.op = .evict ∨ o.op = .wback → begins fun t => tagged t { e with busy := true, hit := false } ∧ t.mem = s.mem ∧
            (t.core k).op? o.id = some { o with phase := .running }) ∧
          (∀ m pl cf, runs → o.op = .fill → s.mem.request o.ia .rd 128 c.jobId = (m, .go pl cf) → m.poisoned pl 128 = false →
            ends fun u => space h.cs (u.core k).sh.cs (128 * slot) 128 (fun i => BitVec.ofNat 8 (byteOf (m.get pl 128) i)) ∧
              tagged u { e with busy := false } ∧ u.mem = { m with traffic := [] }) ∧
          (runs → o.op = .evict →
            let gone : TagEntry := { e with v := false, pin := false, dirty := false, busy := false, hit := false }
            (∀ m pl cf, backed → e.dirty = true → s.mem.request ia .wr 128 c.jobId = (m, .go pl cf) →
              ends fun u => stored u m pl 128 (byteOf line) ∧ tagged u gone) ∧
            (¬(backed ∧ e.dirty = true) → ends fun u => u.mem = { s.mem with traffic := [] } ∧ tagged u gone)) ∧
          (runs → o.op = .wback →
            (∀ m pl cf, backed → s.mem.request ia .wr 128 c.jobId = (m, .go pl cf) →
              ends fun u => stored u m pl 128 (byteOf line) ∧ tagged u { e with dirty := e.dirty && e.hit, busy := false, hit := false } ∧
                (u.core k).sh.cs = h.cs) ∧
            (¬backed → ends fun u => u.mem = { s.mem with traffic := [] } ∧ tagged u { e with dirty := false, busy := false, hit := false })))))

/-- R355 to R358, R370: a patch operation whose ENTRY is zero changes no value and acts on the partition that it names:
ACT 0 leaves it trapped, 1 clears its trap so that the trapped group issues again, 2 restarts it at RGNADDR with
what was in flight dropped, and 3 ends its job, whose core is then free. With an ENTRY in the ring the reply takes the
place of what carries the entry's INDEX in a live job: the latch of its unit and the hold entries, of a walk all three
latches; of a gath element the bytes of the register space, clean. The entry's V is cleared at its home, and one entry
of its job is valid no more. -/
def Obligations.PatchActs : Prop :=
  ∀ (s : State) (o : EngineOp) (j p : Nat) (x : Job) (trap : TrapInfo),
    let q := (s.core j).prt p
    let ready (act : Nat) : Prop := s.patchHead = some o ∧ o.forked = true ∧ (s.core 0).paced 7 = true ∧ fld (o.dw 0) 62 2 = act ∧
      fld (o.dw 0) 40 4 = p ∧ o.dw 1 = 0 ∧ patchStray o.block = false ∧ o.left = none ∧ o.parent = none
    let gone (t : State) : Prop := ∀ y ∈ (t.core 0).ops, y.id ≠ o.id
    let kept (t : State) : Prop := t.mem = { s.mem with traffic := [] }
    0 < s.cores.length → s.has j p = true → (s.core j).job = some x → x.phase = .running → (o.dw 0).setWidth 32 = descJob x.desc →
      s.whereIs (descJob x.desc) = .live j → s.restoring (descJob x.desc) = false → q.trap = some trap →
        (ready 0 → ∃ t, exec .patchApplyPatch s = .next t ∧ gone t ∧ (t.core j).prt p = q ∧ kept t) ∧
        (ready 1 → ∃ t, exec .patchApplyReissue s = .next t ∧ gone t ∧ kept t ∧
          let r := (t.core j).prt p
          r.trap = none ∧ r.pc = q.pc ∧ r.left = q.left ∧ r.fly = q.fly ∧ r.secs = q.secs ∧ RegistersKept { q with trap := none } r ∧ r.units = q.units) ∧
        (ready 2 → ∃ t, exec .patchApplyRestart s = .next t ∧ gone t ∧ kept t ∧
          let r := (t.core j).prt p
          r.trap = none ∧ r.pc = q.rgnPc ∧ r.left = q.rgnWrem.toNat ∧ r.fly = [] ∧ r.transfer = none ∧ r.loop.active = false ∧
            r.ofile = q.ofile ∧ r.units = q.units ∧ r.preds = q.preds ∧ r.views = q.views ∧
            (t.core j).locked.getLsbD p = false) ∧
        (ready 3 → j ≠ 0 → (∀ i < 12, ((s.core j).prt i).mops = []) → (s.core j).jobOps = [] → s.graph? x.inst = none →
          ∃ t, exec .patchApplyEndJob s = .next t ∧ gone t ∧ (t.core j).job = none ∧ (∀ i, (t.core j).prt i = .empty) ∧
            t.mem.gddr = s.mem.gddr) ∧
        (∀ (m m2 : Memory) (s1 : State) (y v : Nat) (pl : Place) (cf : Bool) (u : UnitName),
          let ia := fld (o.dw 1) 0 48
          let dw (i : Nat) : Word := BitVec.ofNat 64 (y / 2 ^ (64 * i))
          let kind := fld (dw 0) 60 3
          let off := fld (dw 4) 0 18
          let size := min (fld (dw 4) 32 32) (196608 - off)
          let carries (z : Slot) : Bool := z.psn && z.bits.toNat % 2 ^ 32 == fld (dw 5) 0 32
          let clean (x : Nat) : Slot := ⟨BitVec.ofNat 8192 x, false, false⟩
          let done (P : Core → Prop) : Prop := ∃ t, exec .patchApplyPatch s = .next t ∧ gone t ∧ t.mem = { m2 with traffic := [] } ∧
            (t.core j).ringValid = (s.core j).ringValid - 1 ∧ P (t.core j)
          let mine : Prop := (ctxOf j p).unitOf (BitVec.ofNat 6 (fld (dw 0) 50 6)) = some u ∧ q.units.length = 25
          let latched (d : Core) (f : UnitRegs → UnitRegs) (g : Fly → Fly) : Prop :=
            let r := d.prt p
            (r.unit u = if carries (q.unit u).res then f (q.unit u) else q.unit u) ∧ (∀ w, w ≠ u → r.unit w = q.unit w) ∧ r.trap = q.trap ∧
              r.fly = q.fly.map fun x => match x.res with
                | some z => if x.unit = u ∧ carries z = true then g x else x
                | none => x
          s.patchHead = some o → o.forked = true → (s.core 0).paced 7 = true → fld (o.dw 0) 62 2 = 0 → patchStray o.block = false →
            o.left = none → o.parent = none → ia ≠ 0 → s.mem.devRead ia 64 = (m, .ok y false) → (dw 0).getLsbD 63 = true →
            (dw 0).setWidth 32 = descJob x.desc → fld (dw 0) 56 4 = p →
            { s.modCore 0 (fun c => { c with paceAge := c.paceAge.set 7 0 }) with mem := m }.engReadClean 0 (fld (o.dw 2) 0 48)
              (if kind = 3 then size else if kind = 4 then 24 else 128) = .ok s1 v →
            s1.mem.devWrite ia 8 (fld (dw 0) 0 63) = (m2, .go pl cf) →
              (kind = 3 → done fun d => d.prt p = q ∧
                (∀ b, Cells.byte d.sh.reg b = if off ≤ b ∧ b < off + size then BitVec.ofNat 8 (v / 2 ^ (8 * (b - off))) else Cells.byte (s.core j).sh.reg b) ∧
                ∀ b, Cells.byte d.sh.regPsn b = if off ≤ b ∧ b < off + size then 0 else Cells.byte (s.core j).sh.regPsn b) ∧
              (kind ≠ 3 → kind ≠ 4 → mine → done fun d => latched d (fun r => { r with res := clean v }) (fun x => { x with res := some (clean v) })) ∧
              (kind = 4 → mine → done fun d =>
                let w (i : Nat) : Slot := clean (v / 2 ^ (64 * i) % 2 ^ 64)
                latched d (fun r => { r with res := w 0, res1 := w 1, flag := w 2 })
                  (fun x => { x with res := some (w 0), res1 := x.res1.map fun _ => w 1, flag := x.flag.map fun _ => w 2 })))

/-! ### Errors and records -/

/-- R344, R384 to R387, R361: records wait in their core or home until the firmware core's queue has room; a
corrected error changes no value and is counted, and the count that meets its threshold is reported; structures without
correction have none. A lost set of the register space and a lost piece of the core store are poisoned, a lost parcel is
to be loaded again, a lost L1 line leaves, a damaged FTB keeps no entry above 15 until its first 16 are loaded again,
lost values of a partition trap with LOST and restart it at RGNADDR, and lost shared state of a core traps its started
partitions with unit id 0x3F. At the homes a clean line of the LLC or of a slice leaves and a dirty one is poisoned, in
its piece or whole; a page-TLB entry leaves and a range entry holds what hits it; a line of GDDR7 is poisoned, its page
staying where the firmware has halted (log 133). An error that a home would report waits while that home holds 16 records
(log 60). The unit id of what is no unit is log 61, whom code 0x05 traps is log 94, and what the firmware core loads is
log 107. -/
def Obligations.ErrorEvents : Prop :=
  ∀ (s : State) (k p a u : Nat) (r : EvRec) (rest : List EvRec) (uni : UnitName),
    let c := s.core k
    let q := c.prt p
    let room := (s.core 0).sh.evq.length < 64
    let n (code : Nat) : BitVec 32 := s.dev.cecnt.getD code 0
    let counted (t : State) (code : Nat) : Prop := t.dev.cecnt.getD code 0 = if n code = 0xFFFFFFFF then n code else n code + 1
    let meets (code : Nat) : Prop := n code + 1 = s.dev.cethr.getD code 1024 ∧ n code ≠ 0xFFFFFFFF
    let struck (code : Nat) (P : State → Prop) : Prop := ∃ t x, exec (.eccUncorrectable ⟨code, k, p, u, a⟩) s = .next t ∧ P t ∧
      t.dev.coreRecs = s.dev.coreRecs ++ [x] ∧ fld x.dw0 56 4 = 1 ∧ fld x.dw0 48 8 = code ∧ fld x.dw0 40 8 = 0x80 + k
    let atHome (code hm ad : Nat) (P : State → Prop) : Prop := ∃ t x, exec (.eccUncorrectable ⟨code, k, p, u, a⟩) s = .next t ∧ P t ∧
      (t.mem.home hm).recs = (s.mem.home hm).recs ++ [x] ∧ fld x.dw0 56 4 = 1 ∧ fld x.dw0 48 8 = code ∧ fld x.dw0 40 8 = hm ∧ fld x.dw1 0 48 = ad
    let hm := homeOf (BitVec.ofNat 48 a)
    (0 < s.cores.length → k < s.cores.length → c.trapOut = r :: rest →
      (room → ∃ t, exec (.trapRecordPosted k) s = .next t ∧ (t.core k).trapOut = rest ∧ (t.core 0).sh.evq = (s.core 0).sh.evq ++ [r] ∧
        t.mem = s.mem) ∧ (¬room → exec (.trapRecordPosted k) s = .next s)) ∧
    (0 < s.cores.length → k < 36 → k < s.mem.homes.length → (s.mem.home k).recs = r :: rest →
      (room → ∃ t, exec (.memRecordPosted k) s = .next t ∧ (t.mem.home k).recs = rest ∧ (t.core 0).sh.evq = (s.core 0).sh.evq ++ [r] ∧
        t.mem.gddr = s.mem.gddr) ∧ (¬room → exec (.memRecordPosted k) s = .next s)) ∧
    (∀ code, code = 1 ∨ code = 2 ∨ code = 5 → s.dev.cecnt.length = 12 → ∃ t, exec (.eccCorrectable ⟨code, k, p, u, a⟩) s = .next t ∧
      t.cores = s.cores ∧ t.mem = s.mem ∧ counted t code ∧
      (meets code → ∃ x, t.dev.coreRecs = s.dev.coreRecs ++ [x] ∧ fld x.dw0 56 4 = 3 ∧ fld x.dw0 60 4 = 0xE ∧ x.dw2 = (n code + 1).setWidth 64) ∧
      (¬meets code → t.dev.coreRecs = s.dev.coreRecs)) ∧
    (∀ code, code = 8 ∨ code = 9 ∨ code = 0x0B → s.eccWaits ⟨code, k, p, u, a⟩ = false → s.dev.cecnt.length = 12 →
      ∃ t, exec (.eccCorrectable ⟨code, k, p, u, a⟩) s = .next t ∧ counted t code ∧
        (code ≠ 0x0B → t.cores = s.cores ∧ t.mem.gddr = s.mem.gddr ∧ t.mem.lines = s.mem.lines ∧ t.mem.llc = s.mem.llc ∧ t.mem.psn = s.mem.psn) ∧
        (code = 8 → hm < s.mem.homes.length → meets code → ∃ x, (t.mem.home hm).recs = (s.mem.home hm).recs ++ [x] ∧ fld x.dw0 56 4 = 3 ∧
          x.dw2 = (n code + 1).setWidth 64 ∧ fld x.dw1 0 48 = a % 2 ^ 48 / 16 * 16)) ∧
    (∀ code, code = 3 ∨ code = 4 ∨ code = 6 ∨ code = 7 ∨ code = 0x0A → exec (.eccCorrectable ⟨code, k, p, u, a⟩) s = .next s) ∧
    (k < 128 → k < s.cores.length → p < 12 → a < 196608 → struck 1 fun t =>
      ∀ b, (b / 8 = a / 8 → Cells.byte (t.core k).sh.regPsn b = 1) ∧
        (b / 8 ≠ a / 8 → Cells.byte (t.core k).sh.regPsn b = Cells.byte c.sh.regPsn b ∧ Cells.byte (t.core k).sh.reg b = Cells.byte c.sh.reg b)) ∧
    (k < 128 → k < s.cores.length → p < 12 → a < 1048576 → struck 2 fun t =>
      (t.core k).sh.cs = c.sh.cs ∧ Cells.byte (t.core k).sh.csPsn (a / 16) = 1 ∧
      (∀ i, i ≠ a / 16 → Cells.byte (t.core k).sh.csPsn i = Cells.byte c.sh.csPsn i)) ∧
    (k < 128 → s.has k p = true → p < 12 → a < q.slen → struck 3 fun t =>
      ((t.core k).prt p).badParcels = a :: q.badParcels ∧ (t.core k).sh = c.sh ∧ ∀ i, i ≠ p → (t.core k).prt i = c.prt i) ∧
    (k ≠ 0 → k < 128 → k < s.cores.length → p < 12 → c.prts.length = 12 → (s.dev.coreErrs.filter fun e => e.1 == k).length < 2 → struck 5 fun t =>
      ∀ i < 12, (((c.prt i).started = true ∧ (c.prt i).joined = false ∧ (c.prt i).trap = none) →
          ((t.core k).prt i).trap = some ⟨0x0C, 0x3F, 0, (c.prt i).nextPc⟩) ∧
        (¬((c.prt i).started = true ∧ (c.prt i).joined = false ∧ (c.prt i).trap = none) → (t.core k).prt i = c.prt i)) ∧
    (k < 36 → p < 12 → hm < s.mem.homes.length → (s.mem.home hm).recs.length < 16 →
      (∀ l, s.mem.llc.find? (fun x => x.line == a / 128 * 128) = some l →
        (l.dirty = true → atHome 8 hm (a % 2 ^ 48 / 16 * 16) fun t => t.mem.llc = s.mem.llc ∧ t.mem.lines = s.mem.lines ∧
          t.mem.poisoned (.llc (a / 16 * 16)) 16 = true) ∧
        (l.dirty = false → atHome 8 hm (a % 2 ^ 48 / 16 * 16) fun t => t.mem.llc = s.mem.llc.filter (fun x => x.line != a / 128 * 128) ∧ t.mem.gddr = s.mem.gddr)) ∧
      (∀ w, s.dev.fwhalt = true → s.mem.placeOf (BitVec.ofNat 48 (a % 2 ^ 48 / 128 * 128)) = some w → atHome 0x0B hm (a % 2 ^ 48 / 128 * 128) fun t =>
        (∀ i < 128, t.mem.poisoned (w.add i) 1 = true) ∧ (∀ y : Place, t.mem.get y 1 = s.mem.get y 1))) ∧
    (k < 36 → p < 12 → s.eccWaits ⟨9, k, p, u, a⟩ = false → (∀ x ∈ s.mem.llc, x.line % 128 = 0) → ∃ t, exec (.eccUncorrectable ⟨9, k, p, u, a⟩) s = .next t ∧ t.mem.gddr = s.mem.gddr ∧
      (∀ x ∈ t.mem.llc, x ∈ s.mem.llc ∧ (llcSlice x.line = a → x.dirty = true ∧ t.mem.poisoned (.llc x.line) 128 = true)) ∧
      (∀ x ∈ s.mem.llc, llcSlice x.line ≠ a → x ∈ t.mem.llc)) ∧
    (k < 36 → p < 12 → k < s.mem.homes.length → (s.mem.home k).recs.length < 16 →
      (∀ w, u ≠ 1 → (s.mem.home k).pages[a]? = some w → atHome 0x0A k (4096 * w.page.toNat) fun t =>
        (t.mem.home k).pages = (s.mem.home k).pages.eraseIdx a ∧ t.mem.gddr = s.mem.gddr) ∧
      (∀ w, u = 1 → (s.mem.home k).ranges[a]? = some w → w.dw3.getLsbD 63 = true → atHome 0x0A k (4096 * fld w.dw0 12 36) fun t =>
        (t.mem.home k).ranges[a]? = some { w with bad := true } ∧ (∀ i, i ≠ a → (t.mem.home k).ranges[i]? = (s.mem.home k).ranges[i]?) ∧
          t.mem.gddr = s.mem.gddr)) ∧
    (k < 128 → k < s.cores.length → p < 12 → ∃ t, exec (.eccUncorrectable ⟨7, k, p, u, a⟩) s = .next t ∧
      (∀ x ∈ (t.core k).l1, x.1 ≠ a / 128 * 128) ∧ (∀ x ∈ c.l1, x.1 ≠ a / 128 * 128 → x ∈ (t.core k).l1) ∧ (t.core k).sh = c.sh) ∧
    (k < 128 → k < s.cores.length → p < 12 → c.sh.ftb.length = 128 → ∃ t, exec (.eccUncorrectable ⟨6, k, p, u, a⟩) s = .next t ∧
      (t.core k).ftbReload = true ∧ ∀ i < 128, (t.core k).sh.ftb.getD i ⟨0, 0, 0, 0⟩ = if i < 16 then c.sh.ftb.getD i ⟨0, 0, 0, 0⟩ else ⟨0, 0, 0, 0⟩) ∧
    (k < s.cores.length → c.ftbReload = true → c.sh.ftb.length = 128 →
      let reloads (u : State) (es : List FtbEntry) : Prop := ∃ t, exec (.parityReloadDone k p) s = .next t ∧ t.mem = u.mem ∧
        (t.core k).ftbReload = false ∧ ∀ i < 128, (t.core k).sh.ftb.getD i ⟨0, 0, 0, 0⟩ =
          if i < 16 then es.getD i ⟨0, 0, 0, 0⟩ else c.sh.ftb.getD i ⟨0, 0, 0, 0⟩
      (c.job = none → reloads s (firmwareFtb (s.dev.image.getD []))) ∧
      ∀ j, c.job = some j → (∀ u es, s.readReloc j = .ok u es → u.cores = s.cores → reloads u (es.map fun y => y.loaded true)) ∧
        (s.readReloc j = .wait → exec (.parityReloadDone k p) s = .next s)) ∧
    (∀ e : EccSite, 8 ≤ e.code → 16 ≤ (s.mem.home (s.eccHome e).2).recs.length →
      exec (.eccUncorrectable e) s = .next s ∧ exec (.eccCorrectable e) s = .next s) ∧
    (k ≠ 0 → k < 128 → s.has k p = true → p < 12 → q.started = true → q.joined = false → q.units.length = 25 →
      (ctxOf k p).unitOf (BitVec.ofNat 6 u) = some uni → u < 64 → (s.dev.coreErrs.filter fun e => e.1 == k).length < 2 →
        ∃ t x, exec (.eccUncorrectable ⟨4, k, p, u, a⟩) s = .next t ∧
          let v := (t.core k).prt p
          v.unit uni = ⟨lostSlot, lostSlot, lostSlot, lostSlot, lostSlot, lostSlot⟩ ∧ v.pc = q.rgnPc ∧ v.left = q.rgnWrem.toNat ∧ v.trap = none ∧
            v.fly = [] ∧ (t.core k).trapOut = c.trapOut ++ [x] ∧ fld x.dw0 48 8 = 0x0C ∧ x.dw1 = BitVec.ofNat 64 u)

/-! ### Jobs -/

/-- R36, R48, R49, R181, R361: a request to pre-empt a job reaches every running member of its gang: a decoupled
loop starts no further iteration. When T_pre has passed, every started partition stops, its ports, latches and
exchange slots are lost, nothing is in flight, and no locked group is left; it is to restart at RGNADDR, unless it has
joined and its sections have retired (log 139). Before that nothing happens. What becomes of operations is log 47. -/
def Obligations.PreemptionEvents : Prop :=
  ∀ (s : State) (k i : Nat) (j x : Job),
    let c := s.core i
    let bits (r : UnitRegs) : UnitRegs := ⟨lostSlot, lostSlot, lostSlot, lostSlot, lostSlot, lostSlot⟩
    (s.cores.length = 128 → k < 128 → (s.core k).job = some j → i < 128 → c.job = some x → x.inst = j.inst → x.node = j.node →
      x.phase = .running → ∃ t, exec (.preemptRequest k) s = .next t ∧ (t.core i).job = some { x with phase := .preempting, since := s.now } ∧
        (t.core i).sh = c.sh ∧ t.mem = s.mem ∧ (∀ h, c.helper = some h → (t.core i).helper = some { h with dead := true }) ∧
        ∀ p < c.prts.length, ((t.core i).prt p).loop.nst.toNat =
            (if c.isLocked p = false ∧ (c.prt p).loop.active = true then min (c.prt p).loop.nst.toNat ((c.prt p).loop.j.toNat + 1)
              else (c.prt p).loop.nst.toNat) ∧
          ((t.core i).prt p).pc = (c.prt p).pc ∧ RegistersKept (c.prt p) ((t.core i).prt p)) ∧
    (s.cores.length = 128 → (∀ y, c.job = some y → ¬(y.inst = j.inst ∧ y.node = j.node)) → (s.core k).job = some j →
      ∃ t, exec (.preemptRequest k) s = .next t ∧ t.core i = c) ∧
    (k < s.cores.length → (s.core k).job = some j → j.phase = .preempting →
      (j.since.toNat + 1000 * s.sched.tpre.toNat ≤ s.now.toNat →
        ∃ t, exec (.hardPreempt k) s = .next t ∧ (t.core k).job = some { j with phase := .hardStop } ∧ (t.core k).locked = 0 ∧
          (t.core k).xfly = [] ∧ t.mem = s.mem ∧ (t.core k).sh.cs = (s.core k).sh.cs ∧ (t.core k).sh.reg = (s.core k).sh.reg ∧
          ∀ p < (s.core k).prts.length, ((s.core k).prt p).started = true →
            let q := (s.core k).prt p
            let r := (t.core k).prt p
            r.units = q.units.map bits ∧ r.xi = q.xi.map (fun _ => lostSlot) ∧ r.fly = [] ∧ r.ofile = q.ofile ∧ r.preds = q.preds ∧
              r.rgnPc = q.rgnPc ∧ r.secs = [] ∧
              (q.joined = true → q.secs = [] → r.stop = some .joined ∧ r.joined = true) ∧
              (q.joined = false ∨ q.secs ≠ [] → r.stop = some .hard ∧ r.joined = false)) ∧
      (s.now.toNat < j.since.toNat + 1000 * s.sched.tpre.toNat → exec (.hardPreempt k) s = .next s))

/-- R31 to R33, R48 to R52, R289: a job ends when its started partitions have joined and nothing of it is in flight:
its core is free, and its node counts one member less or, with the last, is done. A pre-empted job whose image has
been written leaves its core free, with RESUME in the descriptor that its node keeps. A launch that has loaded
everything starts to issue in the next ACLK: a fresh one at ENTRY of its streams, as IMAGE and VIEWTAB hold them, with
every register zero; a resumed one as its image has it. One that is rejected, with SUB 5 when its image cannot be read
or is not its own, leaves the core free; on a core that has been retired meanwhile the job that launches is pre-empted
(R417). What a save keeps beside the image is log 19; that its node is ready anew at
the save is log 80. -/
def Obligations.JobEvents : Prop :=
  ∀ (s s1 : State) (k : Nat) (j : Job) (g : GraphInst) (n : NodeInst) (m : Memory) (sub : Nat),
    let c := s.core k
    let free (t : State) : Prop := (t.core k).job = none ∧ (∀ p, (t.core k).prt p = .empty) ∧ (t.core k).locked = 0 ∧ (t.core k).xfly = []
    let node (t : State) (P : NodeInst → Prop) : Prop := ∃ h x, t.graph? j.inst = some h ∧ h.nodes[j.node]? = some x ∧ P x
    let alone : Prop := j.phase = .launching ∧ s.gangOf k = [k]
    let resumed := (j.desc.getD 1 0).getLsbD 63
    let R := descRegion j.desc
    let loads (u : State) (es : List FtbEntry) : Prop := ∃ v, s.writeReloc j = some v ∧ v.readReloc j = .ok u es ∧ u.cores = s.cores ∧ u.sched = s.sched ∧ u.dev = s.dev
    let retired (u : State) : Prop := u.dev.coreret.getD k false = true ∧ u.dev.fwhalt = false
    let pinned (u : State) (es : List FtbEntry) : State := u.modCore k fun d => { d with sh := { d.sh with ftb :=
      ((List.range 128).map fun i => if i < 16 then (es.getD i ⟨0, 0, 0, 0⟩).loaded true else ⟨0, 0, 0, 0⟩) } }
    k < s.cores.length → c.job = some j → s.graph? j.inst = some g → g.nodes[j.node]? = some n →
      ((∀ sys, (j.phase = .running ∨ j.phase = .preempting) → c.drained = true →
          s.nodeSys j.inst j.node = .ok { s with mem := m } sys → 2 ≤ n.live →
          ∃ t, exec (.jobEnd k) s = .next t ∧ free t ∧ t.mem.gddr = m.gddr ∧ (sys = false → t.out = s.out) ∧
            (sys = true → ∀ i < 4, c.forwarded.getLsbD i = true → OutMsg.read0 i ∈ t.out) ∧
            node t fun x => x.live = n.live - 1 ∧ x.phase = n.phase) ∧
      (∀ sys, (j.phase = .running ∨ j.phase = .preempting) → c.drained = true →
          s.nodeSys j.inst j.node = .ok { s with mem := m } sys →
          n.live = 1 → n.saved = [] → n.isFin = false → n.isStepEnd = false →
          (∃ i x, i ≠ j.node ∧ g.nodes[i]? = some x ∧ x.over = false) → ∃ t, exec (.jobEnd k) s = .next t ∧ free t ∧
            (node t fun x => x.phase = .done) ∧ t.mem.gddr = m.gddr ∧
            ∀ i x, i ≠ j.node → g.nodes[i]? = some x → x.old = n.old → x.phase = .waiting → x.preds = n.succ.count i →
              x.waits = [] → ∃ h y, t.graph? j.inst = some h ∧ h.nodes[i]? = some y ∧ y.phase = .ready ∧ y.preds = 0) ∧
      (c.drained = false → exec (.jobEnd k) s = .next s) ∧
      (c.saveDue = true → (∀ p < 12, (c.prt p).mops = []) → fld (c.descDw 7) 0 48 = 0 →
        writePieces j.ria c.jobId (imagePieces c k j.desc (j.phase == .hardStop) [] s.free) s.mem = some (m, true) →
          ∃ t, exec (.rucksackWrite k) s = .next t ∧ free t ∧ t.mem.gddr = m.gddr ∧
            node t fun x => ∃ v, x.saved = n.saved ++ [v] ∧ v.ria = j.ria ∧ v.reloc = j.reloc ∧
              v.desc = j.desc.set 1 (j.desc.getD 1 0 ||| bitAt 63 true) ∧ x.live = n.live - 1 ∧
              (x.live = 0 → x.phase = .saved ∧ x.readyAt = s.now)) ∧
      (j.phase = .launching → s.gangOf k = [k] →
        (∀ j', s.launchMember k = .ok s1 → k < s1.cores.length → (s1.core k).job = some j' →
          (¬retired s1 → ∃ t, exec (.jobLaunchComplete k) s = .next t ∧ (t.core k).job = some { j' with phase := .running } ∧
            (t.core k).sh0 = (s1.core k).sh ∧ (t.core k).sh = (s1.core k).sh ∧ (t.core k).prts = (s1.core k).prts ∧ t.mem = s1.mem) ∧
          (retired s1 → k < 128 → ∃ t, exec (.jobLaunchComplete k) s = .next t ∧
            (t.core k).job = some { j' with phase := .preempting, since := s1.now } ∧ t.mem = s1.mem)) ∧
        (s.launchMember k = .reject s1 sub → k < s1.cores.length → (s1.core k).job = some j → 2 ≤ n.live → s1.graph? j.inst = some g →
          ∃ t, exec (.jobLaunchComplete k) s = .next t ∧ (t.core k).job = none ∧ t.mem.gddr = s1.mem.gddr)) ∧
      (∀ (p x y : Nat) (s0 s2 s3 s4 : State) (es : List FtbEntry) (b : List Byte), alone → resumed = false → p < 12 →
        (∀ i < 12, (descMask j.desc).getLsbD i = decide (i = p)) → loads s0 es →
        let d := j.desc.getD (8 + p) 0
        (pinned s0 es).engReadClean k (fld (j.desc.getD 2 0) 0 48 + fld d 0 32) (4 * fld d 48 16) = .ok s2 x → (s2.core k).job = some j →
        s2.engReadClean k (fld (j.desc.getD 3 0) 0 48 + 64 * p) 64 = .ok s3 y → (s3.core k).job = some j → s3.has k p = true →
        s3.sched = s.sched → ¬retired s3 → fld (n.recd.getD 4 0) 32 16 = 0 → s3.fetchIa (fld s.sched.slotbase 0 48 + 64 * g.slot) 8 = .ok s4 b →
        ∃ t, exec (.jobLaunchComplete k) s = .next t ∧ t.mem = s4.mem ∧ (t.core k).job = some { j with phase := .running } ∧
          (t.core k).sh = (s3.core k).sh ∧ (∀ i, i ≠ p → (t.core k).prt i = (s3.core k).prt i) ∧
          let r := (t.core k).prt p
          r.started = true ∧ r.joined = false ∧ r.pc = BitVec.ofNat 13 (fld d 32 16) ∧ r.rgnPc = r.pc ∧ r.rgnWrem = 0 ∧ r.left = 0 ∧
            r.slen = fld d 48 16 ∧ (∀ i < fld d 48 16, r.parcel i = BitVec.ofNat 32 (x / 2 ^ (32 * i))) ∧
            (∀ v : BitVec 3, r.view v = BitVec.ofNat 64 (y / 2 ^ (64 * v.toNat)) &&& 0xFCFFFFFFFC03FFFF#64) ∧ r.preds = 1 ∧
            r.ofile = List.replicate 8 .zero ∧ r.units = List.replicate 25 .zero ∧ r.fly = [] ∧ r.mops = [] ∧ r.trap = none) ∧
      (∀ (sv : SavedJob) (im : Image) (s0 s2 : State) (es : List FtbEntry), alone → resumed = true → s.savedOf j = some sv → loads s0 es →
        sv.image (ctxOf k 0).macroCount s0.mem = .ok m im → ({ pinned s0 es with mem := m } : State).startPrts k false = .ok s2 () →
        k < s2.cores.length → (s2.core k).job = some j → ¬retired s2 →
        ∃ t, exec (.jobLaunchComplete k) s = .next t ∧ (t.core k).job = some { j with phase := .running } ∧
          (t.core k).sh.scnt = dwAt im.low 0x10 ∧ (t.core k).evseq = BitVec.ofNat 32 (natAt im.low 0x20 4) ∧
          (t.core k).ringValid = sv.ringValid ∧ (t.core k).sh.ftb = (s2.core k).sh.ftb ∧
          ∀ i < 256, (t.core k).sh.semaAt i =
            ⟨BitVec.ofNat 16 (natAt im.low (0x400 + 4 * i) 2), natAt im.low (0x402 + 4 * i) 1 % 2 == 1⟩) ∧
      (∀ (sv : SavedJob) (s0 : State) (es : List FtbEntry), alone → resumed = true → s.savedOf j = some sv → loads s0 es →
        sv.image (ctxOf k 0).macroCount s0.mem = .bad m →
        2 ≤ n.live → R < s.dev.flog.length → R < s.dev.flogseq.length → (∀ i, g.stream = some i → i < 1024) →
        ∃ t, exec (.jobLaunchComplete k) s = .next t ∧ free t ∧ t.mem.gddr = m.gddr ∧
          t.dev.flogseq.getD R 0 = s.dev.flogseq.getD R 0 + 1 ∧
          ∃ r ∈ t.dev.flog.getD R [], fld r.dw0 56 8 = 2 ∧ fld r.dw0 48 8 = 5 ∧ fld r.dw1 32 32 = (descJob j.desc).toNat) ∧
      (j.phase ≠ .launching → exec (.jobLaunchComplete k) s = .next s))

/-! ### The scheduler -/

/-- R303 to R305, R403, R404: a doorbell moves TAIL unless the ring would overflow; an entry is taken at HEAD, which
moves on whether the entry is accepted or rejected; a rejection sets ERR and CODE and changes no stream; ERR is
cleared by writing 1. NOP and FENCE have no effect of their own, a FENCE waiting for the commands before it; INVOKE
makes an instance with its nodes; SOPEN opens, SCLOSE begins to close and SUPDATE changes an entry of the stream
table. The order of the checks is log 53. -/
def Obligations.RingCommands : Prop :=
  ∀ (s s1 s2 s3 : State) (n : Nat) (e : List Word) (tail : BitVec 32) (x : Word),
    let r := s.ring n
    let d := e.getD 2 0
    let i := fld d 0 10
    let ring (t : State) (P : Ring → Prop) : Prop := P (t.ring n)
    let taken (t : State) : Prop := ring t fun q => q.head = (s1.ring n).head + 1 ∧ q.tail = (s1.ring n).tail ∧ q.err = (s1.ring n).err
    let entry (opc : Nat) : Prop := s.headEntry n = some (s1, e) ∧ entryOpc e = opc ∧ s1.entryCode n e = 0 ∧ n < s1.sched.rings.length
    let quiet : Prop := fld (e.getD 1 0) 0 48 = 0 ∧ (e.getD 0 0).getLsbD 55 = false
    (n < s.sched.rings.length → ∃ t, exec (.sqDoorbell n tail) s = .next t ∧ t.sched.cmds = s.sched.cmds ∧ t.mem = s.mem ∧
      ring t fun q => q = if (tail - r.head).toNat ≤ 2 ^ r.log2n.toNat then { r with tail := tail } else { r with err := true, code := 0x07 }) ∧
    (n < s.sched.rings.length → ∃ t, exec (.sqstatWrite n x) s = .next t ∧ t.mem = s.mem ∧
      ring t fun q => q = { r with err := r.err && !x.getLsbD 0 }) ∧
    (∀ c, s.headEntry n = some (s1, e) → entryOpc e = 0 ∨ 5 < entryOpc e → n < s1.sched.rings.length → quiet → s1.entryCode n e = c → c < 256 →
      ∃ t, exec (.sqNop n) s = .next t ∧ t.sched.cmds = s1.sched.cmds ∧ t.sched.streams = s1.sched.streams ∧ t.cores = s1.cores ∧
        ring t fun q => q.head = (s1.ring n).head + 1 ∧ (c = 0 → q.err = (s1.ring n).err) ∧
          (c ≠ 0 → q.err = true ∧ q.code.toNat = c)) ∧
    (entry 5 → quiet → s1.sched.cmds = [] → ∃ t, exec (.sqFence n) s = .next t ∧ taken t ∧ t.sched.cmds = []) ∧
    (∀ c cs, entry 5 → s1.sched.cmds = c :: cs → c.ring = n → c.fence = false →
      ∃ t y, exec (.sqFence n) s = .next t ∧ taken t ∧ t.sched.cmds = c :: cs ++ [y] ∧ y.fence = true ∧ y.ring = n ∧ y.entry = e) ∧
    (∀ rec bufs ns, entry 1 → s1.resident (fld d 0 4) (fld (e.getD 3 0) 0 48) = .ok s2 (rec, bufs) → fld d 4 3 < slotTemplates rec →
      s2.buildNodes rec (fld d 4 3) = .ok s3 ns → n < s3.sched.rings.length → ∃ t y, exec (.sqInvoke n) s = .next t ∧
        (t.ring n).head = (s3.ring n).head + 1 ∧ t.sched.graphs = s3.sched.graphs ++ [y] ∧ y.stream = none ∧ y.region = n ∧
        y.slot = fld d 0 4 ∧ y.rung = fld d 4 3 ∧ y.deadline = e.getD 4 0 ∧ y.cmd = some s3.sched.nextCmd ∧ y.bufs = bufs ∧
        y.nodes.length = ns.length) ∧
    (∀ im c, entry 2 → quiet → n < 8 → c < 16 → (s1.stream i).state = 0 → i < s1.sched.streams.length → s1.readDws (fld (e.getD 3 0) 0 48) 16 = .ok s2 im →
      s2.checkOpen n im = some (s3, .inr c) → s3.sched.streams.length = s1.sched.streams.length → n < s3.sched.rings.length →
        ∃ t, exec (.sqSopen n) s = .next t ∧ (t.ring n).head = (s3.ring n).head + 1 ∧
          let y := t.stream i
          y.state = 1 ∧ y.region = n ∧ y.rung = 0 ∧ y.fclu = c ∧ y.fnum = 0 ∧ y.nrm1 = fld (im.getD 0 0) 49 3 ∧ y.at 1 = im.getD 1 0 ∧
            y.at 7 = im.getD 7 0 ∧ y.at 8 = 0) ∧
    (entry 3 → (s1.stream i).state = 1 → i < s1.sched.streams.length → (s1.stream i).dw.length = 16 →
      (∃ h ∈ s1.sched.graphs, h.stream = some i) → ∃ t y, exec (.sqSclose n) s = .next t ∧ taken t ∧ (t.stream i).state = 2 ∧
        t.sched.cmds = s1.sched.cmds ++ [y] ∧ y.entry = e ∧ (t.stream i).closer = some y.id ∧ t.sched.graphs = s1.sched.graphs) ∧
    (entry 4 → quiet → (s1.stream i).state = 1 → i < s1.sched.streams.length → (s1.stream i).dw.length = 16 →
      ∃ t, exec (.sqSupdate n) s = .next t ∧ taken t ∧ (t.stream i).state = 1 ∧
        fld ((t.stream i).at 0) 33 12 = (if d.getLsbD 23 then fld d 10 12 else fld ((s1.stream i).at 0) 33 12) ∧
        fld ((t.stream i).at 0) 32 1 = (if d.getLsbD 23 then fld d 22 1 else fld ((s1.stream i).at 0) 32 1) ∧
        fld ((t.stream i).at 3) 48 16 = (if d.getLsbD 24 then fld (e.getD 3 0) 0 16 else fld ((s1.stream i).at 3) 48 16))

/-- R285, R287, R288, R291 to R294, R406: a frame that is due becomes an instance on its rung with its deadline, and
FNUM counts it; a boundary writes the slack of its frame, and one with negative slack drops the stream a rung where
there is one, or else logs FLOOR, once in a frame. A drop to a rung of the same latents and interpolation, before a
FINAL node has started, takes effect in the frame: its nodes that have not been dispatched are dropped, those that
run belong to the old template, and of the new one the nodes before step s' are dropped, those of s' and of no step
wait for what runs, and the others for their predecessors alone. A stream that has already dropped is log 52. -/
def Obligations.StreamFrames : Prop :=
  ∀ (s s1 s2 s3 s4 : State) (i n rung : Nat) (g : GraphInst) (rec ws ws' : List Word) (bufs : List (Word × Word)) (ns : List NodeInst)
      (rest : List (Nat × Nat)) (nd : NodeInst),
    let t0 := s.stream i
    let r := rungOf ws
    let r' := rungOf ws'
    let b : State := { s with sched := { s.sched with boundaries := rest } }
    let done := nodeStep nd.recd + 1
    let b1 := s1.modGraph g.id fun y => { y with steps := done }
    let slack : Int := (g.deadline.toNat : Int) - s.now.toNat - (((r.steps : Int) - done) * r.cstep + r.cfin)
    let first := (done * r'.steps + r.steps - 1) / r.steps
    let same : Prop := r'.latw = r.latw ∧ r'.lath = r.lath ∧ r'.interp = r.interp ∧ g.finalStarted = false
    (s.releaseDue i = true → s.startRung t0 = .ok s1 rung → s1.rung? t0.ladder rung = .ok s4 ws →
      s4.resident (fld (t0.at 0) 55 4) (fld (t0.at 5) 0 48) = .ok s2 (rec, bufs) →
      s2.buildNodes rec rung = .ok s3 ns → i < s3.sched.streams.length → t0.dw.length = 16 → rung < 8 →
        ∃ t y, exec (.frameRelease i) s = .next t ∧ t.sched.graphs = s3.sched.graphs ++ [y] ∧ y.stream = some i ∧ y.fnum = t0.fnum ∧
          y.rung = rung ∧ y.deadline = BitVec.ofNat 64 ((t0.at 1).toNat + t0.fnum.toNat * fld (t0.at 2) 0 40 + fld (t0.at 3) 0 40) ∧
          y.steps = 0 ∧ y.erem = (r.steps : Int) * r.cstep + r.cfin ∧ y.region = t0.region ∧ (t.stream i).fnum = t0.fnum + 1 ∧ (t.stream i).rung = rung) ∧
    (s.releaseDue i = false → exec (.frameRelease i) s = .next s) ∧
    (s.sched.boundaries = (g.id, n) :: rest → b.graph? g.id = some g → g.stream = some i → g.nodes[n]? = some nd →
      (∃ x ∈ g.nodes, x.over = false) → t0.dw.length = 16 → b.rung? t0.ladder g.rung = .ok s1 ws → s1.sched = b.sched →
      s1.fclk = s.fclk → i < s.sched.streams.length →
        (0 ≤ slack → ∃ t, exec (.stepBoundary g.id n) s = .next t ∧ t.sched.boundaries = rest ∧ (t.stream i).rung = t0.rung ∧
          ((t.stream i).at 8).toNat = (slack % 2 ^ 64).toNat ∧ fld ((t.stream i).at 9) 32 32 = fld (t0.at 9) 32 32 ∧
          fld ((t.stream i).at 10) 0 8 = done % 256) ∧
        (slack < 0 → g.rung < t0.nrm1 → t0.rung = g.rung → b1.rung? t0.ladder (g.rung + 1) = .ok s2 ws' → s2.sched = b1.sched → ¬same →
          ∃ t, exec (.stepBoundary g.id n) s = .next t ∧ (t.stream i).rung = g.rung + 1 ∧
            fld ((t.stream i).at 9) 32 32 = (fld (t0.at 9) 32 32 + 1) % 2 ^ 32) ∧
        (slack < 0 → g.rung < t0.nrm1 → t0.rung = g.rung → b1.rung? t0.ladder (g.rung + 1) = .ok s2 ws' → same →
          (∃ x ∈ g.nodes, x.active = true) → s2.slotRec g.slot = .ok s3 rec → s3.buildNodes rec (g.rung + 1) = .ok s4 ns →
          s4.sched = b1.sched → (∀ x ∈ ns, x.phase = .waiting ∧ x.waits = []) →
          ∃ t h, exec (.stepBoundary g.id n) s = .next t ∧ (t.stream i).rung = g.rung + 1 ∧ fld ((t.stream i).at 10) 0 8 = first % 256 ∧
            fld ((t.stream i).at 9) 32 32 = (fld (t0.at 9) 32 32 + 1) % 2 ^ 32 ∧
            t.graph? g.id = some h ∧ h.rung = g.rung + 1 ∧ h.steps = first ∧
            (∀ (m : Nat) (x : NodeInst), g.nodes[m]? = some x → ∃ y, h.nodes[m]? = some y ∧ y.old = true ∧
              y.phase = if x.phase = .waiting ∨ x.phase = .ready then .dropped else x.phase) ∧
            ∀ (m : Nat) (x : NodeInst), ns[m]? = some x → ∃ y, h.nodes[g.nodes.length + m]? = some y ∧
              let z := nodeStep x.recd
              let before := ((ns.filter fun w => decide (nodeStep w.recd < first)).map fun w => w.succ.count m).sum
              y.recd = x.recd ∧ (z < first → y.phase = .dropped) ∧
                (first ≤ z → before < x.preds → y.phase = .waiting ∧ y.preds = x.preds - before) ∧
                (first ≤ z → x.preds ≤ before → z = first ∨ z = 255 → y.phase = .waiting ∧
                  ∀ j, j ∈ y.waits ↔ ∃ w, g.nodes[j]? = some w ∧ w.active = true) ∧
                (first < z → z ≠ 255 → x.preds ≤ before → y.phase = .ready)) ∧
        (slack < 0 → t0.nrm1 ≤ g.rung → g.floored = false → ∃ t h, exec (.stepBoundary g.id n) s = .next t ∧
          (t.stream i).rung = t0.rung ∧ t.graph? g.id = some h ∧ h.floored = true ∧
          t.dev.flogseq.getD t0.region 0 = s1.dev.flogseq.getD t0.region 0 + (if t0.region < s1.dev.flogseq.length then 1 else 0)) ∧
        (slack < 0 → t0.nrm1 ≤ g.rung → g.floored = true → ∃ t, exec (.stepBoundary g.id n) s = .next t ∧
          (t.stream i).rung = t0.rung ∧ ((t.stream i).at 8).toNat = (slack % 2 ^ 64).toNat ∧ t.dev.flog = s1.dev.flog ∧
          t.dev.flogseq = s1.dev.flogseq))

/-- R30, R35, R36, R285, R295 to R297, R402, R407: at each period boundary a balance becomes its budget and what is
overdrawn of the last, at most a budget; a turn happens every 2 μs, and without a ready node it changes nothing else.
A region refused for want of budget is logged once in a period. Of the nodes with budget that can be dispatched a
turn dispatches one: of the region of least use by weight, the lower one on a tie, and of one region the first by key;
a node that has waited T_grace goes before all others, and with no core free for it a job of the region of greatest
use is asked to stop. A node of one member that has not run takes the first free core of its placement, which begins
to launch the job of its filled descriptor, with its partitions and its L1 empty and the pinned FTB entries of its
relocation records. -/
def Obligations.DispatcherEvents : Prop :=
  ∀ (s : State) (n : Nat) (r q : Ready),
    let a := s.region n
    let full (bud : BitVec 32) (bal : Int) : Int := if bud = 0xFFFFFFFF then 0 else (bud.toNat : Int) + max (min bal 0) (-(bud.toNat : Int))
    let due : Prop := s.sched.lastPeriod.toNat + 1000 * s.sched.period.toNat ≤ s.now.toNat
    let turn : Prop := s.dev.booted = true ∧ s.dev.fwhalt = false ∧ s.sched.lastTurn.toNat + 2000 ≤ s.now.toNat
    let still : Prop := s.sched.lookahead = 0 ∧ ∀ g ∈ s.sched.graphs, ∀ m ∈ g.nodes, m.phase = .ready → m.prefetched = true
    let live (x : Ready) : Prop := x.region < 8 ∧ (s.region x.region).en = true ∧ (s.region x.region).spent = 0
    let aged (x : Ready) : Prop := x.since.toNat + 1000 * s.sched.grace.toNat ≤ s.now.toNat
    let use (x : Ready) : Int :=
      let w := s.region x.region
      if w.cbud = 0xFFFFFFFF then -w.cbal else (w.cbud.toNat : Int) - w.cbal
    let less (x y : Ready) : Prop := use x * (s.region y.region).weight.toNat < use y * (s.region x.region).weight.toNat
    let ends (u : State) : State := { u with sched := { u.sched with lastTurn := u.now } }
    let goes (x : Ready) : Prop := ∀ u, s.dispatch x = some u → exec .dispatchTurn s = .next (ends u)
    (due → n < s.sched.regions.length → ∃ t, exec .budgetRefill s = .next t ∧ t.mem = s.mem ∧ t.cores = s.cores ∧
      let b := t.region n
      b.cbal = full a.cbud a.cbal ∧ b.bbal = full a.bbud a.bbal ∧ b.kbal = full a.kbud a.kbal ∧ b.weight = a.weight ∧ b.cbud = a.cbud) ∧
    (¬due → exec .budgetRefill s = .next s) ∧ (¬turn → exec .dispatchTurn s = .next s) ∧
    (turn → still → s.readyPool = [] → exec .dispatchTurn s = .next { s with sched := { s.sched with lastTurn := s.now } }) ∧
    (turn → still → s.readyPool = [r] → r.region < 8 → a = s.region r.region → a.en = true → a.spent ≠ 0 → a.refused = false →
      r.region < s.sched.regions.length → r.region < s.dev.flogseq.length → ∃ t, exec .dispatchTurn s = .next t ∧
        (t.region r.region).refused = true ∧ t.dev.flogseq.getD r.region 0 = s.dev.flogseq.getD r.region 0 + 1 ∧ t.cores = s.cores ∧
        t.sched.graphs = s.sched.graphs) ∧
    (turn → still → s.readyPool = [r] → live r → s.canDispatch r = true → goes r) ∧
    (turn → still → s.readyPool = [r, q] → live r → live q → ¬aged r → ¬aged q → s.canDispatch r = true → s.canDispatch q = true →
      if r.region = q.region then goes r else if less r q then goes r else if less q r then goes q
      else if r.region < q.region then goes r else goes q) ∧
    (turn → still → s.readyPool = [r, q] → live r → live q → ¬aged r → aged q → s.canDispatch q = true → goes q) ∧
    (turn → still → s.readyPool = [r] → live r → aged r → s.canDispatch r = false → r.size = 1 → s.coming r = 0 →
      (∀ m < 8, (s.region m).weight ≠ 0) → s.cores.length = 128 →
      ∀ g x, s.readyNode r = some (g, x) →
        let region (k : Nat) : Nat := match (s.core k).job with | some j => descRegion j.desc | none => 0
        let victim (k : Nat) : Prop := k ∈ s.places g x ∧ (∃ j, (s.core k).job = some j ∧ j.phase = .running) ∧ region k ≠ r.region
        ((∀ k, ¬victim k) → exec .dispatchTurn s = .next (ends s)) ∧
        ((∃ k, victim k) → ∃ k, victim k ∧ (∀ j, victim j → (s.region (region k)).lighter (s.region (region j)) = false) ∧
          exec .dispatchTurn s = .next (ends (s.preemptRequest k)))) ∧
    (∀ g x k ks sl tp s1 s2, s.readyNode r = some (g, x) → x.phase = .ready → nodeSize x.recd = 1 → s.freeFor r = k :: ks → r.size = 1 →
      k < s.cores.length → g.stream = none → s.misfit g x = false → s.slotRec g.slot = .ok s1 sl → fld (sl.getD 0 0) 62 2 = 2 →
      s1.descTemplate sl (fld (x.recd.getD 0 0) 0 32) = .ok s2 tp → s2 = { s with mem := s2.mem } →
      let desc := fillDesc tp s.sched.nextJob 0 1 g.region g.slot (nodeKind x.recd) none 0
      descCheck desc false = 0 → ∃ u j, s.dispatch r = some u ∧ (u.core k).job = some j ∧ j.desc = desc ∧ j.phase = .launching ∧ j.inst = g.id ∧
        j.node = r.node ∧ j.reloc = relocs g.bufs j.ria sl ∧ (u.core k).prts = List.replicate 12 .empty ∧ (u.core k).l1 = [] ∧
        (∀ i < 128, (u.core k).sh.ftb.getD i ⟨0, 0, 0, 0⟩ = if i < 16 then (j.reloc.getD i ⟨0, 0, 0, 0⟩).loaded true else ⟨0, 0, 0, 0⟩) ∧
        (u.core k).sh.tags = (s.core k).sh.tags ∧ (u.core k).sh.sema = List.replicate 256 ⟨0, false⟩ ∧ u.mem = s2.mem ∧
        (∀ i, i ≠ k → u.core i = s.core i) ∧ ∃ h y, u.graph? g.id = some h ∧ h.nodes[r.node]? = some y ∧ y.phase = .running ∧ y.live = 1)

/-- R11, R283, R295, R303, R307, R311, R312, R319, R322, R400, R401, R410, R415: what each register of BAR0 reads, in
PF0 and in the windows of a VF, and what a write of it does; registers that only firmware writes keep their value
against the host, as those of a VF do against everyone; after a failed boot HEALTH alone is read and nothing takes a
write. The doublewords of a region and of a ring are at the places of log 98, firmware's own writes are log 89, the
MSI-X entries log 5, and a count of KVERR that rises is log 122. -/
def Obligations.RegisterWindows : Prop :=
  ∀ (s : State) (n v c p i tag : Nat) (fw : Bool) (x : Word),
    let d := s.dev
    let a := s.region n
    let r := s.ring n
    let y := s.vector v
    let z := s.cluster c
    let num (x : Int) : Nat := (x % 2 ^ 32).toNat
    let flags (l : Nat) (f : Nat → Bool) : Nat := ((List.range l).map fun j => if f j then 2 ^ j else 0).sum
    let readsOf (fn off : Nat) (w : Nat) : Prop :=
      exec (.hostPeerRead 0 (.bar fn off false) 8 tag) s = .next { s with out := .completion 0 tag (natBytes 8 w) false :: s.out }
    let reads (off : Nat) (w : Nat) : Prop := readsOf 0 off w
    let write (off : Nat) (b : Bool) : Host.Outcome State Fault Refusal := exec (.hostPeerWrite 0 (.bar 0 off b) (natBytes 8 x.toNat)) s
    let host (fn off : Nat) : Host.Outcome State Fault Refusal := exec (.hostPeerWrite 0 (.bar fn off false) (natBytes 8 x.toNat)) s
    let firm (off : Nat) (P : State → Prop) : Prop := ∃ t, write off true = .next t ∧ P t ∧ t.cores = s.cores ∧ t.mem = s.mem
    let rings (fn : Nat) : Prop := n < s.sched.rings.length →
      (∃ t, host fn (0x1000 + 0x40 * n) = .next t ∧ t.ring n = { r with base := x &&& 0x0000FFFFFFFFFFFF#64 } ∧ t.cores = s.cores) ∧
      (∃ t, host fn (0x1008 + 0x40 * n) = .next t ∧ t.ring n = { r with log2n := x.setWidth 4 } ∧ t.cores = s.cores) ∧
      host fn (0x1010 + 0x40 * n) = exec (.sqDoorbell n (x.setWidth 32)) s ∧ host fn (0x1018 + 0x40 * n) = .next s ∧
      host fn (0x1020 + 0x40 * n) = exec (.sqstatWrite n x) s
    let entries (fn j off : Nat) : Prop := fn < s.sched.tables.length → j < (s.sched.tables.getD fn []).length →
      let e := s.entry fn j
      let leaves (off : Nat) (z : MsixEntry) (o : List OutMsg) : Prop := ∃ t, host fn off = .next t ∧ t.entry fn j = z ∧ t.out = o
      leaves off { e with addr := x } s.out ∧
      (x.getLsbD 32 = true → leaves (off + 8) { e with data := x.setWidth 32, masked := true } s.out) ∧
      (x.getLsbD 32 = false → e.pba = false → leaves (off + 8) { e with data := x.setWidth 32, masked := false } s.out) ∧
      (x.getLsbD 32 = false → e.pba = true → s.sched.msixEn.getD fn false = true → s.mem.shut 0 e.addr.toNat = false →
        leaves (off + 8) { e with data := x.setWidth 32, masked := false, pba := false } (.msix fn j e.addr (x.setWidth 32) :: s.out))
    let ready : Prop := s.portOpen 0 = true ∧ d.bootst = 0 ∧ n < 8 ∧ v < 2048 ∧ c < 16
    let health : Nat := (if d.replace then 2 ^ 63 else 0) + (if d.fwhalt then 2 ^ 62 else 0) + d.bootst.toNat * 2 ^ 48 +
      d.ncore % 128 * 2 ^ 40 + flags 16 (fun j => (s.cluster j).codecRet) * 2 ^ 16 + d.minclu.toNat
    (ready →
      reads 0x000 s.now.toNat ∧ reads 0x008 (s.sched.lookahead.toNat * 2 ^ 48 + s.sched.grace.toNat * 2 ^ 32 + s.sched.period.toNat) ∧
      reads 0x010 s.sched.stbase.toNat ∧ reads 0x018 s.sched.slotbase.toNat ∧ reads 0x020 s.sched.tpre.toNat ∧
      reads (0x100 + 0x40 * n) ((if a.en then 2 ^ 63 else 0) + a.weight.toNat) ∧ reads (0x108 + 0x40 * n) (num a.cbal * 2 ^ 32 + a.cbud.toNat) ∧
      reads (0x110 + 0x40 * n) (num a.bbal * 2 ^ 32 + a.bbud.toNat) ∧ reads (0x118 + 0x40 * n) (num a.kbal * 2 ^ 32 + a.kbud.toNat) ∧
      reads (0x1000 + 0x40 * n) r.base.toNat ∧ reads (0x1008 + 0x40 * n) r.log2n.toNat ∧ reads (0x1010 + 0x40 * n) r.tail.toNat ∧
      reads (0x1018 + 0x40 * n) r.head.toNat ∧ reads (0x1020 + 0x40 * n) (r.code.toNat * 2 ^ 8 + if r.err then 1 else 0) ∧
      reads (0x4000 + 8 * v) (y.count.toNat * 2 ^ 16 + y.time.toNat) ∧
      reads 0x10000 (d.vstatus.toNat * 2 ^ 28 + (if d.vqueued.isSome then 2 ^ 27 else 0) + (if d.vpend then 2 ^ 26 else 0) +
        d.vdd.toNat * 2 ^ 16 + d.vmin.toNat) ∧
      reads (0x10100 + 0x10 * c) (z.bias.toNat * 2 ^ 8 + z.fstep.toNat) ∧
      reads (0x10108 + 0x10 * c) (z.status.toNat * 2 ^ 4 + (if z.queued.isSome then 2 else 0) + if z.pend then 1 else 0) ∧
      reads (0x10400 + 8 * c) (z.seq.toNat * 2 ^ 32 + z.ratio.toNat) ∧ reads 0x20018 d.pageret.toNat ∧
      reads (0x20400 + 8 * n) (d.flogseq.getD n 0).toNat ∧ reads 0x20100 0) ∧
    (ready →
      reads 0x20000 health ∧
      (i < 2 → reads (0x20008 + 8 * i) (flags 64 fun j => d.coreret.getD (64 * i + j) false)) ∧
      (p < 4 → reads (0x20020 + 8 * p) ((if s.mem.down.getLsbD p then 2 ^ 63 else 0) + (s.port p).maxw.toNat * 2 ^ 60 +
        (s.port p).idefail.toNat * 2 ^ 32 + (s.port p).replay.toNat)) ∧
      (1 ≤ i → i < 12 → reads (0x20100 + 8 * i) ((d.cethr.getD i 1024).toNat * 2 ^ 32 + (d.cecnt.getD i 0).toNat)) ∧
      (i < 4 → reads (0x20200 + 32 * c + 8 * i) (match z.sens[i]? with
        | some e => (if e.excl then 2 ^ 63 else 0) + e.why.toNat * 2 ^ 60 + e.temp.toNat
        | none => 0)) ∧
      (i < 64 → let e := (d.flog.getD n []).getD i ⟨0, 0⟩
        reads (0x21000 + 0x400 * n + 16 * i) e.dw0.toNat ∧ reads (0x21008 + 0x400 * n + 16 * i) e.dw1.toNat) ∧
      (i < 1024 → let e := d.kverr.getD i ⟨0, 0⟩
        reads (0x23000 + 8 * i) (e.fnum.toNat * 2 ^ 32 + e.count.toNat)) ∧
      reads (0x30000 + 16 * v) (s.entry 0 v).addr.toNat ∧
      reads (0x30008 + 16 * v) ((if (s.entry 0 v).masked then 2 ^ 32 else 0) + (s.entry 0 v).data.toNat) ∧
      (i < 32 → reads (0x38000 + 8 * i) (flags 64 fun j => (s.entry 0 (64 * i + j)).pba))) ∧
    (ready → 0 < n → n ≤ s.sched.numVfs →
      readsOf n 0x000 s.now.toNat ∧ readsOf n (0x1010 + 0x40 * n) r.tail.toNat ∧ readsOf n 0xA000 (d.flogseq.getD n 0).toNat ∧
      readsOf n 0x008 (s.sched.lookahead.toNat * 2 ^ 48 + s.sched.grace.toNat * 2 ^ 32 + s.sched.period.toNat) ∧
      readsOf n 0x010 s.sched.stbase.toNat ∧ readsOf n 0x018 s.sched.slotbase.toNat ∧ readsOf n 0x020 s.sched.tpre.toNat ∧
      readsOf n (0x1000 + 0x40 * n) r.base.toNat ∧ readsOf n (0x1008 + 0x40 * n) r.log2n.toNat ∧
      readsOf n (0x1018 + 0x40 * n) r.head.toNat ∧ readsOf n (0x1020 + 0x40 * n) (r.code.toNat * 2 ^ 8 + if r.err then 1 else 0) ∧
      (i < 256 → let y := s.vector (256 * n + i)
        readsOf n (0x4000 + 8 * i) (y.count.toNat * 2 ^ 16 + y.time.toNat)) ∧
      (i < 64 → let e := (d.flog.getD n []).getD i ⟨0, 0⟩
        readsOf n (0xA400 + 16 * i) e.dw0.toNat ∧ readsOf n (0xA408 + 16 * i) e.dw1.toNat) ∧
      (i < 256 → let e := s.entry n i
        readsOf n (0x8000 + 16 * i) e.addr.toNat ∧ readsOf n (0x8008 + 16 * i) ((if e.masked then 2 ^ 32 else 0) + e.data.toNat)) ∧
      (i < 4 → readsOf n (0x9000 + 8 * i) (flags 64 fun j => (s.entry n (64 * i + j)).pba))) ∧
    (ready →
      write (0x1010 + 0x40 * n) false = exec (.sqDoorbell n (x.setWidth 32)) s ∧
      write (0x1020 + 0x40 * n) false = exec (.sqstatWrite n x) s ∧ write (0x4000 + 8 * v) false = exec (.msixCoalesceWrite v x) s ∧
      write 0x10000 false = exec (.vminWrite x) s ∧ write (0x10100 + 0x10 * c) false = exec (.cpreqWrite c x) s ∧
      (∀ off ∈ [0x000, 0x008, 0x010, 0x018, 0x020, 0x100 + 0x40 * n, 0x108 + 0x40 * n, 0x1018 + 0x40 * n, 0x20000, 0x20018, 0x20400 + 8 * n],
        write off false = .next s) ∧
      (i < 1024 → write (0x23000 + 8 * i) false = .next s) ∧ rings 0 ∧ entries 0 v (0x30000 + 16 * v) ∧
      (0 < n → n ≤ s.sched.numVfs → rings n ∧ (i < 256 → entries n i (0x8000 + 16 * i) ∧
        host n (0x4000 + 8 * i) = exec (.msixCoalesceWrite (256 * n + i) x) s)) ∧
      (0 < n → ∀ off ∈ [0x000, 0x008, 0x010, 0x018, 0x020, 0xA000, 0xA400],
        exec (.hostPeerWrite 0 (.bar n off fw) (natBytes 8 x.toNat)) s = .next s)) ∧
    (d.booted = true → d.fwhalt = false → d.bootst = 0 → n < s.sched.regions.length → n < 8 →
      (∃ t, write (0x100 + 0x40 * n) true = .next t ∧ t.region n = { a with en := x.getLsbD 63, weight := x.setWidth 8 } ∧ t.cores = s.cores ∧
        t.mem = s.mem) ∧
      (∃ t, write (0x108 + 0x40 * n) true = .next t ∧
        t.region n = { a with cbal := (x.extractLsb' 32 32).toInt, cbud := x.setWidth 32 } ∧ t.cores = s.cores ∧ t.mem = s.mem) ∧
      (∃ t, write 0x008 true = .next t ∧ t.sched.lookahead = x.extractLsb' 48 8 ∧ t.sched.grace = x.extractLsb' 32 16 ∧
        t.sched.period = x.setWidth 16 ∧ t.cores = s.cores ∧ t.mem = s.mem) ∧
      firm (0x110 + 0x40 * n) (fun t => t.region n = { a with bbal := (x.extractLsb' 32 32).toInt, bbud := x.setWidth 32 }) ∧
      firm (0x118 + 0x40 * n) (fun t => t.region n = { a with kbal := (x.extractLsb' 32 32).toInt, kbud := x.setWidth 32 }) ∧
      firm 0x010 (fun t => t.sched.stbase = x &&& 0x0000FFFFFFFFFFFF#64) ∧
      firm 0x018 (fun t => t.sched.slotbase = x &&& 0x0000FFFFFFFFFFFF#64) ∧ firm 0x020 (fun t => t.sched.tpre = x.setWidth 7) ∧
      firm 0x20000 (fun t => t.dev.replace = (d.replace || x.getLsbD 63) ∧ t.dev.ncore = fld x 40 7 ∧ t.dev.minclu = x.setWidth 16 ∧
        t.dev.fwhalt = d.fwhalt ∧ t.dev.bootst = d.bootst ∧
        (c < 16 → c < s.clusters.length → t.cluster c = { z with codecRet := x.getLsbD (16 + c) })) ∧
      (p < 2 → firm (0x20008 + 8 * p) fun t => ∀ j < d.coreret.length,
        t.dev.coreret.getD j false = if j / 64 = p then x.getLsbD (j % 64) else d.coreret.getD j false) ∧
      firm 0x20018 (fun t => t.dev.pageret = x.setWidth 32) ∧
      (p < 4 → p < d.ports.length → firm (0x20020 + 8 * p) fun t =>
        t.port p = { s.port p with maxw := x.extractLsb' 60 3, idefail := x.extractLsb' 32 16, replay := x.setWidth 32 }) ∧
      (1 ≤ i → i < 12 → i < d.cethr.length → i < d.cecnt.length → firm (0x20100 + 8 * i) fun t =>
        t.dev.cethr.getD i 0 = x.extractLsb' 32 32 ∧ t.dev.cecnt.getD i 0 = x.setWidth 32) ∧
      (∀ e, i < 4 → c < 16 → c < s.clusters.length → z.sens[i]? = some e → firm (0x20200 + 32 * c + 8 * i) fun t =>
        (t.cluster c).sens[i]? = some { e with excl := x.getLsbD 63, why := x.extractLsb' 60 3, temp := x.setWidth 16 }) ∧
      (n < d.flogseq.length → firm (0x20400 + 8 * n) fun t => t.dev.flogseq.getD n 0 = x.setWidth 32) ∧
      (i < 64 → n < d.flog.length →
        let e := (d.flog.getD n []).getD i ⟨0, 0⟩
        firm (0x21000 + 0x400 * n + 16 * i) (fun t => (t.dev.flog.getD n []).getD i ⟨0, 0⟩ = { e with dw0 := x &&& 0xFFFF07FFFFFFFFFF#64 }) ∧
        firm (0x21008 + 0x400 * n + 16 * i) (fun t => (t.dev.flog.getD n []).getD i ⟨0, 0⟩ = { e with dw1 := x })) ∧
      (i < 1024 → i < d.kverr.length →
        let g := (s.stream i).region
        let q := d.flogseq.getD g 0
        ∃ t, write (0x23000 + 8 * i) true = .next t ∧ t.dev.kverr.getD i ⟨0, 0⟩ = ⟨x.extractLsb' 32 32, x.setWidth 32⟩ ∧
          t.cores = s.cores ∧ t.mem = s.mem ∧
          ((d.kverr.getD i ⟨0, 0⟩).count < x.setWidth 32 → g < d.flog.length → g < d.flogseq.length →
            t.dev.flogseq.getD g 0 = q + 1 ∧ ((t.dev.flog.getD g []).getD (q.toNat % 64) ⟨0, 0⟩).dw0.toNat / 2 ^ 56 = 6) ∧
          (¬(d.kverr.getD i ⟨0, 0⟩).count < x.setWidth 32 → t.dev.flog = d.flog ∧ t.dev.flogseq = d.flogseq))) ∧
    (s.portOpen 0 = true → 0 < n → s.sched.numVfs < n →
      exec (.hostPeerWrite 0 (.bar n 0x4000 fw) (natBytes 8 x.toNat)) s = .next s) ∧
    (s.portOpen 0 = true → d.bootst ≠ 0 → reads 0x20000 health ∧
      (∀ off, off % 8 = 0 → off ≠ 0x20000 → reads off 0) ∧ (∀ off, off % 8 = 0 → write off fw = .next s))

/-- R307, R310, R311, R410: a message of a vector leaves once TIME has passed, when the completion that meets COUNT is
counted (here that of a NOP entry), or when a write lowers COUNT or TIME to what is pending, through the entry that
delivers it, on an enabled function with the entry unmasked and port 0 up; a masked entry keeps it on its pending bit
until it is unmasked, and a function whose MSI-X is disabled discards it; the pending count is cleared in every case.
COUNT 0 is log 53, the entries' layout log 5, the seven VFs log 118. -/
def Obligations.InterruptEvents : Prop :=
  ∀ (s : State) (v m : Nat) (x : Word),
    let y := s.vector v
    let f := s.msixEntry v
    let z := s.entry f.1 f.2
    let due : Prop := 0 < y.pending ∧ y.oldest.toNat + 1000 * y.time.toNat ≤ s.now.toNat
    let count := max 1 (fld x 16 8)
    let time := min 1000 (fld x 0 10)
    let met : Prop := 0 < y.pending ∧ (count ≤ y.pending ∨ y.oldest.toNat + 1000 * time ≤ s.now.toNat ∨ time = 0)
    (∀ (s1 : State) (n : Nat) (e : List Word), s.headEntry n = some (s1, e) → entryOpc e = 0 → s1.entryCode n e = 0 →
      fld (e.getD 1 0) 0 48 = 0 → (e.getD 0 0).getLsbD 55 = true → fld (e.getD 0 0) 44 11 = v → v < s1.sched.vectors.length →
      let y := s1.vector v
      let f := s1.msixEntry v
      let z := s1.entry f.1 f.2
      (y.pending + 1 < y.count.toNat → y.time ≠ 0 → ∃ t, exec (.sqNop n) s = .next t ∧ t.out = s1.out ∧ (t.vector v).pending = y.pending + 1 ∧
        (t.vector v).oldest = if y.pending = 0 then s1.now else y.oldest) ∧
      (y.count.toNat ≤ y.pending + 1 ∨ y.time = 0 → s1.sched.msixEn.getD f.1 false = true → z.masked = false →
        s1.mem.shut 0 z.addr.toNat = false → ∃ t, exec (.sqNop n) s = .next t ∧ t.out = .msix f.1 f.2 z.addr z.data :: s1.out ∧
          (t.vector v).pending = 0)) ∧
    (v < s.sched.vectors.length → f.1 < s.sched.tables.length → f.2 < (s.sched.tables.getD f.1 []).length →
      ((due → s.sched.msixEn.getD f.1 false = true → z.masked = false → s.mem.shut 0 z.addr.toNat = false →
        ∃ t, exec (.msixCoalesceTimeout v) s = .next t ∧ t.out = .msix f.1 f.2 z.addr z.data :: s.out ∧ (t.vector v).pending = 0 ∧
          t.entry f.1 f.2 = z) ∧
      (due → s.sched.msixEn.getD f.1 false = true → z.masked = true →
        ∃ t, exec (.msixCoalesceTimeout v) s = .next t ∧ t.out = s.out ∧ t.entry f.1 f.2 = { z with pba := true } ∧ (t.vector v).pending = 0) ∧
      (due → s.sched.msixEn.getD f.1 false = false →
        ∃ t, exec (.msixCoalesceTimeout v) s = .next t ∧ t.out = s.out ∧ t.entry f.1 f.2 = z ∧ (t.vector v).pending = 0) ∧
      (¬due → exec (.msixCoalesceTimeout v) s = .next s) ∧
      (∃ t, exec (.msixCoalesceWrite v x) s = .next t ∧ (t.vector v).count.toNat = count ∧ (t.vector v).time.toNat = time ∧
        (¬met → t.out = s.out ∧ (t.vector v).pending = y.pending ∧ (t.vector v).oldest = y.oldest ∧ t.entry f.1 f.2 = z) ∧
        (met → (t.vector v).pending = 0 ∧
          (s.sched.msixEn.getD f.1 false = true → z.masked = false → s.mem.shut 0 z.addr.toNat = false →
            t.out = .msix f.1 f.2 z.addr z.data :: s.out ∧ t.entry f.1 f.2 = z) ∧
          (s.sched.msixEn.getD f.1 false = true → z.masked = true → t.out = s.out ∧ t.entry f.1 f.2 = { z with pba := true }) ∧
          (s.sched.msixEn.getD f.1 false = false → t.out = s.out ∧ t.entry f.1 f.2 = z))) ∧
      (z.pba = true → f.1 < s.sched.msixEn.length → s.mem.shut 0 z.addr.toNat = false → ∃ t, exec (.msixVectorUnmask v) s = .next t ∧
        t.out = .msix f.1 f.2 z.addr z.data :: s.out ∧ t.entry f.1 f.2 = { z with masked := false, pba := false } ∧
        t.sched.msixEn.getD f.1 false = true) ∧
      (z.pba = false → ∃ t, exec (.msixVectorUnmask v) s = .next t ∧ t.out = s.out ∧ t.entry f.1 f.2 = { z with masked := false }) ∧
      (∃ t, exec (.sriovNumvfsWrite m) s = .next t ∧ t.sched.numVfs = min 7 m ∧ t.mem = s.mem ∧ t.out = s.out)))

/-! ### Memory system, links, power -/

/-- R107, R110, R111, R114, R115, R278, R383, R387: a request that its home grants reads or writes its bytes there and no
others; one to a page that is MOVING is held, and counted in its Cairn entry as it reaches the home, while any other that
must wait changes nothing; held reads, writes and atomics proceed once their page is MOVING no more, in the order in which
they arrived, and stay while it is; an invalidation drops cached translations; a home register takes what firmware writes;
a host's read is completed with its bytes, and its write lands. A read that is refused is log 59, and when a range entry
serves again is log 93. -/
def Obligations.HomeEvents : Prop :=
  ∀ (s : State) (h tag : Nat) (r : HomeReq) (m : Memory) (pl : Place) (cf : Bool) (i : Nat) (x : Word) (e : RangeEntry) (pg : BitVec 36),
    let home := s.mem.home h
    let put (d : Fin 4) (P : RangeEntry → Prop) : Prop := ∃ t, exec (.homeRegisterWrite h (.range i d x)) s = .next t ∧
      (∃ y, (t.mem.home h).ranges[i]? = some y ∧ P y) ∧ t.mem.gddr = s.mem.gddr ∧ (t.mem.home h).pages = home.pages
    let n := r.data.length
    let opened (y : Memory) (ia : Addr) : Memory := { y.modHome h (fun z => { z with held := [] }) with proceeds := some (ia.toNat / 128) }
    (r.kind = .wr → iaReserved r.ia = false → r.ia.toNat % 128 + n ≤ 128 → s.mem.request r.ia .wr n r.job = (m, .go pl cf) →
      ∃ t, exec (.homeRequest r) s = .next t ∧ t.cores = s.cores ∧ t.sched = s.sched ∧ ∀ y : Place, t.mem.get y 1 = match y.within pl n with
        | some b => (r.data.getD b 0).toNat
        | none => m.get y 1) ∧
    (r.kind = .rd → iaReserved r.ia = false → r.ia.toNat % 128 + n ≤ 128 → s.mem.request r.ia .rd n r.job = (m, .go pl cf) →
      ∃ t, exec (.homeRequest r) s = .next t ∧ t.mem = m ∧ t.cores = s.cores) ∧
    (iaReserved r.ia = false → r.ia.toNat % 128 + n ≤ 128 → s.mem.request r.ia r.kind n r.job = (m, .wait) →
      (s.mem.isMoving r.ia = false ∨ 64 ≤ (s.mem.home (homeOf r.ia)).held.length ∨ s.mem.recFull (homeOf r.ia) = true) →
        exec (.homeRequest r) s = .next s) ∧
    (∀ (m1 : Memory) (z : Xlat) (q : PageEntry), iaReserved r.ia = false → r.ia.toNat % 128 + n ≤ 128 →
      s.mem.request r.ia r.kind n r.job = (m, .wait) → s.mem.isMoving r.ia = true → s.mem.xlate r.ia = (m1, .ok z) → z.page = some q →
      homeOf r.ia < s.mem.homes.length → (s.mem.home (homeOf r.ia)).held.length < 64 → s.mem.recFull (homeOf r.ia) = false →
      let a := m1.cairnLa (homeOf r.ia) q.pte
      ∃ t, exec (.homeRequest r) s = .next t ∧
        (t.mem.home (homeOf r.ia)).held = (s.mem.home (homeOf r.ia)).held ++ [⟨r.kind, r.ia, r.data, r.job, none⟩] ∧
        (∀ y : Place, y.within (m1.laPlace a) 8 = none → y.within (m1.laPlace (a + 16)) 8 = none → t.mem.get y 1 = m1.get y 1) ∧
        (s.mem.proceeds = none → r.kind ≠ .rd → fld (m1.laDw (a + 16)) 48 16 = 0 → fld (t.mem.laDw (a + 16)) 0 16 = min (fld (m1.laDw (a + 16)) 0 16 + 1) 65535)) ∧
    (h < s.mem.homes.length → home.held = [⟨r.kind, r.ia, r.data, r.job, none⟩] → s.mem.isMoving r.ia = false → iaReserved r.ia = false →
      r.ia.toNat % 128 + n ≤ 128 → (opened s.mem r.ia).request r.ia r.kind n r.job = (m, .go pl cf) →
      (m.home h).held = [] → h < m.homes.length → ∃ t, exec (.heldRequestsProceed h) s = .next t ∧ (t.mem.home h).held = [] ∧
        ∀ y : Place, t.mem.get y 1 = match y.within pl n with
          | some b => if r.kind = .rd then m.get y 1 else (r.data.getD b 0).toNat
          | none => m.get y 1) ∧
    (∀ (a b : HeldReq) (m1 m2 : Memory), h < s.mem.homes.length → home.held = [a, b] → a.origin = none → b.origin = none →
      s.mem.isMoving a.ia = false → (opened s.mem a.ia).serve a.kind a.ia a.data a.job = some m1 → (m1.home h).held = [] → h < m1.homes.length →
      let mid := ({ m1 with proceeds := none } : Memory).modHome h fun y => { y with held := [b] }
      mid.isMoving b.ia = false → (opened mid b.ia).serve b.kind b.ia b.data b.job = some m2 → (m2.home h).held = [] →
        ∃ t, exec (.heldRequestsProceed h) s = .next t ∧ (t.mem.home h).held = [] ∧ ∀ y : Place, t.mem.get y 1 = m2.get y 1) ∧
    ((∀ a ∈ home.held, s.mem.isMoving a.ia = true) → exec (.heldRequestsProceed h) s = .next s) ∧
    (h < s.mem.homes.length → (∃ t, exec (.homeInvalidate h none) s = .next t ∧ (t.mem.home h).pages = [] ∧ (t.mem.home h).ranges = home.ranges ∧
        t.mem.gddr = s.mem.gddr) ∧
      (∃ t, exec (.homeInvalidate h (some pg)) s = .next t ∧ (∀ y ∈ (t.mem.home h).pages, y ∈ home.pages ∧ y.page ≠ pg) ∧
        (∀ y ∈ home.pages, pteSize y.pte = some 4096 → y.page ≠ pg → y ∈ (t.mem.home h).pages))) ∧
    (h < s.mem.homes.length → home.ranges[i]? = some e →
      put 0 (fun y => y = { e with dw0 := x &&& 0x0000FFFFFFFFF000#64 }) ∧ put 1 (fun y => y = { e with dw1 := x &&& 0x0000FFFFFFFFF000#64 }) ∧
      put 2 (fun y => y = { e with dw2 := x &&& 0xFFFFFFFFFFFFF000#64 }) ∧
      put 3 (fun y => y = { e with dw3 := x &&& 0xF000000000000000#64, bad := false }) ∧
      (∃ t, exec (.homeRegisterWrite h (.hptbase x)) s = .next t ∧ (t.mem.home h).hptbase = x &&& 0x0000003FFFFFF000#64) ∧
      (∃ t, exec (.homeRegisterWrite h (.cairnbase x)) s = .next t ∧ (t.mem.home h).cairnbase = x ∧ (t.mem.home h).hptbase = home.hptbase ∧
        (t.mem.home h).ranges = home.ranges ∧ (t.mem.home h).pages = home.pages ∧ t.mem.gddr = s.mem.gddr)) ∧
    (∀ port, s.portOpen port r.ia.toNat = true → iaReserved r.ia = false → 0 < n → r.ia.toNat % 128 + n ≤ 128 →
      (s.mem.request r.ia .rd n 0 = (m, .go pl cf) → m.poisoned pl n = false → ∃ t, exec (.hostPeerRead port (.ia r.ia) n tag) s = .next t ∧
        t.out = .completion port tag ((List.range n).map fun b => BitVec.ofNat 8 (m.get (pl.add b) 1)) false :: s.out ∧ t.mem = m) ∧
      (s.mem.request r.ia .wr n 0 = (m, .go pl cf) → ∃ t, exec (.hostPeerWrite port (.ia r.ia) r.data) s = .next t ∧ t.out = s.out ∧
        ∀ y : Place, t.mem.get y 1 = match y.within pl n with | some b => (r.data.getD b 0).toNat | none => m.get y 1))

/-- R319, R320, R322, R323, R416: power requests are carried out in the order of writing: a cluster's frequency and
bias, or a status with nothing changed; VMIN and the VDD that every cluster needs. A sample gives each cluster's
stall ratio. A sensor that reads out of its range, or stays while the ratio moves, is excluded, and a cluster
without a valid sensor is held at the least ACLK. That a request takes effect at once when it is done is log 90. -/
def Obligations.PowerSensorEvents : Prop :=
  ∀ (s : State) (c i : Nat) (x : Word) (rest : List PowerReq) (raw : BitVec 16) (z : Sensor) (power current coolant : Nat),
    let y := s.cluster c
    let d := s.dev
    let f := fld x 0 6
    let b : BitVec 8 := x.extractLsb' 8 8
    let bad : Prop := 32 < f ∨ b.toInt < -30 ∨ 30 < b.toInt ∨ (d.minclu.getLsbD c = true ∧ 0 < f)
    let now (e : Nat) : Nat := Config.vmin (d.record.getD []) e (s.cluster e).fstep.toNat (s.cluster e).bias.toInt
    let top (n : Nat) (es : List Nat) : Nat := ((es.map now).foldl max n + 4) / 5 * 5
    let v := top (max d.vmin.toNat (Config.vmin (d.record.getD []) c f b.toInt)) ((List.range 16).filter fun e => e != c)
    let m := fld x 0 10
    (c < 16 → c < s.clusters.length →
      (y.pend = false → ∃ t, exec (.cpreqWrite c x) s = .next t ∧ (t.cluster c).pend = true ∧ (t.cluster c).fstep = y.fstep ∧
        (t.cluster c).bias = y.bias ∧ t.dev.vdd = d.vdd ∧ t.dev.power = d.power ++ [.cluster c x]) ∧
      (y.pend = true → ∃ t, exec (.cpreqWrite c x) s = .next t ∧ (t.cluster c).queued = some x ∧ (t.cluster c).fstep = y.fstep ∧
        (t.cluster c).bias = y.bias ∧ t.dev.vdd = d.vdd) ∧
      (d.power = .cluster c x :: rest → ∃ t, exec .powerControllerRequestDone s = .next t ∧ t.dev.power = rest ∧
        (t.cluster c).pend = y.queued.isSome ∧ (t.cluster c).queued = none ∧ t.cores = s.cores ∧
        (bad → (t.cluster c).status = 3 ∧ (t.cluster c).fstep = y.fstep ∧ (t.cluster c).bias = y.bias ∧ t.dev.vdd = d.vdd) ∧
        (¬bad → 900 < v → (t.cluster c).status = 2 ∧ (t.cluster c).fstep = y.fstep ∧ (t.cluster c).bias = y.bias ∧ t.dev.vdd = d.vdd) ∧
        (¬bad → v ≤ 900 → (t.cluster c).status = 0 ∧ (t.cluster c).fstep.toNat = f ∧ (t.cluster c).bias = b ∧ t.dev.vdd.toNat = v))) ∧
    (d.vpend = false → ∃ t, exec (.vminWrite x) s = .next t ∧ t.dev.vpend = true ∧ t.dev.power = d.power ++ [.vmin x] ∧
      t.dev.vmin = d.vmin ∧ t.dev.vdd = d.vdd) ∧
    (d.power = .vmin x :: rest → ∃ t, exec .powerControllerRequestDone s = .next t ∧ t.dev.power = rest ∧ t.clusters = s.clusters ∧
      (m < 680 → t.dev.vstatus = 1 ∧ t.dev.vmin = d.vmin ∧ t.dev.vdd = d.vdd) ∧
      (900 < m → t.dev.vstatus = 2 ∧ t.dev.vmin = d.vmin ∧ t.dev.vdd = d.vdd) ∧
      (680 ≤ m → m ≤ 900 → t.dev.vstatus = 0 ∧ t.dev.vmin.toNat = m ∧ t.dev.vdd = BitVec.ofNat 10 (top m (List.range 16)))) ∧
    (s.sched.lastRatio.toNat + 10000 ≤ s.now.toNat → c < s.clusters.length → ∃ t, exec .sratioSample s = .next t ∧
      (t.cluster c).seq = y.seq + 1 ∧ (t.cluster c).startedN = 0 ∧ (t.cluster c).stalledN = 0 ∧
      (t.cluster c).ratio = BitVec.ofNat 10 (if y.startedN = 0 then 0 else 1023 * y.stalledN / y.startedN)) ∧
    (s.now.toNat < s.sched.lastRatio.toNat + 10000 → exec .sratioSample s = .next s) ∧
    (c < s.clusters.length → c < 16 → y.sens[i]? = some z → z.excl = false →
      (raw ≠ z.temp → raw.toInt < -640 ∨ 2400 < raw.toInt → ∃ t w, exec (.sensorRead c i raw) s = .next t ∧
        (t.cluster c).sens[i]? = some w ∧ w.excl = true ∧ w.why = 2 ∧ t.dev.replace = true ∧
        ((∀ j u, j ≠ i → y.sens[j]? = some u → u.excl = true) → (t.cluster c).fstep = 0 ∧ t.dev.minclu.getLsbD c = true)) ∧
      (raw = z.temp → 9999 ≤ z.same → 256 ≤ z.moved → ∃ t w, exec (.sensorRead c i raw) s = .next t ∧
        (t.cluster c).sens[i]? = some w ∧ w.excl = true ∧ w.why = 1 ∧ t.dev.replace = true) ∧
      (raw ≠ z.temp → -640 ≤ raw.toInt → raw.toInt ≤ 2400 → z.off < 9 → ∃ t w, exec (.sensorRead c i raw) s = .next t ∧
        (t.cluster c).sens[i]? = some w ∧ w.excl = false ∧ w.temp = raw ∧ (t.cluster c).fstep = y.fstep ∧ t.dev = d)) ∧
    (∃ t, exec (.boardControllerTelemetry power current coolant) s = .next t ∧ t.dev.bpower = power ∧ t.dev.bcurrent = current ∧
      t.dev.bcoolant = coolant ∧ t.cores = s.cores ∧ t.clusters = s.clusters ∧ t.mem = s.mem)

/-- R308 to R310, R316, R411 to R414, R417: a replay is counted; a lane fault narrows a port for good, retrains it and
logs LINK, an L0p change keeps to what the port has; a TLP that fails integrity makes its stream Insecure, and what the
stream carries is dropped until a key set of AES-256-GCM; a link that goes down logs LINK and sets REPLACE, and a port
reset brings it back; measurements and DOE objects are answered in the endpoint role; a codec engine that fails is
retired, its command completes with ECC and is logged, and the streams that it would finish are closed with a record.
The width after a port reset is log 58, which IDE stream carries a request is log 56, and the indices answered are
log 92. -/
def Obligations.LinkEvents : Prop :=
  ∀ (s : State) (p i c n tag : Nat) (ia : Addr) (w : BitVec 3) (q : DoeReq) (path : MeasPath) (x : BitVec 384) (o : EngineOp),
    let y := s.port p
    let k := 8 * c + 7
    let port (t : State) (P : Port → Prop) : Prop := P (t.port p)
    let logs (t : State) (g : Nat) (m : BitVec 32) : Prop := t.dev.flogseq.getD g 0 = s.dev.flogseq.getD g 0 + m
    let last (t : State) (g : Nat) : Word := ((t.dev.flog.getD g []).getD ((s.dev.flogseq.getD g 0).toNat % 64) ⟨0, 0⟩).dw0
    let up : Prop := p < 4 ∧ s.mem.shut p 0 = false ∧ (p = 0 ∨ s.dev.booted = true) ∧ (p = 0 ∨ y.root = false)
    let insecure (t : State) (j : Nat) : Bool := (t.mem.insecure.getD p 0).getLsbD j
    let open' (j : Nat) : Prop := (s.stream j).state = 1
    let lost (t : State) : Prop := (t.cluster c).codecRet = true ∧ t.dev.replace = true
    (p < 4 → p < s.dev.ports.length → 0 < s.dev.flogseq.length →
      (∃ t, exec (.flitReplay p) s = .next t ∧
        port t fun z => z = { y with replay := if y.replay = BitVec.allOnes 32 then y.replay else y.replay + 1 }) ∧
      (w.toNat < y.maxw.toNat → ∃ t, exec (.laneFault p w) s = .next t ∧ logs t 0 1 ∧ t.dev.replace = true ∧
        port t fun z => z = { y with maxw := w, width := w }) ∧
      (y.maxw.toNat ≤ w.toNat → exec (.laneFault p w) s = .next s) ∧
      (w ≠ 0 → w.toNat ≤ y.maxw.toNat → ∃ t, exec (.l0pWidthChange p w) s = .next t ∧ port t fun z => z = { y with width := w }) ∧
      (w = 0 ∨ y.maxw.toNat < w.toNat → exec (.l0pWidthChange p w) s = .next s) ∧
      (i < 5 → p < s.mem.insecure.length →
        (∃ t, exec (.ideIntegrityFail p i) s = .next t ∧ insecure t i = true ∧ (∀ j, j ≠ i → insecure t j = insecure s j) ∧
          t.mem.gddr = s.mem.gddr ∧
          (port t fun z => z = { y with idefail := if y.idefail = BitVec.allOnes 16 then y.idefail else y.idefail + 1 }) ∧
          (Config.ideStream p ia.toNat % 5 = i → exec (.hostPeerRead p (.ia ia) n tag) t = .next t)) ∧
        (∃ t, exec (.ideKm p i true) s = .next t ∧ insecure t i = false ∧ (∀ j, j ≠ i → insecure t j = insecure s j) ∧
          t.dev = s.dev ∧ t.mem.gddr = s.mem.gddr)) ∧
      exec (.ideKm p i false) s = .next s ∧
      (s.mem.down.getLsbD p = false → ∃ t, exec (.linkDown p) s = .next t ∧ logs t 0 1 ∧ t.mem.down.getLsbD p = true ∧
        t.dev.replace = true ∧ t.mem.gddr = s.mem.gddr ∧ port t fun z => z = { y with maxw := 0, width := 0 }) ∧
      (s.mem.down.getLsbD p = true → exec (.linkDown p) s = .next s ∧ ∃ t, exec (.portReset p) s = .next t ∧
        t.mem.down.getLsbD p = false ∧ t.mem.gddr = s.mem.gddr ∧ port t fun z => z.maxw = 4) ∧
      (s.mem.down.getLsbD p = false → exec (.portReset p) s = .next s)) ∧
    (0 < i → s.dev.meas[i - 1]? = some x → (path = .smbus ∨ (path = .spdm p ∧ up ∧ s.dev.bootst = 0)) → ∃ t, exec (.getMeasurements path i) s = .next t ∧
      t.out = .measurement path i x (Config.spdmSignature x) :: s.out ∧ t.dev = s.dev ∧ t.mem = s.mem) ∧
    (up → s.dev.bootst ≠ 0 → exec (.getMeasurements (.spdm p) i) s = .next { s with out := .doe p .spdm true :: s.out }) ∧
    (up → ∃ t, exec (.doeRequest p q) s = .next t ∧ t.dev = s.dev ∧ t.mem = s.mem ∧
      t.out = .doe p q (s.dev.bootst != 0 && (q == .spdm || q == .securedSpdm)) :: s.out) ∧
    (¬up → exec (.doeRequest p q) s = .next s) ∧
    (c < s.clusters.length → (∀ j < 1024, ¬open' j) → (∀ e ∈ (s.core k).ops, cmdEngine e.op = 5 → e.phase ≠ .running) →
      ∃ t, exec (.codecEngineFailure c) s = .next t ∧ lost t ∧ t.cores = s.cores ∧ t.mem = s.mem) ∧
    (c < s.clusters.length → (∀ j < 1024, ¬open' j) → ((s.core k).ops.find? fun e => cmdEngine e.op == 5) = some o →
      (s.core k).op? o.id = some o → o.phase = .running → o.op = .dec → o.status = 0 → o.left = none → o.parent = none →
      s.opRegion k o < s.dev.flog.length → s.opRegion k o < s.dev.flogseq.length →
      ∃ t, exec (.codecEngineFailure c) s = .next t ∧ lost t ∧ (t.core k).op? o.id = none ∧ t.mem = { s.mem with traffic := [] } ∧
        logs t (s.opRegion k o) 1 ∧ (last t (s.opRegion k o)).toNat / 2 ^ 48 = 7 * 256 + stEcc.toNat) ∧
    (c < s.clusters.length → (∀ e ∈ (s.core k).ops, cmdEngine e.op = 5 → e.phase ≠ .running) → ∃ t,
      exec (.codecEngineFailure c) s = .next t ∧ lost t ∧ t.cores = s.cores ∧
      (∀ j < 1024, (s.stream j).fclu = c → (t.stream j).state ≠ 1) ∧
      (i < 1024 → open' i → (s.stream i).fclu = c → (s.stream i).closer = none → (∀ j < 1024, j ≠ i → ¬open' j) →
        (s.stream i).region < s.dev.flog.length → (s.stream i).region < s.dev.flogseq.length →
        ((t.stream i).state = if s.sched.graphs.any fun g => g.stream == some i then 2 else 0) ∧
          logs t (s.stream i).region 1 ∧ (last t (s.stream i).region).toNat / 2 ^ 56 = 0x0B))

/-! ### Boot and reset -/

/-- R28, R308, R315, R316, R415: a reset leaves every register at its reset value and runs the boot ROM: it stops with the
code of the first check that fails, in the order of R415, and tells the board controller; else it takes the trims and
the port roles of the module record, records the measurements of indices 1 to 4 and enters the firmware on core 0.
What is outside the part, and the bytes of GDDR7, stay (log 55); the firmware's streams and FTB are log 107, the values
that a record stands for log 15. -/
def Obligations.BootEvent : Prop :=
  ∀ (s : State), ∃ t, exec .reset s = .next t ∧
    t.sched = State.reset.sched ∧ t.fw = State.reset.fw ∧ t.fclk = 0 ∧ t.phase = .fclk ∧ t.probes = [] ∧ t.mem.gddr = s.mem.gddr ∧
    t.mem.llc = [] ∧ t.mem.homes = State.reset.mem.homes ∧
    let d := s.dev
    let stop (n : BitVec 8) : Prop := t.dev.booted = false ∧ t.dev.bootst = n ∧ t.dev.meas = [] ∧ t.out = .bootStatus n :: s.out ∧
      t.cores = State.reset.cores ∧ t.clusters = State.reset.clusters
    (d.image = none → stop 1) ∧ (∀ i, d.image = some i → d.record = none → stop 2) ∧
    ∀ i r, d.image = some i → d.record = some r →
      (Config.ecdsaVerifies i = false → stop 3) ∧
      (Config.ecdsaVerifies i = true → Config.lmsVerifies i = false → stop 4) ∧
      (Config.ecdsaVerifies i = true → Config.lmsVerifies i = true → Config.ecdsaVerifies r = false → stop 5) ∧
      (Config.ecdsaVerifies i = true → Config.lmsVerifies i = true → Config.ecdsaVerifies r = true → Config.lmsVerifies r = false → stop 6) ∧
      (Config.ecdsaVerifies i = true → Config.lmsVerifies i = true → Config.ecdsaVerifies r = true → Config.lmsVerifies r = true →
        t.dev.booted = true ∧ t.dev.bootst = 0 ∧ t.out = s.out ∧
          t.dev.meas = [Config.sha384 Config.bootRom, Config.sha384 i, Config.sha384 r, Config.sha384 d.fwconfig] ∧
          t.dev.vdd = BitVec.ofNat 10 (Config.vddTrim r) ∧
          (∀ p < 4, (t.port p).root = (p != 0 && Config.rootPort r p)) ∧
          (∀ c < 16, t.cluster c = { State.reset.cluster c with bias := Config.biasTrim r c }) ∧
          (∀ k, k ≠ 0 → t.core k = State.reset.core k) ∧
          (∀ p < 12, (t.core 0).prt p = firmwarePrt i p) ∧ (t.core 0).sh.ftb = firmwareFtb i)

/-- R283, R286, R295, R303, R307, R319, R354, R400: the values that the spec gives for reset. No core has a job, and
memory lists nothing (log 1, log 2). -/
def Obligations.ResetState : Prop :=
  let s := State.reset
  s.Form ∧ s.now = 0 ∧ s.dev.booted = false ∧ s.dev.vmin = 680 ∧ s.fw.rrcfg = 8 ∧ s.fw.rrbase = 0 ∧ s.fw.rrtail = 0 ∧ s.fw.rrhead = 0 ∧
    s.sched.lookahead = 16 ∧ s.sched.grace = 200 ∧ s.sched.period = 1000 ∧ s.sched.tpre = 20 ∧ s.mem.gddr = [] ∧
    (∀ c < 16, (s.cluster c).fstep = 24 ∧ (s.cluster c).status = 0 ∧ (s.cluster c).pend = false) ∧
    (∀ n < 8, (s.region n).en = decide (n = 0) ∧ (s.region n).weight = 1 ∧ (s.region n).cbud = 0xFFFFFFFF ∧
      s.ring n = ⟨0, 4, 0, 0, 0, false⟩ ∧ s.dev.flogseq.getD n 1 = 0) ∧
    (∀ v < 2048, (s.vector v).count = 16 ∧ (s.vector v).time = 64) ∧ (∀ i < 1024, (s.stream i).state = 0) ∧
    (∀ n < 12, s.dev.cecnt.getD n 1 = 0 ∧ s.dev.cethr.getD n 0 = 1024) ∧ (∀ p < 4, (s.port p).maxw = 4 ∧ s.mem.down.getLsbD p = false) ∧
    (∀ k < 128, (s.core k).job = none ∧ ∀ p < 12, ((s.core k).prt p).started = false)

/-! ### Frames -/

/-- R9, R42, R78, R273, R342: no word of a stream changes memory, the scheduler, the other partitions of its core, the
other cores, or another cluster's queues: stores, engine operations and the rest happen afterwards. The firmware
core's registers and FWHALT are changed by the firmware core alone. -/
def Obligations.WordsKeepOutside : Prop :=
  ∀ (i : Instr) (s t : State) (k p : Nat), (i.group.isSome = true ∨ ∃ len mask wait, i = .sectionHeader len mask wait) →
    s.phase = .prt k p → exec i s = .next t →
      OutsideKept s t k p ∧ (∀ c, c ≠ cluOf k → t.cluster c = s.cluster c) ∧ t.free = s.free ∧ t.probeId = s.probeId ∧
        (k ≠ 0 → t.fw = s.fw ∧ t.dev = s.dev) ∧ (t.dev = s.dev ∨ t.dev = { s.dev with fwhalt := true })

/-- R57, R59, R66, R71, R74, R76, R78: what a group leaves unchanged when exec gives a next state, whether it issued,
stalled or trapped: every register that no executing slot of it names as a destination, or whose trigger is not
among them; result latches and flags, which change only as results land; and all of memory, for a store is
performed later. -/
def Obligations.GroupFrame : Prop :=
  ∀ (i : Instr) (g : Group) (s t : State) (k p : Nat), i.group = some g → s.phase = .prt k p → s.has k p = true → exec i s = .next t →
    let c := s.core k
    let q := c.prt p
    let d := t.core k
    let r := d.prt p
    let D := dstsOf q g
    let reg (n : BitVec 12) : Prop := Dst.creg n ∉ D
    let not (x : Trigger) : Prop := Dst.trig x ∉ D
    let hq (n : Nat) : Handoff := hqAt (s.cluster (cluOf k)).hq n
    (∀ j : BitVec 3, Dst.ofile j ∉ D → r.ofile.getD j.toNat .zero = q.ofile.getD j.toNat .zero) ∧
    (∀ u o, Dst.port u o ∉ D → (r.unit u).port o = (q.unit u).port o) ∧ (∀ u l, (r.unit u).latch l = (q.unit u).latch l) ∧
    (∀ n, Dst.pred n ∉ D → n.toNat < 8 ∨ (not .lpLoop ∧ q.loop.active = false) → r.pred n = q.pred n ∧ r.predPoison n = q.predPoison n) ∧
    (∀ v : BitVec 3, reg (0x100#12 ||| v.setWidth 12) → r.view v = q.view v) ∧
    (∀ b : BitVec 2, reg (0x108#12 ||| b.setWidth 12) → not (.brTgt b) → r.bt.getD b.toNat 0 = q.bt.getD b.toNat 0) ∧
    (reg 0x10C → not .syRgn → r.rgnPc = q.rgnPc ∧ r.rgnWrem = q.rgnWrem) ∧ (reg 0x10D → not .syRah → r.rah = q.rah) ∧
    (reg 0x10E → r.rm = q.rm ∧ r.fpf = q.fpf) ∧ (reg 0x10F → r.lcol = q.lcol ∧ r.xcol = q.xcol) ∧ (reg 0x120 → r.padv = q.padv) ∧
    (reg 0x121 → r.mxpad = q.mxpad) ∧ (reg 0x122 → r.kvpad = q.kvpad) ∧ (reg 0x123 → r.kvpos = q.kvpos) ∧
    (noTrigger D (fun x => x = .brRet ∨ ∃ n, x = .brCall n) → r.stack = q.stack) ∧
    (noTrigger D (fun x => isGlobal x = true ∨ ∃ sc, x = .syMark sc) → noCommand q g → r.mops = q.mops) ∧
    (not .lpLoop → not .syJoin → q.loop.active = false → r.loop = q.loop) ∧
    r.xi = q.xi ∧ r.freq = q.freq ∧ r.store = q.store ∧ r.slen = q.slen ∧ r.fwd = q.fwd ∧ t.mem = s.mem ∧ d.sh0 = c.sh0 ∧ d.l1 = c.l1 ∧
    (not .syEvt → ∀ b, (∀ v j, Dst.main v j ∈ D → ¬(viewAddr (q.view v) j.toNat ≤ b ∧
      b < viewAddr (q.view v) j.toNat + viewWidth (q.view v))) → Cells.byte d.sh.reg b = Cells.byte c.sh.reg b) ∧
    (noTrigger D (fun x => ∃ u w, x = .ksSt u ∨ x = .ksStx u w) → StoreKept c.sh d.sh) ∧
    (noTrigger D (fun x => ∃ m, x = .mxMcfg m ∨ x = .mxBsw m) → MacrosKept c.sh d.sh) ∧
    (not .syEvt → (∀ n, Dst.creg n ∈ D → n.toNat < 0x130 ∨ 0x400 ≤ n.toNat) → CountsKept c.sh d.sh) ∧
    (not .sySema → d.semAdds = c.semAdds) ∧ ((∀ n, Dst.creg n ∈ D → 0x100 ≤ n.toNat) → d.semWrs = c.semWrs) ∧
    (noTrigger D (fun x => ∃ op, x = .tg op) → d.tagWrs = c.tagWrs) ∧ (not .brBkt → d.bktWr = c.bktWr) ∧
    ((∀ m j, Dst.xo m j ∉ D) → d.xfly = c.xfly) ∧ (noCommand q g → d.ops = c.ops) ∧ d.job = c.job ∧ d.evseq = c.evseq ∧
    (not .syLock → d.lwait = c.lwait ∧ d.lpend = c.lpend) ∧ d.locked = c.locked ∧
    (∀ n, (∀ m, hqIndex k m = n → Dst.hq m ∉ D ∧ m ∉ popsOf q g) → hqAt (t.cluster (cluOf k)).hq n = hq n)

/-- R37, R43 to R47, R61, R73, R175, R228, R249, R253, R296, R303, R307, R320, R322, R413: the frame of events. Those of one
core leave the other cores, the scheduler and memory as they are; those of the scheduler's and the device's
registers leave every core and memory; those of the homes' registers, links and records leave every byte, but for
what a flush of a page writes back (log 110). -/
def Obligations.EventFrame : Prop :=
  ∀ (s t : State) (k p n m : Nat) (x : Word) (tail : BitVec 32) (w : BitVec 3) (raw : BitVec 16) (b : Bool) (q : DoeReq) (pa : MeasPath)
      (hw : HomeRegWrite) (pg : Option (BitVec 36)) (y : Party),
    let ev (l : List Instr) (P : Prop) : Prop := ∀ i ∈ l, exec i s = .next t → P
    ev [.sectionRetire k p, .resultLands k p, .exchangeLands k, .transferDelayEnds k p, .mxAcceptIntervalEnds k m, .rahHelperSpawn k,
        .rahHelperDies k, .hardPreempt k, .copyfFollowOn k n, .mqSourcesReleased k n]
      ((∀ j, j ≠ k → t.core j = s.core j) ∧ t.clusters = s.clusters ∧ t.mem = s.mem ∧ t.sched = s.sched ∧ t.dev = s.dev ∧ t.fw = s.fw ∧
        t.out = s.out ∧ t.phase = s.phase) ∧
    ev [.lockGroupForms k, .probeTokenSend (.partition k p)]
      ((∀ j, j ≠ k → t.core j = s.core j) ∧ t.clusters = s.clusters ∧ t.mem = s.mem ∧ t.sched = s.sched ∧ t.out = s.out) ∧
    ev [.sqDoorbell n tail, .sqstatWrite n x, .budgetRefill, .msixCoalesceTimeout n, .msixCoalesceWrite n x, .msixVectorUnmask n,
        .sriovNumvfsWrite n, .cpreqWrite n x, .vminWrite x, .powerControllerRequestDone, .sratioSample, .sensorRead n m raw,
        .boardControllerTelemetry n m k, .flitReplay n, .laneFault n w, .l0pWidthChange n w, .getMeasurements pa n,
        .doeRequest n q]
      (t.cores = s.cores ∧ t.mem = s.mem ∧ t.fw = s.fw ∧ t.sched.streams = s.sched.streams ∧ t.sched.graphs = s.sched.graphs ∧
        t.phase = s.phase) ∧
    ev [.homeInvalidate n pg, .linkDown n, .portReset n, .ideIntegrityFail n m, .ideKm n m b]
      (t.cores = s.cores ∧ t.clusters = s.clusters ∧ t.sched = s.sched ∧ ∀ z : Place, t.mem.get z 1 = s.mem.get z 1) ∧
    ev [.homeRegisterWrite n hw]
      (t.cores = s.cores ∧ t.clusters = s.clusters ∧ t.sched = s.sched ∧ t.dev = s.dev ∧ t.out = s.out ∧
        ((∀ f, hw ≠ .llcFlush f) → ∀ z : Place, t.mem.get z 1 = s.mem.get z 1)) ∧
    ev [.memRecordPosted n, .trapRecordPosted k, .preemptRequest k, .queueEntryVisible n m, .probeTokenSend y]
      (t.sched = s.sched ∧ t.fw = s.fw ∧ t.out = s.out ∧ ∀ z : Place, t.mem.get z 1 = s.mem.get z 1) ∧
    ev [.probeTokenReturn n]
      (t.sched = { s.sched with ending := t.sched.ending } ∧ t.fw = s.fw ∧ t.out = s.out ∧ ∀ z : Place, t.mem.get z 1 = s.mem.get z 1)

/-! ### Traps -/

/-- R342 to R344, R363: a group that meets a cause has no effect, and its partition stops with the cause, its
information and the PC of the group. A helper dies. On a user core the record of R344 joins the core's; the firmware
core begins a transfer to FWTVEC, after the three delay cycles of R175 in which nothing issues, with the record in
FWTREC, and halts with FWTVEC 0 or a record of the same partition not yet cleared, as both stood when the cycle began
(R79). That the cycle of the trap counts
as the transfer's own is log 66. -/
def Obligations.TrapTaken : Prop :=
  ∀ (i : Instr) (g : Group) (s : State) (k p : Nat) (x : Cause), i.group = some g → s.phase = .prt k p → s.has k p = true →
    s.canIssue k p = true → (s.core k).held p = false → firstCause ((s.env k p).verdict g).causes = some x → k < 128 → p < 12 →
      let c := s.core k
      let q := c.prt p
      let again : Prop := s.fw0.fwtvec = 0 ∨ (fld s.fw0.rec0 60 4 = 0xF ∧ fld s.fw0.rec0 56 4 = p)
      let isRecord (w0 w1 w2 w3 : Word) : Prop := fld w0 60 4 = 0xF ∧ fld w0 56 4 = p ∧ fld w0 48 8 = x.kind.code.toNat ∧ fld w0 44 4 = k % 8 ∧
        fld w0 40 4 = k / 8 ∧ w0.getLsbD 39 = c.isLocked p ∧ fld w0 32 7 = 0 ∧ fld w0 0 32 = c.jobId.toNat ∧ w1 = x.info1 ∧ w2 = x.info2 ∧
        fld w3 32 32 = c.sh.scnt.toNat % 2 ^ 32 ∧ fld w3 15 17 = 0 ∧ fld w3 2 13 = q.pc.toNat ∧ fld w3 0 2 = 0
      let same (r : Partition) : Prop := RegistersKept { q with trap := r.trap } r ∧ r.preds = q.preds ∧ r.units = q.units
      ∃ t, exec i s = .next t ∧ OutsideKept s t k p ∧ (t.core k).ops = c.ops ∧ (t.core k).xfly = c.xfly ∧ t.clusters = s.clusters ∧
        let d := t.core k
        let r := d.prt p
        same r ∧ (∀ h, d.helper = some h → h.dead = true) ∧ (k ≠ 0 ∨ again → r.fly = q.fly ∧ d.sh = c.sh) ∧
        (k ≠ 0 → r.trap = some ⟨x.kind.code, x.info1, x.info2, q.pc⟩ ∧ r.pc = q.pc ∧ r.left = q.left ∧ r.secs = q.secs ∧ r.loop = q.loop ∧
          r.transfer = q.transfer ∧ (∃ e, d.trapOut = c.trapOut ++ [e] ∧ isRecord e.dw0 e.dw1 e.dw2 e.dw3) ∧
          t.fw = s.fw ∧ t.dev = s.dev) ∧
        (k = 0 → ¬again → r.trap = q.trap ∧ r.pc = q.pc ∧ r.left = 0 ∧ r.transfer = some ⟨s.fw0.fwtvec.extractLsb' 2 13, 3⟩ ∧
          r.fly = q.fly.map (fun f => { f with rem := f.rem - 1 }) ∧ d.sh = c.sh.countIntervals p 0xFF ∧
          isRecord t.fw.rec0 t.fw.rec1 t.fw.rec2 t.fw.rec3 ∧ t.dev = s.dev) ∧
        (k = 0 → again → r.trap = some ⟨x.kind.code, x.info1, x.info2, q.pc⟩ ∧ t.dev.fwhalt = true ∧ t.fw = s.fw)

/-- R178, R353, R365, R367 to R369, R372, R373, R375: causes and their information: ENCODE for a reserved word and
for a transfer in a loop, PRIV for a user access to 0x400 and above, QLOCK and LOCKUSE in a locked group, POISON at
a guard and a sink, FETCH past SLEN and at a target past the last parcel there can be, SWTRAP at the group after a br.trap. Of several causes the one of the least
rank is raised, and within a rank that of the lowest slot. The value of a poisoned guard is log 26. -/
def Obligations.TrapCauses : Prop :=
  ∀ (s : State) (k p : Nat) (g : Guard) (src : Src) (d : Dst) (y : BitVec 21) (l : BitVec 12) (n : BitVec 4) (i : Instr) (w : Group)
      (tr : Trigger) (b : BitVec 2),
    let c := s.core k
    let q := c.prt p
    let cx := ctxOf k p
    let traps (j : Instr) (cause : BitVec 8) (i1 i2 : Word) : Prop := exec j s = .next (s.trapped k p cause i1 i2)
    let lo (x : BitVec 96) : Word := x.extractLsb' 0 64
    let hi (x : BitVec 96) : Word := x.extractLsb' 64 32 |>.setWidth 64
    let runs (sr : Src) (ds : Dst) : Prop := i.group = some (oneMove g sr ds) ∧ s.wordReady k p (oneMove g sr ds) = true ∧
      q.predPoison g.pred = false ∧ q.holds g = true
    let pc := q.pc.toNat
    let x := q.wordAt pc
    (i.group = some w → s.atTurn k p = true → w.wf cx = false → w.w1 = none → traps i 0x07 (lo (w.w0.bits cx false)) (hi (w.w0.bits cx false))) ∧
    (runs (.imm y) (.trig (.brJmp b)) → q.loop.active = true → let v := (WordF.mm ⟨g, .imm y, .trig (.brJmp b)⟩ Move.empty).bits cx false
      traps i 0x07 (lo v) (hi v)) ∧
    (k ≠ 0 → 0x400 ≤ l.toNat → (runs (.creg l) d → plainDst d = true → traps i 0x0B (l.setWidth 64) 0) ∧
      (runs (.imm y) (.creg l) → traps i 0x0B (l.setWidth 64) 0)) ∧
    (c.isLocked p = true → (hqAt (s.env k p).hq (hqIndex k n)).visible = 0 → runs (.hq n) d → plainDst d = true →
      traps i 0x08 (n.setWidth 64) 0) ∧
    (c.isLocked p = true → isGlobal tr = true → runs (.imm y) (.trig tr) → traps i 0x09 (((Dst.trig tr).bits cx).setWidth 64) 0) ∧
    (i.group = some (oneMove g (.imm y) .sink) → s.wordReady k p (oneMove g (.imm y) .sink) = true → q.predPoison g.pred = true →
      traps i 0x02 (if q.pred g.pred then 1 else 0) 0) ∧
    (l.toNat < 0x400 → runs src (.creg l) → (s.env k p).readable src = true → ((s.env k p).readPlain src).psn = true →
      let v := (s.env k p).readPlain src
      traps i 0x02 v.pw (BitVec.ofNat 64 (v.bits.toNat / 2 ^ 64))) ∧
    (∀ (cs : List Cause) (a : Cause), firstCause cs = some a → a ∈ cs ∧ ∀ e ∈ cs, a.kind.rank ≤ e.kind.rank ∧
      (a.kind.rank = e.kind.rank → a.slot ≤ e.slot)) ∧
    (s.streams k p = true → c.held p = false → q.left ≠ 0 →
      (q.slen < pc + 3 → step s = .next (s.trapped k p 0x06 (BitVec.ofNat 64 (max pc q.slen)) 0)) ∧
      (∀ e, pc + 3 ≤ q.slen → pairBit x = false → decodeGroup cx x none = .error e → step s = .next (s.trapped k p 0x07 (lo x) (hi x)))) ∧
    (∀ f, s.streams k p = true → c.held p = false → q.left = 0 → q.transfer = none → q.far = some f →
      step s = .next (s.trapped k p 0x06 (BitVec.ofNat 64 (max f.toNat q.slen)) 0)) ∧
    (∀ v, s.phase = .prt k p → k < 128 → p < 12 → s.canIssue k p = true → c.preempting = false → c.held p = false → q.swtrap = some v →
      q.transfer = none → step s = .next (s.trapped k p 0x01 (v.setWidth 64) 0))

/-- R377: a main-file operand out of bounds, in a read or a write, raises BOUND with its field and its address; a
view register takes whatever is written. -/
def Obligations.BoundTraps : Prop :=
  ∀ (s : State) (k p : Nat) (g : Guard) (v : BitVec 3) (j : BitVec 13) (src : Src) (d : Dst),
    let q := (s.core k).prt p
    let cx := ctxOf k p
    let x := q.view v
    let width := match fld x 62 2 with | 0 => 4 | 1 => 8 | 2 => 128 | _ => 1024
    let base := fld x 0 18
    let stride := 4 * fld x 26 16
    let a := base + stride * j.toNat
    let al := min width 128
    let out : Prop := fld x 42 14 ≤ j.toNat ∨ 196608 < a + width ∨ base % al ≠ 0 ∨ stride % al ≠ 0
    let bound (sr : Src) (ds : Dst) (field : Word) : Prop :=
      s.wordReady k p (oneMove g sr ds) = true → q.predPoison g.pred = false → q.holds g = true →
        exec (.mmWord (oneMove g sr ds)) s = .next (s.trapped k p 0x0D field (BitVec.ofNat 64 a))
    (out → plainDst d = true → bound (.main v j) d (((Src.main v j).bits cx).setWidth 64)) ∧
    (out → (∀ u n, src ≠ .main u n) → (∀ n : BitVec 12, src = .creg n → n.toNat < 0x400) →
      bound src (.main v j) (((Dst.main v j).bits cx).setWidth 64)) ∧
    (∀ y : BitVec 64, out → s.wordReady k p ⟨.ml g (.main v j) y, none⟩ = true → q.predPoison g.pred = false → q.holds g = true →
      exec (.mlWord g (.main v j) y) s = .next (s.trapped k p 0x0D (((Dst.main v j).bits cx).setWidth 64) (BitVec.ofNat 64 a))) ∧
    (s.has k p = true → s.ready k p g src (.creg (0x100#12 ||| v.setWidth 12)) = true → ∃ t, exec (.viewWrite v g src) s = .next t ∧
      ((t.core k).prt p).trap = none ∧
      ((t.core k).prt p).views = q.views.set v.toNat ((((s.env k p).readPlain src).at 8).setWidth 64 &&& 0xFCFFFFFFFC03FFFF#64))

/-- R306, R307, R401, R403, R404, R410: a rejected entry is taken: HEAD moves past it, ERR and CODE are set, a REJECT
record is logged, its signal word falls and its interrupt is counted or sent. A doorbell that would overflow the ring
takes nothing. The order of the checks is log 53 and the alignment of a signal word log 79. -/
def Obligations.RejectedEntries : Prop :=
  ∀ (s s1 s2 u : State) (n code : Nat) (e im : List Word) (tail : BitVec 32) (m1 m2 : Memory) (x : Nat) (pl : Place) (b cf : Bool) (i : Instr),
    let ia := fld (e.getD 1 0) 0 48
    let v := fld (e.getD 0 0) 44 11
    let st := s1.stream (fld (e.getD 2 0) 0 10)
    let opc := entryOpc e
    let ok : Prop := s1.entryCode n e = 0
    let rejects : Prop :=
      (i = entryStep n opc ∧ u = s1 ∧ code = s1.entryCode n e ∧ code ≠ 0) ∨
      (i = .sqInvoke n ∧ opc = 1 ∧ ok ∧ code = 4 ∧ ∃ w va, s1.resident (fld (e.getD 2 0) 0 4) (fld (e.getD 3 0) 0 48) = .fault u w va) ∨
      (i = .sqSopen n ∧ opc = 2 ∧ ok ∧ u = s1 ∧ code = 3 ∧ st.state ≠ 0) ∨
      (i = .sqSopen n ∧ opc = 2 ∧ ok ∧ code = 5 ∧ st.state = 0 ∧ ∃ w va, s1.readDws (fld (e.getD 3 0) 0 48) 16 = .fault u w va) ∨
      (i = .sqSopen n ∧ opc = 2 ∧ ok ∧ st.state = 0 ∧ s1.readDws (fld (e.getD 3 0) 0 48) 16 = .ok s2 im ∧
        s2.checkOpen n im = some (u, .inl code)) ∨
      (i = .sqSclose n ∧ opc = 3 ∧ ok ∧ u = s1 ∧ code = 3 ∧ st.state ≠ 1) ∨
      (i = .sqSupdate n ∧ opc = 4 ∧ ok ∧ u = s1 ∧ code = 3 ∧ st.state ≠ 1)
    let y := u.vector v
    let f := u.msixEntry v
    let z := u.entry f.1 f.2
    (s.headEntry n = some (s1, e) → rejects → code < 256 → n < u.sched.rings.length → n < u.dev.flog.length → n < u.dev.flogseq.length →
      v < u.sched.vectors.length →
      ((ia = 0 ∧ m2 = u.mem) ∨ (ia ≠ 0 ∧ u.mem.devRead ia 8 = (m1, .ok x b) ∧ m1.devWrite ia 8 ((x + 2 ^ 64 - 1) % 2 ^ 64) = (m2, .go pl cf))) →
        ∃ t, exec i s = .next t ∧ (t.ring n).head = (u.ring n).head + 1 ∧ (t.ring n).err = true ∧ (t.ring n).code.toNat = code ∧
          t.mem = m2 ∧ t.sched.streams = u.sched.streams ∧ t.sched.graphs = u.sched.graphs ∧
          t.dev.flogseq.getD n 0 = u.dev.flogseq.getD n 0 + 1 ∧
          (∃ r ∈ t.dev.flog.getD n [], fld r.dw0 56 8 = 1 ∧ fld r.dw0 48 8 = code ∧ fld r.dw0 0 32 = fld (e.getD 0 0) 0 32 ∧
            fld r.dw1 0 32 = (u.dev.flogseq.getD n 0).toNat) ∧
          ((e.getD 0 0).getLsbD 55 = false → t.out = u.out ∧ t.vector v = y) ∧
          ((e.getD 0 0).getLsbD 55 = true → y.pending + 1 < y.count.toNat → y.time ≠ 0 → t.out = u.out ∧ (t.vector v).pending = y.pending + 1) ∧
          ((e.getD 0 0).getLsbD 55 = true → (y.count.toNat ≤ y.pending + 1 ∨ y.time = 0) → u.sched.msixEn.getD f.1 false = true →
            z.masked = false → m2.shut 0 z.addr.toNat = false → t.out = .msix f.1 f.2 z.addr z.data :: u.out ∧ (t.vector v).pending = 0)) ∧
    (n < s.sched.rings.length → 2 ^ (s.ring n).log2n.toNat < (tail - (s.ring n).head).toNat → ∃ t, exec (.sqDoorbell n tail) s = .next t ∧
      t.ring n = { s.ring n with err := true, code := 0x07 } ∧ t.dev = s.dev ∧ t.mem = s.mem ∧ t.out = s.out ∧ t.sched.cmds = s.sched.cmds)

/-! ### Decoding, steps and form -/

/-- R9, R138, R139, R152, R153, R342: a partition that comes to the parcels at its PC takes one word, or two where the
first has PAIR and is not the last of its section, or two parcels as a header between sections; what they decode
to is the instruction of the step, and the step is exec of it and nothing else. -/
def Obligations.StepRunsDecoded : Prop :=
  ∀ (s : State) (k p : Nat) (i : Instr),
    let q := (s.core k).prt p
    let cx := ctxOf k p
    let n := if pairBit (q.wordAt q.pc.toNat) = true ∧ 2 ≤ q.left then 6 else 3
    s.streams k p = true →
      (q.left ≠ 0 → q.pc.toNat + n ≤ q.slen → decodeParcels cx (q.ahead n) = .ok i → step s = exec i s ∧ i.wf cx = true) ∧
      (q.left = 0 → q.transfer = none → q.far = none → q.pc.toNat + 2 ≤ q.slen → decodeParcels cx (q.ahead 2) = .ok i → step s = exec i s ∧ i.wf cx = true)

/-- R78, R138 to R145, R152: the words that the spec writes out, as parcels from the lowest address up, decode to the
instructions that it gives them. -/
def Obligations.DecodeSamples : Prop :=
  let vec : Ctx := ⟨.vec, false, false⟩
  let ctl : Ctx := ⟨.ctl, false, false⟩
  let mem : Ctx := ⟨.mem, false, false⟩
  let fvec : Ctx := ⟨.vec, true, false⟩
  let fw : Ctx := ⟨.ctl, false, true⟩
  let p0 : Guard := ⟨0, false⟩
  decodeParcels ctl [0x00000200, 0x14004000] = .ok (.sectionHeader 40 4 0x200) ∧
  decodeParcels vec [0x00000000, 0x02500403] = .ok (.sectionHeader 4 0x500 0x40300000000) ∧
  decodeParcels vec [0x00000000, 0x01000000] = .ok (.sectionHeader 2 0 0) ∧
  decodeParcels vec [0x3F000000, 0x3F000000, 0x20492000] = .ok (.mlWord p0 (.port .vf0 .o1) 0x3F0000003F000000) ∧
  decodeParcels vec [0x00600000, 0x000802F8, 0x00610881] = .ok (.syChk p0 (.main 1 1)) ∧
  decodeParcels ctl [0x00600000, 0x000002F8, 0x01600098] = .ok (.brJmp 0 ⟨1, false⟩ (.imm 0)) ∧
  decodeParcels ctl [0x00600000, 0xE00002F8, 0x00600208] = .ok (.brBkt p0 (.latch .ks0 .res 0)) ∧
  decodeParcels vec [0x00600000, 0x000002F8, 0x006BD8A2] = .ok (.fsCvt .e4m3 .f32 true .rne p0 (.main 2 0)) ∧
  decodeParcels vec [0x00040020, 0x00000125, 0x10492001, 0x01A90000, 0x00100080, 0x00690181] =
    .ok (.mmWord ⟨.mm ⟨p0, .main 1 0, .port .vf0 .o1⟩ ⟨p0, .main 1 1, .port .vf0 .o2⟩,
      some (.mm ⟨p0, .main 1 2, .trig (.vf false .fma .csr .f32)⟩ ⟨p0, .latch .vf0 .res 0, .ofile 3⟩)⟩) ∧
  decodeParcels fvec [0x00C60003, 0x8000C010, 0x00040011] =
    .ok (.mmWord ⟨.mm ⟨p0, .hq 3, .main 1 0⟩ ⟨p0, .hq 3, .main 1 1⟩, none⟩) ∧
  decodeParcels mem [0x05C00003, 0x000001A0, 0x00482003] =
    .ok (.mmWord ⟨.mm ⟨p0, .main 3 0, .port .gm0 .o1⟩ ⟨p0, .ofile 3, .trig (.gmSt false .l)⟩, none⟩) ∧
  decodeParcels fw [0x00000000, 0x048B8004, 0x40000000] = .ok (.mmWord ⟨.mc .patch ⟨p0, 0, 0, 9, 1, 4, 0⟩, none⟩)

/-- R138 to R162, R364, R367: decoding what the encoder writes for a well-formed step gives that step, with every
operand at every value; and whatever decodes is well-formed and is what the encoder writes for it, so that no bit is
dropped and no two encodings name one step. -/
def Obligations.EncodingRoundTrip : Prop :=
  ∀ (c : Ctx),
    (∀ i, i.wf c = true → decodeParcels c (encodeParcels c i) = .ok i) ∧
    (∀ ps i, decodeParcels c ps = .ok i → i.wf c = true ∧ encodeParcels c i = ps)

/-- R3, R4, R54: the part goes on: from every state of legal form a step gives a next state, and it is of legal form:
its phase names an agent of the die, no core, cluster or home is lost, and memory keeps its canonical form. -/
def Obligations.StepKeepsForm : Prop :=
  ∀ (s : State), s.Form → ∃ t, step s = .next t ∧ t.Form
end

