-- ==== Sys2Proof/Laws/State.lean ====
section
/-! SUPPORT. The fields that an update leaves as they were, and what a read of the field that it changes
gives. No later proof unfolds an update. -/

namespace Sys2Proof.Machine

/-! ### Fields that an update leaves -/

@[simp] theorem setCore_clusters (s : State) (k : Nat) (c : Core) : (s.setCore k c).clusters = s.clusters := rfl
@[simp] theorem setCore_mem (s : State) (k : Nat) (c : Core) : (s.setCore k c).mem = s.mem := rfl
@[simp] theorem setCore_fw (s : State) (k : Nat) (c : Core) : (s.setCore k c).fw = s.fw := rfl
@[simp] theorem setCore_sched (s : State) (k : Nat) (c : Core) : (s.setCore k c).sched = s.sched := rfl
@[simp] theorem setCore_dev (s : State) (k : Nat) (c : Core) : (s.setCore k c).dev = s.dev := rfl
@[simp] theorem setCore_probes (s : State) (k : Nat) (c : Core) : (s.setCore k c).probes = s.probes := rfl
@[simp] theorem setCore_probeId (s : State) (k : Nat) (c : Core) : (s.setCore k c).probeId = s.probeId := rfl
@[simp] theorem setCore_fclk (s : State) (k : Nat) (c : Core) : (s.setCore k c).fclk = s.fclk := rfl
@[simp] theorem setCore_phase (s : State) (k : Nat) (c : Core) : (s.setCore k c).phase = s.phase := rfl
@[simp] theorem setCore_inbox (s : State) (k : Nat) (c : Core) : (s.setCore k c).inbox = s.inbox := rfl
@[simp] theorem setCore_out (s : State) (k : Nat) (c : Core) : (s.setCore k c).out = s.out := rfl
@[simp] theorem setCore_free (s : State) (k : Nat) (c : Core) : (s.setCore k c).free = s.free := rfl

@[simp] theorem modCore_clusters (s : State) (k : Nat) (f : Core → Core) : (s.modCore k f).clusters = s.clusters := rfl
@[simp] theorem modCore_mem (s : State) (k : Nat) (f : Core → Core) : (s.modCore k f).mem = s.mem := rfl
@[simp] theorem modCore_fw (s : State) (k : Nat) (f : Core → Core) : (s.modCore k f).fw = s.fw := rfl
@[simp] theorem modCore_sched (s : State) (k : Nat) (f : Core → Core) : (s.modCore k f).sched = s.sched := rfl
@[simp] theorem modCore_dev (s : State) (k : Nat) (f : Core → Core) : (s.modCore k f).dev = s.dev := rfl
@[simp] theorem modCore_probes (s : State) (k : Nat) (f : Core → Core) : (s.modCore k f).probes = s.probes := rfl
@[simp] theorem modCore_probeId (s : State) (k : Nat) (f : Core → Core) : (s.modCore k f).probeId = s.probeId := rfl
@[simp] theorem modCore_fclk (s : State) (k : Nat) (f : Core → Core) : (s.modCore k f).fclk = s.fclk := rfl
@[simp] theorem modCore_phase (s : State) (k : Nat) (f : Core → Core) : (s.modCore k f).phase = s.phase := rfl
@[simp] theorem modCore_inbox (s : State) (k : Nat) (f : Core → Core) : (s.modCore k f).inbox = s.inbox := rfl
@[simp] theorem modCore_out (s : State) (k : Nat) (f : Core → Core) : (s.modCore k f).out = s.out := rfl
@[simp] theorem modCore_free (s : State) (k : Nat) (f : Core → Core) : (s.modCore k f).free = s.free := rfl

@[simp] theorem modPrt_clusters (s : State) (k p : Nat) (f : Partition → Partition) : (s.modPrt k p f).clusters = s.clusters := rfl
@[simp] theorem modPrt_mem (s : State) (k p : Nat) (f : Partition → Partition) : (s.modPrt k p f).mem = s.mem := rfl
@[simp] theorem modPrt_fw (s : State) (k p : Nat) (f : Partition → Partition) : (s.modPrt k p f).fw = s.fw := rfl
@[simp] theorem modPrt_sched (s : State) (k p : Nat) (f : Partition → Partition) : (s.modPrt k p f).sched = s.sched := rfl
@[simp] theorem modPrt_dev (s : State) (k p : Nat) (f : Partition → Partition) : (s.modPrt k p f).dev = s.dev := rfl
@[simp] theorem modPrt_probes (s : State) (k p : Nat) (f : Partition → Partition) : (s.modPrt k p f).probes = s.probes := rfl
@[simp] theorem modPrt_probeId (s : State) (k p : Nat) (f : Partition → Partition) : (s.modPrt k p f).probeId = s.probeId := rfl
@[simp] theorem modPrt_fclk (s : State) (k p : Nat) (f : Partition → Partition) : (s.modPrt k p f).fclk = s.fclk := rfl
@[simp] theorem modPrt_phase (s : State) (k p : Nat) (f : Partition → Partition) : (s.modPrt k p f).phase = s.phase := rfl
@[simp] theorem modPrt_inbox (s : State) (k p : Nat) (f : Partition → Partition) : (s.modPrt k p f).inbox = s.inbox := rfl
@[simp] theorem modPrt_out (s : State) (k p : Nat) (f : Partition → Partition) : (s.modPrt k p f).out = s.out := rfl
@[simp] theorem modPrt_free (s : State) (k p : Nat) (f : Partition → Partition) : (s.modPrt k p f).free = s.free := rfl

@[simp] theorem modCluster_cores (s : State) (c : Nat) (f : Cluster → Cluster) : (s.modCluster c f).cores = s.cores := rfl
@[simp] theorem modCluster_mem (s : State) (c : Nat) (f : Cluster → Cluster) : (s.modCluster c f).mem = s.mem := rfl
@[simp] theorem modCluster_fw (s : State) (c : Nat) (f : Cluster → Cluster) : (s.modCluster c f).fw = s.fw := rfl
@[simp] theorem modCluster_sched (s : State) (c : Nat) (f : Cluster → Cluster) : (s.modCluster c f).sched = s.sched := rfl
@[simp] theorem modCluster_dev (s : State) (c : Nat) (f : Cluster → Cluster) : (s.modCluster c f).dev = s.dev := rfl
@[simp] theorem modCluster_probes (s : State) (c : Nat) (f : Cluster → Cluster) : (s.modCluster c f).probes = s.probes := rfl
@[simp] theorem modCluster_probeId (s : State) (c : Nat) (f : Cluster → Cluster) : (s.modCluster c f).probeId = s.probeId := rfl
@[simp] theorem modCluster_fclk (s : State) (c : Nat) (f : Cluster → Cluster) : (s.modCluster c f).fclk = s.fclk := rfl
@[simp] theorem modCluster_phase (s : State) (c : Nat) (f : Cluster → Cluster) : (s.modCluster c f).phase = s.phase := rfl
@[simp] theorem modCluster_inbox (s : State) (c : Nat) (f : Cluster → Cluster) : (s.modCluster c f).inbox = s.inbox := rfl
@[simp] theorem modCluster_out (s : State) (c : Nat) (f : Cluster → Cluster) : (s.modCluster c f).out = s.out := rfl
@[simp] theorem modCluster_free (s : State) (c : Nat) (f : Cluster → Cluster) : (s.modCluster c f).free = s.free := rfl

@[simp] theorem withEnv_mem (s : State) (e : Env) : (s.withEnv e).mem = s.mem := rfl
@[simp] theorem withEnv_sched (s : State) (e : Env) : (s.withEnv e).sched = s.sched := rfl
@[simp] theorem withEnv_dev (s : State) (e : Env) : (s.withEnv e).dev = s.dev := rfl
@[simp] theorem withEnv_probes (s : State) (e : Env) : (s.withEnv e).probes = s.probes := rfl
@[simp] theorem withEnv_probeId (s : State) (e : Env) : (s.withEnv e).probeId = s.probeId := rfl
@[simp] theorem withEnv_fclk (s : State) (e : Env) : (s.withEnv e).fclk = s.fclk := rfl
@[simp] theorem withEnv_phase (s : State) (e : Env) : (s.withEnv e).phase = s.phase := rfl
@[simp] theorem withEnv_inbox (s : State) (e : Env) : (s.withEnv e).inbox = s.inbox := rfl
@[simp] theorem withEnv_out (s : State) (e : Env) : (s.withEnv e).out = s.out := rfl
@[simp] theorem withEnv_free (s : State) (e : Env) : (s.withEnv e).free = s.free := rfl

@[simp] theorem nextTurn_cores (s : State) (k p : Nat) : (s.nextTurn k p).cores = s.cores := rfl
@[simp] theorem nextTurn_clusters (s : State) (k p : Nat) : (s.nextTurn k p).clusters = s.clusters := rfl
@[simp] theorem nextTurn_mem (s : State) (k p : Nat) : (s.nextTurn k p).mem = s.mem := rfl
@[simp] theorem nextTurn_fw (s : State) (k p : Nat) : (s.nextTurn k p).fw = s.fw := rfl
@[simp] theorem nextTurn_sched (s : State) (k p : Nat) : (s.nextTurn k p).sched = s.sched := rfl
@[simp] theorem nextTurn_dev (s : State) (k p : Nat) : (s.nextTurn k p).dev = s.dev := rfl
@[simp] theorem nextTurn_probes (s : State) (k p : Nat) : (s.nextTurn k p).probes = s.probes := rfl
@[simp] theorem nextTurn_probeId (s : State) (k p : Nat) : (s.nextTurn k p).probeId = s.probeId := rfl
@[simp] theorem nextTurn_fclk (s : State) (k p : Nat) : (s.nextTurn k p).fclk = s.fclk := rfl
@[simp] theorem nextTurn_inbox (s : State) (k p : Nat) : (s.nextTurn k p).inbox = s.inbox := rfl
@[simp] theorem nextTurn_out (s : State) (k p : Nat) : (s.nextTurn k p).out = s.out := rfl
@[simp] theorem nextTurn_free (s : State) (k p : Nat) : (s.nextTurn k p).free = s.free := rfl

@[simp] theorem core_setPrt_sh (c : Core) (p : Nat) (q : Partition) : (c.setPrt p q).sh = c.sh := rfl
@[simp] theorem core_setPrt_sh0 (c : Core) (p : Nat) (q : Partition) : (c.setPrt p q).sh0 = c.sh0 := rfl
@[simp] theorem core_setPrt_semAdds (c : Core) (p : Nat) (q : Partition) : (c.setPrt p q).semAdds = c.semAdds := rfl
@[simp] theorem core_setPrt_semWrs (c : Core) (p : Nat) (q : Partition) : (c.setPrt p q).semWrs = c.semWrs := rfl
@[simp] theorem core_setPrt_tagWrs (c : Core) (p : Nat) (q : Partition) : (c.setPrt p q).tagWrs = c.tagWrs := rfl
@[simp] theorem core_setPrt_bktWr (c : Core) (p : Nat) (q : Partition) : (c.setPrt p q).bktWr = c.bktWr := rfl
@[simp] theorem core_setPrt_xfly (c : Core) (p : Nat) (q : Partition) : (c.setPrt p q).xfly = c.xfly := rfl
@[simp] theorem core_setPrt_cancel (c : Core) (p : Nat) (q : Partition) : (c.setPrt p q).cancel = c.cancel := rfl
@[simp] theorem core_setPrt_locked (c : Core) (p : Nat) (q : Partition) : (c.setPrt p q).locked = c.locked := rfl
@[simp] theorem core_setPrt_lpend (c : Core) (p : Nat) (q : Partition) : (c.setPrt p q).lpend = c.lpend := rfl
@[simp] theorem core_setPrt_lwait (c : Core) (p : Nat) (q : Partition) : (c.setPrt p q).lwait = c.lwait := rfl
@[simp] theorem core_setPrt_lleave (c : Core) (p : Nat) (q : Partition) : (c.setPrt p q).lleave = c.lleave := rfl
@[simp] theorem core_setPrt_lockGo (c : Core) (p : Nat) (q : Partition) : (c.setPrt p q).lockGo = c.lockGo := rfl
@[simp] theorem core_setPrt_late (c : Core) (p : Nat) (q : Partition) : (c.setPrt p q).late = c.late := rfl
@[simp] theorem core_setPrt_mxUsed (c : Core) (p : Nat) (q : Partition) : (c.setPrt p q).mxUsed = c.mxUsed := rfl
@[simp] theorem core_setPrt_seq (c : Core) (p : Nat) (q : Partition) : (c.setPrt p q).seq = c.seq := rfl
@[simp] theorem core_setPrt_refill (c : Core) (p : Nat) (q : Partition) : (c.setPrt p q).refill = c.refill := rfl
@[simp] theorem core_setPrt_refillFault (c : Core) (p : Nat) (q : Partition) : (c.setPrt p q).refillFault = c.refillFault := rfl
@[simp] theorem core_setPrt_l1 (c : Core) (p : Nat) (q : Partition) : (c.setPrt p q).l1 = c.l1 := rfl
@[simp] theorem core_setPrt_prefs (c : Core) (p : Nat) (q : Partition) : (c.setPrt p q).prefs = c.prefs := rfl
@[simp] theorem core_setPrt_ops (c : Core) (p : Nat) (q : Partition) : (c.setPrt p q).ops = c.ops := rfl
@[simp] theorem core_setPrt_opId (c : Core) (p : Nat) (q : Partition) : (c.setPrt p q).opId = c.opId := rfl
@[simp] theorem core_setPrt_paceAge (c : Core) (p : Nat) (q : Partition) : (c.setPrt p q).paceAge = c.paceAge := rfl
@[simp] theorem core_setPrt_trapOut (c : Core) (p : Nat) (q : Partition) : (c.setPrt p q).trapOut = c.trapOut := rfl
@[simp] theorem core_setPrt_helper (c : Core) (p : Nat) (q : Partition) : (c.setPrt p q).helper = c.helper := rfl
@[simp] theorem core_setPrt_job (c : Core) (p : Nat) (q : Partition) : (c.setPrt p q).job = c.job := rfl
@[simp] theorem core_setPrt_evseq (c : Core) (p : Nat) (q : Partition) : (c.setPrt p q).evseq = c.evseq := rfl
@[simp] theorem core_setPrt_ringValid (c : Core) (p : Nat) (q : Partition) : (c.setPrt p q).ringValid = c.ringValid := rfl
@[simp] theorem core_setPrt_dbg (c : Core) (p : Nat) (q : Partition) : (c.setPrt p q).dbg = c.dbg := rfl
@[simp] theorem core_setPrt_ftbReload (c : Core) (p : Nat) (q : Partition) : (c.setPrt p q).ftbReload = c.ftbReload := rfl

@[simp] theorem core_modPrt_sh (c : Core) (p : Nat) (f : Partition → Partition) : (c.modPrt p f).sh = c.sh := rfl
@[simp] theorem core_modPrt_sh0 (c : Core) (p : Nat) (f : Partition → Partition) : (c.modPrt p f).sh0 = c.sh0 := rfl
@[simp] theorem core_modPrt_semAdds (c : Core) (p : Nat) (f : Partition → Partition) : (c.modPrt p f).semAdds = c.semAdds := rfl
@[simp] theorem core_modPrt_semWrs (c : Core) (p : Nat) (f : Partition → Partition) : (c.modPrt p f).semWrs = c.semWrs := rfl
@[simp] theorem core_modPrt_tagWrs (c : Core) (p : Nat) (f : Partition → Partition) : (c.modPrt p f).tagWrs = c.tagWrs := rfl
@[simp] theorem core_modPrt_bktWr (c : Core) (p : Nat) (f : Partition → Partition) : (c.modPrt p f).bktWr = c.bktWr := rfl
@[simp] theorem core_modPrt_xfly (c : Core) (p : Nat) (f : Partition → Partition) : (c.modPrt p f).xfly = c.xfly := rfl
@[simp] theorem core_modPrt_cancel (c : Core) (p : Nat) (f : Partition → Partition) : (c.modPrt p f).cancel = c.cancel := rfl
@[simp] theorem core_modPrt_locked (c : Core) (p : Nat) (f : Partition → Partition) : (c.modPrt p f).locked = c.locked := rfl
@[simp] theorem core_modPrt_lpend (c : Core) (p : Nat) (f : Partition → Partition) : (c.modPrt p f).lpend = c.lpend := rfl
@[simp] theorem core_modPrt_lwait (c : Core) (p : Nat) (f : Partition → Partition) : (c.modPrt p f).lwait = c.lwait := rfl
@[simp] theorem core_modPrt_lleave (c : Core) (p : Nat) (f : Partition → Partition) : (c.modPrt p f).lleave = c.lleave := rfl
@[simp] theorem core_modPrt_lockGo (c : Core) (p : Nat) (f : Partition → Partition) : (c.modPrt p f).lockGo = c.lockGo := rfl
@[simp] theorem core_modPrt_late (c : Core) (p : Nat) (f : Partition → Partition) : (c.modPrt p f).late = c.late := rfl
@[simp] theorem core_modPrt_mxUsed (c : Core) (p : Nat) (f : Partition → Partition) : (c.modPrt p f).mxUsed = c.mxUsed := rfl
@[simp] theorem core_modPrt_seq (c : Core) (p : Nat) (f : Partition → Partition) : (c.modPrt p f).seq = c.seq := rfl
@[simp] theorem core_modPrt_refill (c : Core) (p : Nat) (f : Partition → Partition) : (c.modPrt p f).refill = c.refill := rfl
@[simp] theorem core_modPrt_refillFault (c : Core) (p : Nat) (f : Partition → Partition) : (c.modPrt p f).refillFault = c.refillFault := rfl
@[simp] theorem core_modPrt_l1 (c : Core) (p : Nat) (f : Partition → Partition) : (c.modPrt p f).l1 = c.l1 := rfl
@[simp] theorem core_modPrt_prefs (c : Core) (p : Nat) (f : Partition → Partition) : (c.modPrt p f).prefs = c.prefs := rfl
@[simp] theorem core_modPrt_ops (c : Core) (p : Nat) (f : Partition → Partition) : (c.modPrt p f).ops = c.ops := rfl
@[simp] theorem core_modPrt_opId (c : Core) (p : Nat) (f : Partition → Partition) : (c.modPrt p f).opId = c.opId := rfl
@[simp] theorem core_modPrt_paceAge (c : Core) (p : Nat) (f : Partition → Partition) : (c.modPrt p f).paceAge = c.paceAge := rfl
@[simp] theorem core_modPrt_trapOut (c : Core) (p : Nat) (f : Partition → Partition) : (c.modPrt p f).trapOut = c.trapOut := rfl
@[simp] theorem core_modPrt_helper (c : Core) (p : Nat) (f : Partition → Partition) : (c.modPrt p f).helper = c.helper := rfl
@[simp] theorem core_modPrt_job (c : Core) (p : Nat) (f : Partition → Partition) : (c.modPrt p f).job = c.job := rfl
@[simp] theorem core_modPrt_evseq (c : Core) (p : Nat) (f : Partition → Partition) : (c.modPrt p f).evseq = c.evseq := rfl
@[simp] theorem core_modPrt_ringValid (c : Core) (p : Nat) (f : Partition → Partition) : (c.modPrt p f).ringValid = c.ringValid := rfl
@[simp] theorem core_modPrt_dbg (c : Core) (p : Nat) (f : Partition → Partition) : (c.modPrt p f).dbg = c.dbg := rfl
@[simp] theorem core_modPrt_ftbReload (c : Core) (p : Nat) (f : Partition → Partition) : (c.modPrt p f).ftbReload = c.ftbReload := rfl

@[simp] theorem core_allPrts_sh (c : Core) (f : Partition → Partition) : (c.allPrts f).sh = c.sh := rfl
@[simp] theorem core_allPrts_sh0 (c : Core) (f : Partition → Partition) : (c.allPrts f).sh0 = c.sh0 := rfl
@[simp] theorem core_allPrts_semAdds (c : Core) (f : Partition → Partition) : (c.allPrts f).semAdds = c.semAdds := rfl
@[simp] theorem core_allPrts_semWrs (c : Core) (f : Partition → Partition) : (c.allPrts f).semWrs = c.semWrs := rfl
@[simp] theorem core_allPrts_tagWrs (c : Core) (f : Partition → Partition) : (c.allPrts f).tagWrs = c.tagWrs := rfl
@[simp] theorem core_allPrts_bktWr (c : Core) (f : Partition → Partition) : (c.allPrts f).bktWr = c.bktWr := rfl
@[simp] theorem core_allPrts_xfly (c : Core) (f : Partition → Partition) : (c.allPrts f).xfly = c.xfly := rfl
@[simp] theorem core_allPrts_cancel (c : Core) (f : Partition → Partition) : (c.allPrts f).cancel = c.cancel := rfl
@[simp] theorem core_allPrts_locked (c : Core) (f : Partition → Partition) : (c.allPrts f).locked = c.locked := rfl
@[simp] theorem core_allPrts_lpend (c : Core) (f : Partition → Partition) : (c.allPrts f).lpend = c.lpend := rfl
@[simp] theorem core_allPrts_lwait (c : Core) (f : Partition → Partition) : (c.allPrts f).lwait = c.lwait := rfl
@[simp] theorem core_allPrts_lleave (c : Core) (f : Partition → Partition) : (c.allPrts f).lleave = c.lleave := rfl
@[simp] theorem core_allPrts_lockGo (c : Core) (f : Partition → Partition) : (c.allPrts f).lockGo = c.lockGo := rfl
@[simp] theorem core_allPrts_late (c : Core) (f : Partition → Partition) : (c.allPrts f).late = c.late := rfl
@[simp] theorem core_allPrts_mxUsed (c : Core) (f : Partition → Partition) : (c.allPrts f).mxUsed = c.mxUsed := rfl
@[simp] theorem core_allPrts_seq (c : Core) (f : Partition → Partition) : (c.allPrts f).seq = c.seq := rfl
@[simp] theorem core_allPrts_refill (c : Core) (f : Partition → Partition) : (c.allPrts f).refill = c.refill := rfl
@[simp] theorem core_allPrts_refillFault (c : Core) (f : Partition → Partition) : (c.allPrts f).refillFault = c.refillFault := rfl
@[simp] theorem core_allPrts_l1 (c : Core) (f : Partition → Partition) : (c.allPrts f).l1 = c.l1 := rfl
@[simp] theorem core_allPrts_prefs (c : Core) (f : Partition → Partition) : (c.allPrts f).prefs = c.prefs := rfl
@[simp] theorem core_allPrts_ops (c : Core) (f : Partition → Partition) : (c.allPrts f).ops = c.ops := rfl
@[simp] theorem core_allPrts_opId (c : Core) (f : Partition → Partition) : (c.allPrts f).opId = c.opId := rfl
@[simp] theorem core_allPrts_paceAge (c : Core) (f : Partition → Partition) : (c.allPrts f).paceAge = c.paceAge := rfl
@[simp] theorem core_allPrts_trapOut (c : Core) (f : Partition → Partition) : (c.allPrts f).trapOut = c.trapOut := rfl
@[simp] theorem core_allPrts_helper (c : Core) (f : Partition → Partition) : (c.allPrts f).helper = c.helper := rfl
@[simp] theorem core_allPrts_job (c : Core) (f : Partition → Partition) : (c.allPrts f).job = c.job := rfl
@[simp] theorem core_allPrts_evseq (c : Core) (f : Partition → Partition) : (c.allPrts f).evseq = c.evseq := rfl
@[simp] theorem core_allPrts_ringValid (c : Core) (f : Partition → Partition) : (c.allPrts f).ringValid = c.ringValid := rfl
@[simp] theorem core_allPrts_dbg (c : Core) (f : Partition → Partition) : (c.allPrts f).dbg = c.dbg := rfl
@[simp] theorem core_allPrts_ftbReload (c : Core) (f : Partition → Partition) : (c.allPrts f).ftbReload = c.ftbReload := rfl

@[simp] theorem core_modSh_sh0 (c : Core) (f : Shared → Shared) : (c.modSh f).sh0 = c.sh0 := rfl
@[simp] theorem core_modSh_prts (c : Core) (f : Shared → Shared) : (c.modSh f).prts = c.prts := rfl
@[simp] theorem core_modSh_semAdds (c : Core) (f : Shared → Shared) : (c.modSh f).semAdds = c.semAdds := rfl
@[simp] theorem core_modSh_semWrs (c : Core) (f : Shared → Shared) : (c.modSh f).semWrs = c.semWrs := rfl
@[simp] theorem core_modSh_tagWrs (c : Core) (f : Shared → Shared) : (c.modSh f).tagWrs = c.tagWrs := rfl
@[simp] theorem core_modSh_bktWr (c : Core) (f : Shared → Shared) : (c.modSh f).bktWr = c.bktWr := rfl
@[simp] theorem core_modSh_xfly (c : Core) (f : Shared → Shared) : (c.modSh f).xfly = c.xfly := rfl
@[simp] theorem core_modSh_cancel (c : Core) (f : Shared → Shared) : (c.modSh f).cancel = c.cancel := rfl
@[simp] theorem core_modSh_locked (c : Core) (f : Shared → Shared) : (c.modSh f).locked = c.locked := rfl
@[simp] theorem core_modSh_lpend (c : Core) (f : Shared → Shared) : (c.modSh f).lpend = c.lpend := rfl
@[simp] theorem core_modSh_lwait (c : Core) (f : Shared → Shared) : (c.modSh f).lwait = c.lwait := rfl
@[simp] theorem core_modSh_lleave (c : Core) (f : Shared → Shared) : (c.modSh f).lleave = c.lleave := rfl
@[simp] theorem core_modSh_lockGo (c : Core) (f : Shared → Shared) : (c.modSh f).lockGo = c.lockGo := rfl
@[simp] theorem core_modSh_late (c : Core) (f : Shared → Shared) : (c.modSh f).late = c.late := rfl
@[simp] theorem core_modSh_mxUsed (c : Core) (f : Shared → Shared) : (c.modSh f).mxUsed = c.mxUsed := rfl
@[simp] theorem core_modSh_seq (c : Core) (f : Shared → Shared) : (c.modSh f).seq = c.seq := rfl
@[simp] theorem core_modSh_refill (c : Core) (f : Shared → Shared) : (c.modSh f).refill = c.refill := rfl
@[simp] theorem core_modSh_refillFault (c : Core) (f : Shared → Shared) : (c.modSh f).refillFault = c.refillFault := rfl
@[simp] theorem core_modSh_l1 (c : Core) (f : Shared → Shared) : (c.modSh f).l1 = c.l1 := rfl
@[simp] theorem core_modSh_prefs (c : Core) (f : Shared → Shared) : (c.modSh f).prefs = c.prefs := rfl
@[simp] theorem core_modSh_ops (c : Core) (f : Shared → Shared) : (c.modSh f).ops = c.ops := rfl
@[simp] theorem core_modSh_opId (c : Core) (f : Shared → Shared) : (c.modSh f).opId = c.opId := rfl
@[simp] theorem core_modSh_paceAge (c : Core) (f : Shared → Shared) : (c.modSh f).paceAge = c.paceAge := rfl
@[simp] theorem core_modSh_trapOut (c : Core) (f : Shared → Shared) : (c.modSh f).trapOut = c.trapOut := rfl
@[simp] theorem core_modSh_helper (c : Core) (f : Shared → Shared) : (c.modSh f).helper = c.helper := rfl
@[simp] theorem core_modSh_job (c : Core) (f : Shared → Shared) : (c.modSh f).job = c.job := rfl
@[simp] theorem core_modSh_evseq (c : Core) (f : Shared → Shared) : (c.modSh f).evseq = c.evseq := rfl
@[simp] theorem core_modSh_ringValid (c : Core) (f : Shared → Shared) : (c.modSh f).ringValid = c.ringValid := rfl
@[simp] theorem core_modSh_dbg (c : Core) (f : Shared → Shared) : (c.modSh f).dbg = c.dbg := rfl
@[simp] theorem core_modSh_ftbReload (c : Core) (f : Shared → Shared) : (c.modSh f).ftbReload = c.ftbReload := rfl

@[simp] theorem prt_setUnit_started (q : Partition) (u : UnitName) (r : UnitRegs) : (q.setUnit u r).started = q.started := rfl
@[simp] theorem prt_setUnit_joined (q : Partition) (u : UnitName) (r : UnitRegs) : (q.setUnit u r).joined = q.joined := rfl
@[simp] theorem prt_setUnit_pc (q : Partition) (u : UnitName) (r : UnitRegs) : (q.setUnit u r).pc = q.pc := rfl
@[simp] theorem prt_setUnit_left (q : Partition) (u : UnitName) (r : UnitRegs) : (q.setUnit u r).left = q.left := rfl
@[simp] theorem prt_setUnit_secs (q : Partition) (u : UnitName) (r : UnitRegs) : (q.setUnit u r).secs = q.secs := rfl
@[simp] theorem prt_setUnit_secNo (q : Partition) (u : UnitName) (r : UnitRegs) : (q.setUnit u r).secNo = q.secNo := rfl
@[simp] theorem prt_setUnit_preds (q : Partition) (u : UnitName) (r : UnitRegs) : (q.setUnit u r).preds = q.preds := rfl
@[simp] theorem prt_setUnit_predPsn (q : Partition) (u : UnitName) (r : UnitRegs) : (q.setUnit u r).predPsn = q.predPsn := rfl
@[simp] theorem prt_setUnit_ofile (q : Partition) (u : UnitName) (r : UnitRegs) : (q.setUnit u r).ofile = q.ofile := rfl
@[simp] theorem prt_setUnit_xi (q : Partition) (u : UnitName) (r : UnitRegs) : (q.setUnit u r).xi = q.xi := rfl
@[simp] theorem prt_setUnit_fly (q : Partition) (u : UnitName) (r : UnitRegs) : (q.setUnit u r).fly = q.fly := rfl
@[simp] theorem prt_setUnit_views (q : Partition) (u : UnitName) (r : UnitRegs) : (q.setUnit u r).views = q.views := rfl
@[simp] theorem prt_setUnit_bt (q : Partition) (u : UnitName) (r : UnitRegs) : (q.setUnit u r).bt = q.bt := rfl
@[simp] theorem prt_setUnit_rgnPc (q : Partition) (u : UnitName) (r : UnitRegs) : (q.setUnit u r).rgnPc = q.rgnPc := rfl
@[simp] theorem prt_setUnit_rgnWrem (q : Partition) (u : UnitName) (r : UnitRegs) : (q.setUnit u r).rgnWrem = q.rgnWrem := rfl
@[simp] theorem prt_setUnit_rgnSec (q : Partition) (u : UnitName) (r : UnitRegs) : (q.setUnit u r).rgnSec = q.rgnSec := rfl
@[simp] theorem prt_setUnit_rah (q : Partition) (u : UnitName) (r : UnitRegs) : (q.setUnit u r).rah = q.rah := rfl
@[simp] theorem prt_setUnit_rm (q : Partition) (u : UnitName) (r : UnitRegs) : (q.setUnit u r).rm = q.rm := rfl
@[simp] theorem prt_setUnit_fpf (q : Partition) (u : UnitName) (r : UnitRegs) : (q.setUnit u r).fpf = q.fpf := rfl
@[simp] theorem prt_setUnit_lcol (q : Partition) (u : UnitName) (r : UnitRegs) : (q.setUnit u r).lcol = q.lcol := rfl
@[simp] theorem prt_setUnit_xcol (q : Partition) (u : UnitName) (r : UnitRegs) : (q.setUnit u r).xcol = q.xcol := rfl
@[simp] theorem prt_setUnit_padv (q : Partition) (u : UnitName) (r : UnitRegs) : (q.setUnit u r).padv = q.padv := rfl
@[simp] theorem prt_setUnit_mxpad (q : Partition) (u : UnitName) (r : UnitRegs) : (q.setUnit u r).mxpad = q.mxpad := rfl
@[simp] theorem prt_setUnit_kvpad (q : Partition) (u : UnitName) (r : UnitRegs) : (q.setUnit u r).kvpad = q.kvpad := rfl
@[simp] theorem prt_setUnit_kvpos (q : Partition) (u : UnitName) (r : UnitRegs) : (q.setUnit u r).kvpos = q.kvpos := rfl
@[simp] theorem prt_setUnit_stack (q : Partition) (u : UnitName) (r : UnitRegs) : (q.setUnit u r).stack = q.stack := rfl
@[simp] theorem prt_setUnit_spill (q : Partition) (u : UnitName) (r : UnitRegs) : (q.setUnit u r).spill = q.spill := rfl
@[simp] theorem prt_setUnit_loop (q : Partition) (u : UnitName) (r : UnitRegs) : (q.setUnit u r).loop = q.loop := rfl
@[simp] theorem prt_setUnit_transfer (q : Partition) (u : UnitName) (r : UnitRegs) : (q.setUnit u r).transfer = q.transfer := rfl
@[simp] theorem prt_setUnit_idle (q : Partition) (u : UnitName) (r : UnitRegs) : (q.setUnit u r).idle = q.idle := rfl
@[simp] theorem prt_setUnit_trap (q : Partition) (u : UnitName) (r : UnitRegs) : (q.setUnit u r).trap = q.trap := rfl
@[simp] theorem prt_setUnit_swtrap (q : Partition) (u : UnitName) (r : UnitRegs) : (q.setUnit u r).swtrap = q.swtrap := rfl
@[simp] theorem prt_setUnit_stop (q : Partition) (u : UnitName) (r : UnitRegs) : (q.setUnit u r).stop = q.stop := rfl
@[simp] theorem prt_setUnit_stalled (q : Partition) (u : UnitName) (r : UnitRegs) : (q.setUnit u r).stalled = q.stalled := rfl
@[simp] theorem prt_setUnit_refused (q : Partition) (u : UnitName) (r : UnitRegs) : (q.setUnit u r).refused = q.refused := rfl
@[simp] theorem prt_setUnit_meshWait (q : Partition) (u : UnitName) (r : UnitRegs) : (q.setUnit u r).meshWait = q.meshWait := rfl
@[simp] theorem prt_setUnit_qwait (q : Partition) (u : UnitName) (r : UnitRegs) : (q.setUnit u r).qwait = q.qwait := rfl
@[simp] theorem prt_setUnit_probed (q : Partition) (u : UnitName) (r : UnitRegs) : (q.setUnit u r).probed = q.probed := rfl
@[simp] theorem prt_setUnit_mops (q : Partition) (u : UnitName) (r : UnitRegs) : (q.setUnit u r).mops = q.mops := rfl
@[simp] theorem prt_setUnit_fwd (q : Partition) (u : UnitName) (r : UnitRegs) : (q.setUnit u r).fwd = q.fwd := rfl
@[simp] theorem prt_setUnit_freq (q : Partition) (u : UnitName) (r : UnitRegs) : (q.setUnit u r).freq = q.freq := rfl
@[simp] theorem prt_setUnit_store (q : Partition) (u : UnitName) (r : UnitRegs) : (q.setUnit u r).store = q.store := rfl
@[simp] theorem prt_setUnit_slen (q : Partition) (u : UnitName) (r : UnitRegs) : (q.setUnit u r).slen = q.slen := rfl
@[simp] theorem prt_setUnit_entry (q : Partition) (u : UnitName) (r : UnitRegs) : (q.setUnit u r).entry = q.entry := rfl
@[simp] theorem prt_setUnit_badParcels (q : Partition) (u : UnitName) (r : UnitRegs) : (q.setUnit u r).badParcels = q.badParcels := rfl

@[simp] theorem prt_countDown_started (q : Partition) : (q.countDown).started = q.started := rfl
@[simp] theorem prt_countDown_joined (q : Partition) : (q.countDown).joined = q.joined := rfl
@[simp] theorem prt_countDown_pc (q : Partition) : (q.countDown).pc = q.pc := rfl
@[simp] theorem prt_countDown_left (q : Partition) : (q.countDown).left = q.left := rfl
@[simp] theorem prt_countDown_secs (q : Partition) : (q.countDown).secs = q.secs := rfl
@[simp] theorem prt_countDown_secNo (q : Partition) : (q.countDown).secNo = q.secNo := rfl
@[simp] theorem prt_countDown_preds (q : Partition) : (q.countDown).preds = q.preds := rfl
@[simp] theorem prt_countDown_predPsn (q : Partition) : (q.countDown).predPsn = q.predPsn := rfl
@[simp] theorem prt_countDown_ofile (q : Partition) : (q.countDown).ofile = q.ofile := rfl
@[simp] theorem prt_countDown_xi (q : Partition) : (q.countDown).xi = q.xi := rfl
@[simp] theorem prt_countDown_units (q : Partition) : (q.countDown).units = q.units := rfl
@[simp] theorem prt_countDown_views (q : Partition) : (q.countDown).views = q.views := rfl
@[simp] theorem prt_countDown_bt (q : Partition) : (q.countDown).bt = q.bt := rfl
@[simp] theorem prt_countDown_rgnPc (q : Partition) : (q.countDown).rgnPc = q.rgnPc := rfl
@[simp] theorem prt_countDown_rgnWrem (q : Partition) : (q.countDown).rgnWrem = q.rgnWrem := rfl
@[simp] theorem prt_countDown_rgnSec (q : Partition) : (q.countDown).rgnSec = q.rgnSec := rfl
@[simp] theorem prt_countDown_rah (q : Partition) : (q.countDown).rah = q.rah := rfl
@[simp] theorem prt_countDown_rm (q : Partition) : (q.countDown).rm = q.rm := rfl
@[simp] theorem prt_countDown_fpf (q : Partition) : (q.countDown).fpf = q.fpf := rfl
@[simp] theorem prt_countDown_lcol (q : Partition) : (q.countDown).lcol = q.lcol := rfl
@[simp] theorem prt_countDown_xcol (q : Partition) : (q.countDown).xcol = q.xcol := rfl
@[simp] theorem prt_countDown_padv (q : Partition) : (q.countDown).padv = q.padv := rfl
@[simp] theorem prt_countDown_mxpad (q : Partition) : (q.countDown).mxpad = q.mxpad := rfl
@[simp] theorem prt_countDown_kvpad (q : Partition) : (q.countDown).kvpad = q.kvpad := rfl
@[simp] theorem prt_countDown_kvpos (q : Partition) : (q.countDown).kvpos = q.kvpos := rfl
@[simp] theorem prt_countDown_stack (q : Partition) : (q.countDown).stack = q.stack := rfl
@[simp] theorem prt_countDown_spill (q : Partition) : (q.countDown).spill = q.spill := rfl
@[simp] theorem prt_countDown_loop (q : Partition) : (q.countDown).loop = q.loop := rfl
@[simp] theorem prt_countDown_transfer (q : Partition) : (q.countDown).transfer = q.transfer := rfl
@[simp] theorem prt_countDown_idle (q : Partition) : (q.countDown).idle = q.idle := rfl
@[simp] theorem prt_countDown_trap (q : Partition) : (q.countDown).trap = q.trap := rfl
@[simp] theorem prt_countDown_swtrap (q : Partition) : (q.countDown).swtrap = q.swtrap := rfl
@[simp] theorem prt_countDown_stop (q : Partition) : (q.countDown).stop = q.stop := rfl
@[simp] theorem prt_countDown_stalled (q : Partition) : (q.countDown).stalled = q.stalled := rfl
@[simp] theorem prt_countDown_refused (q : Partition) : (q.countDown).refused = q.refused := rfl
@[simp] theorem prt_countDown_meshWait (q : Partition) : (q.countDown).meshWait = q.meshWait := rfl
@[simp] theorem prt_countDown_qwait (q : Partition) : (q.countDown).qwait = q.qwait := rfl
@[simp] theorem prt_countDown_probed (q : Partition) : (q.countDown).probed = q.probed := rfl
@[simp] theorem prt_countDown_mops (q : Partition) : (q.countDown).mops = q.mops := rfl
@[simp] theorem prt_countDown_fwd (q : Partition) : (q.countDown).fwd = q.fwd := rfl
@[simp] theorem prt_countDown_freq (q : Partition) : (q.countDown).freq = q.freq := rfl
@[simp] theorem prt_countDown_store (q : Partition) : (q.countDown).store = q.store := rfl
@[simp] theorem prt_countDown_slen (q : Partition) : (q.countDown).slen = q.slen := rfl
@[simp] theorem prt_countDown_entry (q : Partition) : (q.countDown).entry = q.entry := rfl
@[simp] theorem prt_countDown_badParcels (q : Partition) : (q.countDown).badParcels = q.badParcels := rfl

@[simp] theorem sh_modCim_reg (h : Shared) (i : BitVec 3) (f : Cim → Cim) : (h.modCim i f).reg = h.reg := rfl
@[simp] theorem sh_modCim_regPsn (h : Shared) (i : BitVec 3) (f : Cim → Cim) : (h.modCim i f).regPsn = h.regPsn := rfl
@[simp] theorem sh_modCim_cs (h : Shared) (i : BitVec 3) (f : Cim → Cim) : (h.modCim i f).cs = h.cs := rfl
@[simp] theorem sh_modCim_csPsn (h : Shared) (i : BitVec 3) (f : Cim → Cim) : (h.modCim i f).csPsn = h.csPsn := rfl
@[simp] theorem sh_modCim_tags (h : Shared) (i : BitVec 3) (f : Cim → Cim) : (h.modCim i f).tags = h.tags := rfl
@[simp] theorem sh_modCim_sema (h : Shared) (i : BitVec 3) (f : Cim → Cim) : (h.modCim i f).sema = h.sema := rfl
@[simp] theorem sh_modCim_rsc (h : Shared) (i : BitVec 3) (f : Cim → Cim) : (h.modCim i f).rsc = h.rsc := rfl
@[simp] theorem sh_modCim_evq (h : Shared) (i : BitVec 3) (f : Cim → Cim) : (h.modCim i f).evq = h.evq := rfl
@[simp] theorem sh_modCim_evLost (h : Shared) (i : BitVec 3) (f : Cim → Cim) : (h.modCim i f).evLost = h.evLost := rfl
@[simp] theorem sh_modCim_evOvf (h : Shared) (i : BitVec 3) (f : Cim → Cim) : (h.modCim i f).evOvf = h.evOvf := rfl
@[simp] theorem sh_modCim_ftb (h : Shared) (i : BitVec 3) (f : Cim → Cim) : (h.modCim i f).ftb = h.ftb := rfl
@[simp] theorem sh_modCim_fillptr (h : Shared) (i : BitVec 3) (f : Cim → Cim) : (h.modCim i f).fillptr = h.fillptr := rfl
@[simp] theorem sh_modCim_gap (h : Shared) (i : BitVec 3) (f : Cim → Cim) : (h.modCim i f).gap = h.gap := rfl
@[simp] theorem sh_modCim_scnt (h : Shared) (i : BitVec 3) (f : Cim → Cim) : (h.modCim i f).scnt = h.scnt := rfl

@[simp] theorem sh_modTag_reg (h : Shared) (i : Nat) (f : TagEntry → TagEntry) : (h.modTag i f).reg = h.reg := rfl
@[simp] theorem sh_modTag_regPsn (h : Shared) (i : Nat) (f : TagEntry → TagEntry) : (h.modTag i f).regPsn = h.regPsn := rfl
@[simp] theorem sh_modTag_cs (h : Shared) (i : Nat) (f : TagEntry → TagEntry) : (h.modTag i f).cs = h.cs := rfl
@[simp] theorem sh_modTag_csPsn (h : Shared) (i : Nat) (f : TagEntry → TagEntry) : (h.modTag i f).csPsn = h.csPsn := rfl
@[simp] theorem sh_modTag_sema (h : Shared) (i : Nat) (f : TagEntry → TagEntry) : (h.modTag i f).sema = h.sema := rfl
@[simp] theorem sh_modTag_rsc (h : Shared) (i : Nat) (f : TagEntry → TagEntry) : (h.modTag i f).rsc = h.rsc := rfl
@[simp] theorem sh_modTag_cims (h : Shared) (i : Nat) (f : TagEntry → TagEntry) : (h.modTag i f).cims = h.cims := rfl
@[simp] theorem sh_modTag_evq (h : Shared) (i : Nat) (f : TagEntry → TagEntry) : (h.modTag i f).evq = h.evq := rfl
@[simp] theorem sh_modTag_evLost (h : Shared) (i : Nat) (f : TagEntry → TagEntry) : (h.modTag i f).evLost = h.evLost := rfl
@[simp] theorem sh_modTag_evOvf (h : Shared) (i : Nat) (f : TagEntry → TagEntry) : (h.modTag i f).evOvf = h.evOvf := rfl
@[simp] theorem sh_modTag_ftb (h : Shared) (i : Nat) (f : TagEntry → TagEntry) : (h.modTag i f).ftb = h.ftb := rfl
@[simp] theorem sh_modTag_fillptr (h : Shared) (i : Nat) (f : TagEntry → TagEntry) : (h.modTag i f).fillptr = h.fillptr := rfl
@[simp] theorem sh_modTag_gap (h : Shared) (i : Nat) (f : TagEntry → TagEntry) : (h.modTag i f).gap = h.gap := rfl
@[simp] theorem sh_modTag_scnt (h : Shared) (i : Nat) (f : TagEntry → TagEntry) : (h.modTag i f).scnt = h.scnt := rfl

@[simp] theorem sh_regWrite_cs (h : Shared) (a n x : Nat) (b : Bool) : (regWrite h a n x b).cs = h.cs := rfl
@[simp] theorem sh_regWrite_csPsn (h : Shared) (a n x : Nat) (b : Bool) : (regWrite h a n x b).csPsn = h.csPsn := rfl
@[simp] theorem sh_regWrite_tags (h : Shared) (a n x : Nat) (b : Bool) : (regWrite h a n x b).tags = h.tags := rfl
@[simp] theorem sh_regWrite_sema (h : Shared) (a n x : Nat) (b : Bool) : (regWrite h a n x b).sema = h.sema := rfl
@[simp] theorem sh_regWrite_rsc (h : Shared) (a n x : Nat) (b : Bool) : (regWrite h a n x b).rsc = h.rsc := rfl
@[simp] theorem sh_regWrite_cims (h : Shared) (a n x : Nat) (b : Bool) : (regWrite h a n x b).cims = h.cims := rfl
@[simp] theorem sh_regWrite_evq (h : Shared) (a n x : Nat) (b : Bool) : (regWrite h a n x b).evq = h.evq := rfl
@[simp] theorem sh_regWrite_evLost (h : Shared) (a n x : Nat) (b : Bool) : (regWrite h a n x b).evLost = h.evLost := rfl
@[simp] theorem sh_regWrite_evOvf (h : Shared) (a n x : Nat) (b : Bool) : (regWrite h a n x b).evOvf = h.evOvf := rfl
@[simp] theorem sh_regWrite_ftb (h : Shared) (a n x : Nat) (b : Bool) : (regWrite h a n x b).ftb = h.ftb := rfl
@[simp] theorem sh_regWrite_fillptr (h : Shared) (a n x : Nat) (b : Bool) : (regWrite h a n x b).fillptr = h.fillptr := rfl
@[simp] theorem sh_regWrite_gap (h : Shared) (a n x : Nat) (b : Bool) : (regWrite h a n x b).gap = h.gap := rfl
@[simp] theorem sh_regWrite_scnt (h : Shared) (a n x : Nat) (b : Bool) : (regWrite h a n x b).scnt = h.scnt := rfl

@[simp] theorem sh_csWrite_reg (h : Shared) (a n x : Nat) : (csWrite h a n x).reg = h.reg := rfl
@[simp] theorem sh_csWrite_regPsn (h : Shared) (a n x : Nat) : (csWrite h a n x).regPsn = h.regPsn := rfl
@[simp] theorem sh_csWrite_tags (h : Shared) (a n x : Nat) : (csWrite h a n x).tags = h.tags := rfl
@[simp] theorem sh_csWrite_sema (h : Shared) (a n x : Nat) : (csWrite h a n x).sema = h.sema := rfl
@[simp] theorem sh_csWrite_rsc (h : Shared) (a n x : Nat) : (csWrite h a n x).rsc = h.rsc := rfl
@[simp] theorem sh_csWrite_cims (h : Shared) (a n x : Nat) : (csWrite h a n x).cims = h.cims := rfl
@[simp] theorem sh_csWrite_evq (h : Shared) (a n x : Nat) : (csWrite h a n x).evq = h.evq := rfl
@[simp] theorem sh_csWrite_evLost (h : Shared) (a n x : Nat) : (csWrite h a n x).evLost = h.evLost := rfl
@[simp] theorem sh_csWrite_evOvf (h : Shared) (a n x : Nat) : (csWrite h a n x).evOvf = h.evOvf := rfl
@[simp] theorem sh_csWrite_ftb (h : Shared) (a n x : Nat) : (csWrite h a n x).ftb = h.ftb := rfl
@[simp] theorem sh_csWrite_fillptr (h : Shared) (a n x : Nat) : (csWrite h a n x).fillptr = h.fillptr := rfl
@[simp] theorem sh_csWrite_gap (h : Shared) (a n x : Nat) : (csWrite h a n x).gap = h.gap := rfl
@[simp] theorem sh_csWrite_scnt (h : Shared) (a n x : Nat) : (csWrite h a n x).scnt = h.scnt := rfl

@[simp] theorem mem_modHome_gddr (m : Memory) (i : Nat) (f : Home → Home) : (m.modHome i f).gddr = m.gddr := rfl
@[simp] theorem mem_modHome_psn (m : Memory) (i : Nat) (f : Home → Home) : (m.modHome i f).psn = m.psn := rfl
@[simp] theorem mem_modHome_own0 (m : Memory) (i : Nat) (f : Home → Home) : (m.modHome i f).own0 = m.own0 := rfl
@[simp] theorem mem_modHome_own1 (m : Memory) (i : Nat) (f : Home → Home) : (m.modHome i f).own1 = m.own1 := rfl
@[simp] theorem mem_modHome_own2 (m : Memory) (i : Nat) (f : Home → Home) : (m.modHome i f).own2 = m.own2 := rfl
@[simp] theorem mem_modHome_own3 (m : Memory) (i : Nat) (f : Home → Home) : (m.modHome i f).own3 = m.own3 := rfl
@[simp] theorem mem_modHome_llc (m : Memory) (i : Nat) (f : Home → Home) : (m.modHome i f).llc = m.llc := rfl
@[simp] theorem mem_modHome_traffic (m : Memory) (i : Nat) (f : Home → Home) : (m.modHome i f).traffic = m.traffic := rfl
@[simp] theorem mem_modHome_down (m : Memory) (i : Nat) (f : Home → Home) : (m.modHome i f).down = m.down := rfl

@[simp] theorem mem_cleanPieces_gddr (m : Memory) (p : Place) (n : Nat) : (m.cleanPieces p n).gddr = m.gddr := rfl
@[simp] theorem mem_cleanPieces_own0 (m : Memory) (p : Place) (n : Nat) : (m.cleanPieces p n).own0 = m.own0 := rfl
@[simp] theorem mem_cleanPieces_own1 (m : Memory) (p : Place) (n : Nat) : (m.cleanPieces p n).own1 = m.own1 := rfl
@[simp] theorem mem_cleanPieces_own2 (m : Memory) (p : Place) (n : Nat) : (m.cleanPieces p n).own2 = m.own2 := rfl
@[simp] theorem mem_cleanPieces_own3 (m : Memory) (p : Place) (n : Nat) : (m.cleanPieces p n).own3 = m.own3 := rfl
@[simp] theorem mem_cleanPieces_llc (m : Memory) (p : Place) (n : Nat) : (m.cleanPieces p n).llc = m.llc := rfl
@[simp] theorem mem_cleanPieces_homes (m : Memory) (p : Place) (n : Nat) : (m.cleanPieces p n).homes = m.homes := rfl
@[simp] theorem mem_cleanPieces_traffic (m : Memory) (p : Place) (n : Nat) : (m.cleanPieces p n).traffic = m.traffic := rfl
@[simp] theorem mem_cleanPieces_down (m : Memory) (p : Place) (n : Nat) : (m.cleanPieces p n).down = m.down := rfl

/-! ### The field that an update changes -/

@[simp] theorem core_setCore_same {s : State} {k : Nat} (h : k < s.cores.length) (c : Core) : (s.setCore k c).core k = c := by
  simp [State.core, State.setCore, h]

theorem core_setCore_ne {s : State} {k j : Nat} (h : j ≠ k) (c : Core) : (s.setCore k c).core j = s.core j := by
  simp [State.core, State.setCore, List.getElem?_set_ne h.symm]

@[simp] theorem core_modCore_same {s : State} {k : Nat} (h : k < s.cores.length) (f : Core → Core) :
    (s.modCore k f).core k = f (s.core k) := core_setCore_same h _

theorem core_modCore_ne {s : State} {k j : Nat} (h : j ≠ k) (f : Core → Core) : (s.modCore k f).core j = s.core j :=
  core_setCore_ne h _

@[simp] theorem prt_setPrt_same {c : Core} {p : Nat} (h : p < c.prts.length) (q : Partition) : (c.setPrt p q).prt p = q := by
  simp [Core.prt, Core.setPrt, h]

theorem prt_setPrt_ne {c : Core} {p j : Nat} (h : j ≠ p) (q : Partition) : (c.setPrt p q).prt j = c.prt j := by
  simp [Core.prt, Core.setPrt, List.getElem?_set_ne h.symm]

@[simp] theorem prt_modPrt_same {c : Core} {p : Nat} (h : p < c.prts.length) (f : Partition → Partition) :
    (c.modPrt p f).prt p = f (c.prt p) := prt_setPrt_same h _

theorem prt_modPrt_ne {c : Core} {p j : Nat} (h : j ≠ p) (f : Partition → Partition) : (c.modPrt p f).prt j = c.prt j :=
  prt_setPrt_ne h _

@[simp] theorem prt_modSh (c : Core) (f : Shared → Shared) (p : Nat) : (c.modSh f).prt p = c.prt p := rfl

@[simp] theorem cluster_modCluster_same {s : State} {k : Nat} (h : k < s.clusters.length) (f : Cluster → Cluster) :
    (s.modCluster k f).cluster k = f (s.cluster k) := by
  simp [State.cluster, State.modCluster, h]

theorem cluster_modCluster_ne {s : State} {k j : Nat} (h : j ≠ k) (f : Cluster → Cluster) :
    (s.modCluster k f).cluster j = s.cluster j := by
  simp [State.cluster, State.modCluster, List.getElem?_set_ne h.symm]

@[simp] theorem nextTurn_core (s : State) (k p j : Nat) : (s.nextTurn k p).core j = s.core j := rfl
@[simp] theorem nextTurn_cluster (s : State) (k p j : Nat) : (s.nextTurn k p).cluster j = s.cluster j := rfl
@[simp] theorem modCluster_core (s : State) (c j : Nat) (f : Cluster → Cluster) : (s.modCluster c f).core j = s.core j := rfl
@[simp] theorem modCore_cluster (s : State) (k j : Nat) (f : Core → Core) : (s.modCore k f).cluster j = s.cluster j := rfl

/-- The core of an environment that is put back. -/
theorem core_withEnv_same {s : State} {e : Env} (h : e.k < s.cores.length) : (s.withEnv e).core e.k = e.core := by
  simp [State.withEnv, State.core, State.setCore, State.modCluster, h]

theorem core_withEnv_ne {s : State} {e : Env} {j : Nat} (h : j ≠ e.k) : (s.withEnv e).core j = s.core j := by
  simp [State.withEnv, State.core, State.setCore, State.modCluster, List.getElem?_set_ne h.symm]

@[simp] theorem withEnv_fw (s : State) (e : Env) : (s.withEnv e).fw = e.fw := rfl
@[simp] theorem nextTurn_phase (s : State) (k p : Nat) :
    (s.nextTurn k p).phase = if p < 11 then .prt k (p + 1) else .finish k := rfl

end Sys2Proof.Machine
end

