-- ==== Sys2Proof/Laws/Issue.lean ====
section
/-! SUPPORT. What issuing a word of one move comes to (R42, R78, R364). -/

namespace Sys2Proof.Machine

/-- A step that words name is its group (R78). -/
theorem exec_group {i : Instr} {g : Group} (h : i.group = some g) (s : State) : exec i s = execGroup g s := by
  cases i <;> first | (cases h; rfl) | cases h

/-- A group at its partition's turn. -/
theorem execGroup_turn {s : State} {k p : Nat} (h : s.phase = .prt k p) (g : Group) :
    execGroup g s = .next (s.issueGroup k p g) := by
  simp only [execGroup, h]

/-- What is known of a partition at its turn. -/
theorem atTurn_iff {s : State} {k p : Nat} :
    s.atTurn k p = true ↔ s.phase = .prt k p ∧ s.canIssue k p = true ∧ (s.core k).held p = false ∧
      ((s.core k).prt p).meshWait = false ∧ (s.core k).dbg = false := by
  simp [State.atTurn, and_assoc]

/-- What is known of a word of one move that is ready. -/
theorem ready_iff {s : State} {k p : Nat} {g : Guard} {src : Src} {d : Dst} :
    s.ready k p g src d = true ↔ s.atTurn k p = true ∧ (oneMove g src d).wf (ctxOf k p) = true ∧
      ((s.core k).prt p).predPoison g.pred = false ∧ ((s.core k).prt p).holds g = true ∧
      (s.env k p).readable src = true ∧ ((s.env k p).readPlain src).psn = false := by
  simp [State.ready, Env.clean, and_assoc]

/-- What is known of a word of one move whose source can be read. -/
theorem placed_iff {s : State} {k p : Nat} {g : Guard} {src : Src} {d : Dst} :
    s.placed k p g src d = true ↔ s.atTurn k p = true ∧ (oneMove g src d).wf (ctxOf k p) = true ∧
      ((s.core k).prt p).predPoison g.pred = false ∧ ((s.core k).prt p).holds g = true ∧ (s.env k p).readable src = true := by
  simp [State.placed, and_assoc]

theorem placed_of_ready {s : State} {k p : Nat} {g : Guard} {src : Src} {d : Dst} (h : s.ready k p g src d = true) :
    s.placed k p g src d = true := by
  obtain ⟨a, b, c, d, e, -⟩ := ready_iff.1 h
  exact placed_iff.2 ⟨a, b, c, d, e⟩

/-! ### Verdicts -/

@[simp] theorem Verdict.go_and (v : Verdict) : Verdict.go.and v = v := by
  cases v; simp [Verdict.go, Verdict.and]
@[simp] theorem Verdict.and_go (v : Verdict) : v.and .go = v := by
  cases v with
  | mk a b c d e f => cases d <;> cases e <;> cases f <;> simp [Verdict.go, Verdict.and]
@[simp] theorem Verdict.trapIf_false (k : TrapKind) (n : Nat) (a b : Word) : Verdict.trapIf false k n a b = .go := rfl
@[simp] theorem Verdict.stallIf_false : Verdict.stallIf false = .go := rfl
@[simp] theorem Verdict.go_causes : Verdict.go.causes = [] := rfl
@[simp] theorem Verdict.go_stalls : Verdict.go.stalls = false := rfl
@[simp] theorem firstCause_nil : firstCause [] = none := rfl

/-- A source that can be read gives its value and meets nothing. -/
theorem look_readable {e : Env} {it : Item} {src : Src} {d : Dst} (ha : it.act = .move src d) (hr : e.readable src = true)
    (hd : e.core.dbg = false) : e.look it = (.go, some (e.readPlain src)) := by
  cases src with
  | main v i => simp only [Env.readable] at hr; simp [Env.look, ha, mainCheck, hr]
  | latch u sel m => simp only [Env.readable, Bool.not_eq_true'] at hr; simp [Env.look, ha, hd, hr]
  | creg i =>
    simp only [Env.readable, Bool.or_eq_true, decide_eq_true_eq] at hr
    have : (decide (0x400 ≤ i.toNat) && !isFwCore e.k) = false := by
      rcases hr with h | h
      · simp [Nat.not_le.2 h]
      · simp [h]
    simp [Env.look, ha, Env.cregCheck, this]
  | hq n => simp only [Env.readable, decide_eq_true_eq] at hr; simp [Env.look, ha, hr]
  | _ => simp [Env.look, ha, hd]

theorem holds_empty (q : Partition) : q.holds ⟨0, true⟩ = false := by simp [Partition.holds, Partition.pred]
theorem predPoison_zero (q : Partition) : q.predPoison 0 = false := by simp [Partition.predPoison]

theorem groupItems_oneMove (g : Guard) (src : Src) (d : Dst) :
    groupItems (oneMove g src d) = [⟨0, 0, g, .move src d⟩, ⟨1, 0, ⟨0, true⟩, .move (.imm 0) .sink⟩] := rfl

/-- The checks of a word of one move are those of its destination. -/
theorem judge_one {e : Env} {g : Guard} {src : Src} {d : Dst} (hm : e.q0.meshWait = false) (hd : e.core.dbg = false)
    (hp : e.q0.predPoison g.pred = false) (hg : e.q0.holds g = true) (hr : e.readable src = true) :
    e.judge (oneMove g src d) =
      Judge.dest ⟨e, [], .go⟩ (oneMove g src d) ⟨0, 0, g, .move src d⟩ d (some (e.readPlain src)) := by
  have hl := look_readable (e := e) (it := ⟨0, 0, g, .move src d⟩) rfl hr hd
  simp only [Env.judge, groupItems_oneMove, List.foldl_cons, List.foldl_nil, Judge.item, hm, Verdict.stallIf_false, hp,
    hg, hl, Verdict.go_and, Verdict.and_go, Bool.false_eq_true, ↓reduceIte, predPoison_zero, holds_empty, predPoison_zero]

theorem oneMove_len (g : Guard) (src : Src) (d : Dst) : (oneMove g src d).len = 1 := rfl

/-- What a word of one move does to the environment, its source read. -/
def Env.moved (e : Env) (src : Src) (d : Dst) : Env := ((e.readSrc src).1).writeItem 1 ⟨0, 0, ⟨0, false⟩, .move src d⟩ (e.readSrc src).2

/-- A word of one move takes effect. -/
theorem perform_one {e : Env} {g : Guard} {src : Src} {d : Dst} (hg : e.q0.holds g = true)
    (hs : ((e.moved src d).q.loop.active && !e.q0.loop.active) = false) : e.perform (oneMove g src d) = e.moved src d := by
  have : e.perform (oneMove g src d) =
      if ((e.moved src d).q.loop.active && !e.q0.loop.active) = true then (e.moved src d).modQ Partition.drivePreds else e.moved src d := by
    simp only [Env.perform, groupItems_oneMove, List.filter_cons, hg, holds_empty, ↓reduceIte, Bool.false_eq_true, List.filter_nil,
      Env.readItems, Env.readItem, Env.writeItems, Env.moved, oneMove_len, Env.writeItem]
    cases d <;> rfl
  rw [this, hs]; rfl

/-- A group that meets nothing issues (R42, R78). -/
theorem issue_go {s : State} {k p : Nat} {g : Group} (hc : s.canIssue k p = true) (hh : (s.core k).held p = false)
    (hv : (s.env k p).verdict g = .go) : s.issueGroup k p g = (s.withEnv ((s.env k p).issue g)).nextTurn k p := by
  have hh' : (s.env k p).core.held p = false := hh
  unfold State.issueGroup
  simp only [hv, hc, hh', Verdict.go_causes, firstCause_nil, Verdict.go_stalls, Bool.false_eq_true, ↓reduceIte, Bool.true_eq_false]

/-- What a word of one move meets is what its destination meets. -/
theorem verdict_one {s : State} {k p : Nat} {g : Guard} {src : Src} {d : Dst} (h : s.placed k p g src d = true) :
    (s.env k p).verdict (oneMove g src d) =
      Judge.dest ⟨s.env k p, [], .go⟩ (oneMove g src d) ⟨0, 0, g, .move src d⟩ d (some ((s.env k p).readPlain src)) := by
  obtain ⟨ht, hw, hp, hg, hr⟩ := placed_iff.1 h
  obtain ⟨-, -, -, hm, hb⟩ := atTurn_iff.1 ht
  rw [Env.verdict, if_neg (by rw [show (s.env k p).ctx = ctxOf k p from rfl, hw]; simp)]
  exact judge_one hm hb hp hg hr

/-- A word of one move whose destination meets nothing issues. -/
theorem issue_one {s : State} {k p : Nat} {g : Guard} {src : Src} {d : Dst} (h : s.placed k p g src d = true)
    (hd : Judge.dest ⟨s.env k p, [], .go⟩ (oneMove g src d) ⟨0, 0, g, .move src d⟩ d (some ((s.env k p).readPlain src)) = .go)
    (hs : (((s.env k p).moved src d).q.loop.active && !((s.core k).prt p).loop.active) = false) :
    s.issueGroup k p (oneMove g src d) = s.endWord k p ((s.env k p).moved src d) := by
  obtain ⟨ht, -, -, hg, -⟩ := placed_iff.1 h
  obtain ⟨-, hc, hh, -⟩ := atTurn_iff.1 ht
  rw [issue_go hc hh ((verdict_one h).trans hd)]
  unfold Env.issue
  rw [perform_one (e := s.env k p) hg hs]
  rfl

/-! ### Triggers -/

/-- Whether an input is poisoned does not lie in the bytes of the value (R353). -/
theorem firstPoison_bits {u : Uses} {x : Read} {r : UnitRegs} {b : Wide} (h : firstPoison u { x with bits := b } r = none) :
    firstPoison u x r = none := by
  unfold firstPoison at h ⊢
  split at h
  · cases h
  · rename_i hx
    rw [if_neg hx]
    exact h

/-- Inputs that are all there are poisoned for the checks as they are for the trigger (R352, R353). -/
theorem poisoned_clean {e : Env} {u : UnitName} {us : Uses} {x : Read} {r : UnitRegs} (h : firstPoison us x r = none) :
    Judge.poisoned ⟨e, [], .go⟩ u us (some x) r = none := by
  simp only [firstPoison] at h
  simp only [Judge.poisoned, List.contains_nil, Bool.false_eq_true, ↓reduceIte, Option.map_some]
  split_ifs at h <;> simp_all [firstOf]

/-- The checks of a trigger whose inputs are there and clean. -/
theorem trigger_go {s : State} {k p : Nat} {src : Src} {t : Trigger} {g : Group} {it : Item}
    (hx : s.inputsClean k p src t = true)
    (hl : ((s.core k).isLocked p && isGlobal t) = false)
    (hr : (s.env k p).reservedUse t = false)
    (hm : (s.env k p).mxRefuses t = false)
    (hv : (s.env k p).judgeValue g it t (s.datum k p src t.unit) (s.ports k p t.unit) = .go)
    (ha : (s.core k).isLocked p = false →
      (s.env k p).judgeRoom t = .go ∧ (s.env k p).judgeAccess t (s.datum k p src t.unit) (s.ports k p t.unit) it.slot = .go) :
    Judge.dest ⟨s.env k p, [], .go⟩ g it (.trig t) (some ((s.env k p).readPlain src)) = .go := by
  have hq : (s.env k p).q.unit t.unit = s.ports k p t.unit := rfl
  have hp : firstPoison (trigUses (s.env k p).sh0 (s.ports k p t.unit) t) ((s.env k p).readPlain src) (s.ports k p t.unit) = none :=
    firstPoison_bits (Option.isNone_iff_eq_none.1 hx)
  have hpo : Judge.poisoned ⟨s.env k p, [], .go⟩ t.unit (trigUses (s.env k p).sh0 (s.ports k p t.unit) t)
      (some ((s.env k p).readPlain src)) (s.ports k p t.unit) = none := poisoned_clean hp
  have hl' : ((s.env k p).locked && isGlobal t) = false := hl
  have hmx : (s.env k p).judgeMx t it.slot = .go := by simp [Env.judgeMx, hm]
  have hun : Judge.unknown ⟨s.env k p, [], .go⟩ t.unit (trigUses (s.env k p).sh0 (s.ports k p t.unit) t) = false := by
    simp [Judge.unknown]
  simp only [Judge.dest, Judge.trigger, hq, hl', hr, hmx, hpo, hun, encodeIf, Verdict.trapIf_false, Bool.false_eq_true, ↓reduceIte,
    Verdict.go_and, Verdict.and_go, Option.getD_some, Option.isSome_some, Bool.true_or, Bool.not_false, Bool.true_and, Bool.and_self,
    Option.isNone_none]
  by_cases hk : (s.core k).isLocked p = true
  · have : (s.env k p).locked = true := hk
    simp only [this, Bool.not_true, Bool.false_eq_true, ↓reduceIte, Verdict.and_go]
    exact hv
  · have hk' : (s.core k).isLocked p = false := by simpa using hk
    have : (s.env k p).locked = false := hk'
    simp only [this, Bool.not_false, ↓reduceIte]
    rw [(ha hk').1, Verdict.go_and]
    exact (congrArg₂ Verdict.and hv (ha hk').2).trans (by simp)

theorem readSrc_result (e : Env) (src : Src) (t : Trigger) (x : Nat) (r : UnitRegs) :
    (e.readSrc src).1.result t x r = e.result t x r := by cases src <;> rfl

theorem readSrc_snd (e : Env) (src : Src) : (e.readSrc src).2 = e.readPlain src := by cases src <;> rfl

/-- A trigger on clean inputs (R57, R78). -/
theorem moved_trig {s : State} {k p : Nat} {src : Src} {t : Trigger} (hx : s.inputsClean k p src t = true) :
    (s.env k p).moved src (.trig t) =
      ((s.env k p).readSrc src).1.fireClean 1 t (s.datum k p src t.unit) (s.ports k p t.unit) := by
  have hp : firstPoison (trigUses (s.core k).sh0 (s.ports k p t.unit) t) (s.datumRead k p src t.unit) (s.ports k p t.unit) = none :=
    Option.isNone_iff_eq_none.1 hx
  have he : ∀ e' : Env, e' = ((s.env k p).readSrc src).1 → e'.ports t = s.ports k p t.unit ∧ e'.sh0 = (s.core k).sh0 ∧ e'.p = p := by
    rintro _ rfl; cases src <;> exact ⟨rfl, rfl, rfl⟩
  obtain ⟨h1, h2, h3⟩ := he _ rfl
  have hd : ({ (s.env k p).readPlain src with bits := ((s.env k p).readPlain src).at (trigWidth (prtWidth p) t.unit) } : Read) =
      s.datumRead k p src t.unit := rfl
  simp only [Env.moved, Env.writeItem, Env.fire, readSrc_snd, h1, h2, h3, hd, hp]
  rfl

/-- The checks that a trigger passes, beside those of its inputs (R228, R368, R373). -/
structure Passes (s : State) (k p : Nat) (g : Guard) (src : Src) (t : Trigger) : Prop where
  glob : ((s.core k).isLocked p && isGlobal t) = false
  legal : (s.env k p).reservedUse t = false
  takes : (s.env k p).mxRefuses t = false
  value : (s.env k p).judgeValue (oneMove g src (.trig t)) ⟨0, 0, g, .move src (.trig t)⟩ t (s.datum k p src t.unit) (s.ports k p t.unit) = .go
  access : (s.core k).isLocked p = false →
    (s.env k p).judgeRoom t = .go ∧ (s.env k p).judgeAccess t (s.datum k p src t.unit) (s.ports k p t.unit) 0 = .go

/-- A trigger on clean inputs that passes its checks does what it does. -/
theorem exec_trigger {i : Instr} {s : State} {k p : Nat} {g : Guard} {src : Src} {t : Trigger}
    (hi : i.group = some (oneMove g src (.trig t))) (h : s.ready k p g src (.trig t) = true)
    (hx : s.inputsClean k p src t = true) (hc : Passes s k p g src t)
    (hs : ((((s.env k p).readSrc src).1.fireClean 1 t (s.datum k p src t.unit) (s.ports k p t.unit)).q.loop.active &&
      !((s.core k).prt p).loop.active) = false) :
    exec i s = .next (s.afterMove k p src fun e => e.fireClean 1 t (s.datum k p src t.unit) (s.ports k p t.unit)) := by
  have ht := (atTurn_iff.1 (ready_iff.1 h).1).1
  rw [exec_group hi, execGroup_turn ht,
    issue_one (placed_of_ready h) (trigger_go hx hc.glob hc.legal hc.takes hc.value hc.access) (by rw [moved_trig hx]; exact hs), moved_trig hx]
  rfl

/-- A change of a partition that keeps its loop engine keeps it. -/
theorem modQ_loop (e : Env) (f : Partition → Partition) (hf : ∀ q, (f q).loop = q.loop) : (e.modQ f).q.loop = e.q.loop := by
  by_cases h : e.p < e.core.prts.length
  · simp only [Env.modQ, Env.q, prt_modPrt_same h, hf]
  · simp [Env.modQ, Env.q, Core.modPrt, Core.setPrt, Core.prt, List.set_eq_of_length_le (Nat.not_lt.1 h)]

theorem launch_loop (e : Env) (u : UnitName) (m : BitVec 3) (v : Yield) : (e.launch u m v).q.loop = e.q.loop := by
  unfold Env.launch
  exact modQ_loop e (fun q => { q with fly := q.fly ++ [_] }) fun _ => rfl

theorem readSrc_q (e : Env) (src : Src) : (e.readSrc src).1.q = e.q := by cases src <;> rfl

/-- A trigger of a fixed latency puts its result in flight (R57, R61). -/
theorem exec_fixed {i : Instr} {s : State} {k p : Nat} {g : Guard} {src : Src} {t : Trigger} {v : Yield}
    (hi : i.group = some (oneMove g src (.trig t))) (h : s.ready k p g src (.trig t) = true)
    (hx : s.inputsClean k p src t = true) (hc : Passes s k p g src t) (hm : t.unit ≠ .mx)
    (hv : (s.env k p).result t (s.datum k p src t.unit) (s.ports k p t.unit) = some v) :
    exec i s = .next (s.afterMove k p src fun e => e.launch t.unit t.macroIdx v) := by
  have hf : ((s.env k p).readSrc src).1.fireClean 1 t (s.datum k p src t.unit) (s.ports k p t.unit) =
      ((s.env k p).readSrc src).1.launch t.unit t.macroIdx v := by
    have hr := (readSrc_result (s.env k p) src t (s.datum k p src t.unit) (s.ports k p t.unit)).trans hv
    unfold Env.fireClean
    split
    · exact absurd rfl hm
    · rw [hr]
  rw [exec_trigger hi h hx hc (by rw [hf, launch_loop, readSrc_q]; exact Bool.and_not_self _)]
  exact congrArg (fun e => Host.Outcome.next (s.endWord k p e)) hf

/-- A plain trigger passes its checks. -/
theorem passes_plain {s : State} {k p : Nat} {g : Guard} {src : Src} {t : Trigger} (hp : plain t = true) : Passes s k p g src t := by
  cases t <;> first | (cases hp) | skip
  all_goals
    refine ⟨?_, rfl, rfl, rfl, fun _ => ⟨rfl, rfl⟩⟩
    simp only [isGlobal, Trigger.unit]
    first
      | exact Bool.and_false _
      | (rename_i u _ _; cases u <;> exact Bool.and_false _)
      | (rename_i u _; cases u <;> exact Bool.and_false _)
      | (rename_i u; cases u <;> exact Bool.and_false _)
      | (rename_i u _ _ _; cases u <;> exact Bool.and_false _)
      | (rename_i u _ _ _ _; cases u <;> exact Bool.and_false _)

theorem plain_unit {t : Trigger} (hp : plain t = true) : t.unit ≠ .mx := by
  cases t <;> first | (cases hp; done) | skip
  all_goals
    simp only [Trigger.unit]
    first
      | exact UnitName.noConfusion
      | (split <;> exact UnitName.noConfusion)

/-- The word of a poisoned input is that of the first one (R352). -/
theorem poisonIn_some {s : State} {k p : Nat} {src : Src} {t : Trigger} {w : Word} (h : s.poisonIn k p src t = some w) :
    ∃ y, firstPoison (trigUses (s.core k).sh0 (s.ports k p t.unit) t) (s.datumRead k p src t.unit) (s.ports k p t.unit) = some y ∧
      w = y.pw ||| bitAt 54 true := by
  simp only [State.poisonIn] at h
  generalize trigUses (s.core k).sh0 (s.ports k p t.unit) t = u at h ⊢
  generalize s.datumRead k p src t.unit = d at h ⊢
  generalize s.ports k p t.unit = r at h ⊢
  unfold firstPoison
  cases h1 : u.t && d.psn <;> cases h2 : u.o1 && r.o1.psn <;> cases h3 : u.o2 && r.o2.psn <;> cases h4 : u.o3 && r.o3.psn <;>
    simp only [h1, h2, h3, h4, Bool.false_eq_true, ↓reduceIte, Option.some.injEq, reduceCtorEq, exists_eq_left'] at h ⊢ <;> exact h.symm

/-- The checks of a plain trigger that is no sink ask for no clean inputs (R352, R353). -/
theorem plain_go {s : State} {k p : Nat} {src : Src} {t : Trigger} {g : Guard} (hp : plain t = true) (hk : trigSink t = false) :
    Judge.dest ⟨s.env k p, [], .go⟩ (oneMove g src (.trig t)) ⟨0, 0, g, .move src (.trig t)⟩ (.trig t)
      (some ((s.env k p).readPlain src)) = .go := by
  have hc : Passes s k p g src t := passes_plain hp
  have hq : (s.env k p).q.unit t.unit = s.ports k p t.unit := rfl
  have hl : ((s.env k p).locked && isGlobal t) = false := hc.glob
  have hmx : (s.env k p).judgeMx t 0 = .go := by simp [Env.judgeMx, hc.takes]
  have hun : Judge.unknown ⟨s.env k p, [], .go⟩ t.unit (trigUses (s.env k p).sh0 (s.ports k p t.unit) t) = false := by
    simp [Judge.unknown]
  have hv : (s.env k p).judgeValue (oneMove g src (.trig t)) ⟨0, 0, g, .move src (.trig t)⟩ t
      (((s.env k p).readPlain src).at (trigWidth (prtWidth (s.env k p).p) t.unit)).toNat (s.ports k p t.unit) = .go := hc.value
  simp only [Judge.dest, Judge.trigger, hq, hl, hc.legal, hmx, hun, encodeIf, Verdict.trapIf_false, Bool.false_eq_true, ↓reduceIte,
    Verdict.go_and, Verdict.and_go, Option.isSome_some, Bool.true_or, Bool.not_false, Bool.and_self, hk, hv]
  have ha : (if (s.env k p).locked = true then Verdict.go else
      ((s.env k p).judgeRoom t).and
        (if (Judge.poisoned ⟨s.env k p, [], .go⟩ t.unit (trigUses (s.env k p).sh0 (s.ports k p t.unit) t)
          (some ((s.env k p).readPlain src)) (s.ports k p t.unit)).isNone = true then
          (s.env k p).judgeAccess t (((s.env k p).readPlain src).at (trigWidth (prtWidth (s.env k p).p) t.unit)).toNat (s.ports k p t.unit) 0
        else .go)) = .go := by
    split
    · rfl
    · rename_i h
      obtain ⟨h1, h2⟩ := hc.access (Bool.eq_false_iff.2 h)
      rw [h1, Verdict.go_and]
      split
      · exact h2
      · rfl
  rw [ha, Verdict.go_and]
  split <;> rfl

/-- A plain trigger is no memory access, and its result does not depend on whether its inputs are clean. -/
theorem firePoisoned_plain {e : Env} {t : Trigger} {x : Nat} {r : UnitRegs} {pw : Word} {y : Yield} (hp : plain t = true)
    (hv : e.result t x r = some y) : e.firePoisoned t x r pw = e.launch t.unit t.macroIdx (y.poison pw) := by
  cases t <;> first | (cases hp; done) | skip
  all_goals simp only [Env.firePoisoned, trigGmForm, hv]

/-- A plain trigger puts its result in flight, and on a poisoned input its latches with the poison (R57, R352). -/
theorem yields_plain {i : Instr} {s : State} {k p : Nat} {g : Guard} {src : Src} {t : Trigger} {y : Yield}
    (hi : i.group = some (oneMove g src (.trig t))) (hp : plain t = true)
    (hv : (s.env k p).result t (s.datum k p src t.unit) (s.ports k p t.unit) = some y) : Yields i s k p g src t y := by
  refine ⟨fun h => ?_, fun w h hw hk => ?_⟩
  · simp only [State.fires, Bool.and_eq_true] at h
    exact exec_fixed hi h.1 h.2 (passes_plain hp) (plain_unit hp) hv
  · obtain ⟨x, hx, rfl⟩ := poisonIn_some hw
    have he : ∀ e' : Env, e' = ((s.env k p).readSrc src).1 → e'.ports t = s.ports k p t.unit ∧ e'.sh0 = (s.core k).sh0 ∧ e'.p = p := by
      rintro _ rfl; cases src <;> exact ⟨rfl, rfl, rfl⟩
    obtain ⟨h1, h2, h3⟩ := he _ rfl
    have hm : (s.env k p).moved src (.trig t) =
        ((s.env k p).readSrc src).1.launch t.unit t.macroIdx (y.dead (x.pw ||| bitAt 54 true)) := by
      have hd : ({ (s.env k p).readPlain src with bits := ((s.env k p).readPlain src).at (trigWidth (prtWidth p) t.unit) } : Read) =
          s.datumRead k p src t.unit := rfl
      have hr := (readSrc_result (s.env k p) src t (s.datum k p src t.unit) (s.ports k p t.unit)).trans hv
      simp only [Env.moved, Env.writeItem, Env.fire, readSrc_snd, h1, h2, h3, hd, hx]
      exact firePoisoned_plain hp hr
    have ht := (atTurn_iff.1 (placed_iff.1 h).1).1
    rw [exec_group hi, execGroup_turn ht, issue_one h (plain_go hp hk) (by rw [hm, launch_loop, readSrc_q]; exact Bool.and_not_self _)]
    exact congrArg (fun e => Host.Outcome.next (s.endWord k p e)) hm

end Sys2Proof.Machine
end

