-- ==== Sys2Proof/Laws/Memory.lean ====
section
/-! SUPPORT. Laws of the byte lists and of the memory system: every operation keeps the canonical form,
a write leaves every byte outside it as it was, and a byte written is the byte read. -/

namespace Sys2Proof.Machine

/-! ### Byte lists -/

theorem Cells.wf_iff (m : List Host.Cell) :
    Cells.wf m = true ↔ (m.map Prod.fst).Pairwise (· < ·) ∧ ∀ c ∈ m, c.2 ≠ 0 := by
  simp [Cells.wf]

theorem Cells.wf_nil : Cells.wf [] = true := by decide

/-- New cells of n bytes at a may be spliced in. -/
def Cells.fits (a n : Nat) (new : List Host.Cell) : Prop :=
  Cells.wf new = true ∧ ∀ c ∈ new, a ≤ c.1 ∧ c.1 < a + n

theorem Cells.wf_filter (m : List Host.Cell) (f : Host.Cell → Bool) (h : Cells.wf m = true) :
    Cells.wf (m.filter f) = true := by
  rw [Cells.wf_iff] at h ⊢
  refine ⟨h.1.sublist (List.Sublist.map _ List.filter_sublist), fun c hc => h.2 c (List.mem_filter.1 hc).1⟩

theorem Cells.wf_splice (m : List Host.Cell) (a n : Nat) (new : List Host.Cell) (h : Cells.wf m = true)
    (hn : Cells.fits a n new) : Cells.wf (Cells.splice m a n new) = true := by
  have h1 := (Cells.wf_iff _).1 (Cells.wf_filter m (fun c => decide (c.1 < a)) h)
  have h2 := (Cells.wf_iff _).1 (Cells.wf_filter m (fun c => decide (a + n ≤ c.1)) h)
  have h3 := (Cells.wf_iff _).1 hn.1
  have b := hn.2
  rw [Cells.wf_iff]
  constructor
  · simp only [Cells.splice, List.map_append, List.pairwise_append]
    refine ⟨⟨h1.1, h3.1, ?_⟩, h2.1, ?_⟩
    · rintro x hx y hy
      obtain ⟨c, hc, rfl⟩ := List.mem_map.1 hx
      obtain ⟨d, hd, rfl⟩ := List.mem_map.1 hy
      have := b d hd
      simp only [List.mem_filter, decide_eq_true_eq] at hc
      omega
    · rintro x hx y hy
      obtain ⟨d, hd, rfl⟩ := List.mem_map.1 hy
      simp only [List.mem_filter, decide_eq_true_eq] at hd
      rcases List.mem_append.1 hx with hx | hx <;> obtain ⟨c, hc, rfl⟩ := List.mem_map.1 hx
      · simp only [List.mem_filter, decide_eq_true_eq] at hc
        omega
      · have := b c hc
        omega
  · intro c hc
    simp only [Cells.splice, List.mem_append] at hc
    rcases hc with (hc | hc) | hc
    · exact h1.2 c hc
    · exact h3.2 c hc
    · exact h2.2 c hc

/-- A list of cells made one address after another, in rising order, holds no zero byte if it skips them. -/
theorem Cells.fits_filterMap (a n : Nat) (f : Nat → Option Host.Cell)
    (hf : ∀ i c, f i = some c → c.1 = a + i ∧ c.2 ≠ 0) : Cells.fits a n ((List.range n).filterMap f) := by
  refine ⟨(Cells.wf_iff _).2 ⟨?_, ?_⟩, ?_⟩
  · rw [List.pairwise_map, List.pairwise_filterMap]
    refine (List.pairwise_lt_range (n := n)).imp ?_
    intro i j hij b hb c hc
    have := hf i b hb
    have := hf j c hc
    omega
  · intro c hc
    obtain ⟨i, -, hi⟩ := List.mem_filterMap.1 hc
    exact (hf i c hi).2
  · intro c hc
    obtain ⟨i, hi, hi'⟩ := List.mem_filterMap.1 hc
    have := hf i c hi'
    have := List.mem_range.1 hi
    omega

theorem cellsOf_fits (a n x : Nat) : Cells.fits a n (cellsOf a n x) := by
  refine Cells.fits_filterMap a n _ ?_
  intro i c h
  simp only at h
  split at h
  · cases h
  · cases h
    exact ⟨rfl, ‹_›⟩

theorem cellsOfBytes_fits (a : Nat) (bs : List Byte) : Cells.fits a bs.length (cellsOfBytes a bs) := by
  have e : cellsOfBytes a bs = (List.range bs.length).filterMap fun i =>
      if bs.getD i 0 = 0 then none else some (a + i, bs.getD i 0) := by
    have z : bs.zipIdx a = (List.range bs.length).map fun i => (bs.getD i 0, a + i) := by
      apply List.ext_getElem
      · simp
      · intro i h1 h2
        simp at h1
        simp [h1]
    rw [cellsOfBytes, z, List.filterMap_map]
    rfl
  rw [e]
  refine Cells.fits_filterMap a _ _ ?_
  intro i c h
  split at h
  · cases h
  · cases h
    exact ⟨rfl, ‹_›⟩

theorem Cells.wf_write (m : List Host.Cell) (a n x : Nat) (h : Cells.wf m = true) :
    Cells.wf (Cells.write m a n x) = true := Cells.wf_splice m a n _ h (cellsOf_fits a n x)

theorem Cells.wf_writeBytes (m : List Host.Cell) (a : Nat) (bs : List Byte) (h : Cells.wf m = true) :
    Cells.wf (Cells.writeBytes m a bs) = true := Cells.wf_splice m a _ _ h (cellsOfBytes_fits a bs)

theorem Cells.wf_mark (m : List Host.Cell) (a n : Nat) (on : Bool) (h : Cells.wf m = true) :
    Cells.wf (Cells.mark m a n on) = true := by
  refine Cells.wf_splice m a n _ h ?_
  cases on
  · exact ⟨Cells.wf_nil, by simp⟩
  · have e : (List.range n).map (fun i => (a + i, (1 : Byte))) =
        (List.range n).filterMap (fun i => some (a + i, (1 : Byte))) := by
      simp
    simp only [if_true]
    rw [e]
    refine Cells.fits_filterMap a n _ ?_
    intro i c h
    cases h
    exact ⟨rfl, by simp⟩

/-- A byte outside the spliced bytes stays. -/
theorem Cells.byte_splice_outside (m : List Host.Cell) (a n : Nat) (new : List Host.Cell)
    (hn : ∀ c ∈ new, a ≤ c.1 ∧ c.1 < a + n) (b : Nat) (hb : b < a ∨ a + n ≤ b) :
    Cells.byte (Cells.splice m a n new) b = Cells.byte m b := by
  have hnew : new.find? (fun c => c.1 == b) = none := by
    rw [List.find?_eq_none]
    intro c hc
    have := hn c hc
    simp only [beq_iff_eq]
    omega
  simp only [Cells.byte, Cells.splice, List.find?_append, List.find?_filter, hnew]
  rcases hb with hb | hb
  · have e1 : (fun c : Host.Cell => decide (decide (c.1 < a) = true ∧ (c.1 == b) = true)) = fun c => c.1 == b := by
      funext c; by_cases h : c.1 = b <;> simp [h, hb]
    have e2 : (fun c : Host.Cell => decide (decide (a + n ≤ c.1) = true ∧ (c.1 == b) = true)) = fun _ => false := by
      funext c; by_cases h : c.1 = b <;> simp [h]; omega
    have e3 : m.find? (fun _ => false) = none := List.find?_eq_none.2 (by simp)
    rw [e1, e2, e3]
    cases m.find? (fun c => c.1 == b) <;> rfl
  · have e1 : (fun c : Host.Cell => decide (decide (a + n ≤ c.1) = true ∧ (c.1 == b) = true)) = fun c => c.1 == b := by
      funext c; by_cases h : c.1 = b <;> simp [h, hb]
    have e2 : (fun c : Host.Cell => decide (decide (c.1 < a) = true ∧ (c.1 == b) = true)) = fun _ => false := by
      funext c; by_cases h : c.1 = b <;> simp [h]; omega
    have e3 : m.find? (fun _ => false) = none := List.find?_eq_none.2 (by simp)
    rw [e1, e2, e3]
    rfl

theorem Cells.byte_write_outside (m : List Host.Cell) (a n x b : Nat) (hb : b < a ∨ a + n ≤ b) :
    Cells.byte (Cells.write m a n x) b = Cells.byte m b :=
  Cells.byte_splice_outside m a n _ (cellsOf_fits a n x).2 b hb

theorem Cells.find_cells (a n : Nat) (f : Nat → Byte) (i : Nat) (hi : i < n) :
    ((List.range n).filterMap fun j => if f j = 0 then none else some (a + j, f j)).find? (fun c => c.1 == a + i) =
      if f i = 0 then none else some (a + i, f i) := by
  induction n with
  | zero => omega
  | succ n ih =>
    have one : (([n] : List Nat).filterMap fun j => if f j = 0 then none else some (a + j, f j)) =
        if f n = 0 then [] else [(a + n, f n)] := by
      by_cases hn : f n = 0 <;> simp only [List.filterMap_cons, List.filterMap_nil, hn, if_true, if_false]
    rw [List.range_succ, List.filterMap_append, List.find?_append, one]
    by_cases h : i < n
    · rw [ih h]
      have ne : ¬ n = i := by omega
      by_cases hz : f i = 0 <;> by_cases hn : f n = 0 <;>
        simp only [hz, hn, if_true, if_false, Option.none_or, Option.some_or, List.find?_nil, List.find?_cons,
          Nat.add_left_cancel_iff, beq_iff_eq, ne]
      have : (a + n == a + i) = false := by simp [ne]
      rw [this]
    · have e : i = n := by omega
      subst e
      have none' : ((List.range i).filterMap fun j => if f j = 0 then none else some (a + j, f j)).find?
          (fun c => c.1 == a + i) = none := by
        rw [List.find?_eq_none]
        intro c hc
        obtain ⟨j, hj, hj'⟩ := List.mem_filterMap.1 hc
        have := List.mem_range.1 hj
        split at hj' <;> cases hj'
        simp only [beq_iff_eq]
        omega
      rw [none', Option.none_or]
      by_cases hz : f i = 0
      · rw [if_pos hz, if_pos hz]; rfl
      · rw [if_neg hz, if_neg hz, List.find?_cons, beq_self_eq_true]

/-- A byte written is the byte read. -/
theorem Cells.byte_write_inside (m : List Host.Cell) (a n x i : Nat) (hi : i < n) :
    Cells.byte (Cells.write m a n x) (a + i) = BitVec.ofNat 8 (x / 2 ^ (8 * i)) := by
  have h1 : (m.filter fun c => decide (c.1 < a)).find? (fun c => c.1 == a + i) = none := by
    rw [List.find?_eq_none]; intro c hc
    simp only [List.mem_filter, decide_eq_true_eq] at hc
    simp only [beq_iff_eq]; omega
  have h2 : (m.filter fun c => decide (a + n ≤ c.1)).find? (fun c => c.1 == a + i) = none := by
    rw [List.find?_eq_none]; intro c hc
    simp only [List.mem_filter, decide_eq_true_eq] at hc
    simp only [beq_iff_eq]; omega
  have h3 := Cells.find_cells a n (fun j => BitVec.ofNat 8 (x / 2 ^ (8 * j))) i hi
  have h4 : (cellsOf a n x).find? (fun c => c.1 == a + i) =
      if BitVec.ofNat 8 (x / 2 ^ (8 * i)) = 0 then none else some (a + i, BitVec.ofNat 8 (x / 2 ^ (8 * i))) := h3
  simp only [Cells.byte, Cells.write, Cells.splice, List.find?_append, h1, h2, h4, Option.none_or, Option.or_none]
  by_cases hz : BitVec.ofNat 8 (x / 2 ^ (8 * i)) = 0
  · rw [if_pos hz, hz]
  · rw [if_neg hz]

/-! ### The memory system keeps its form -/

theorem Memory.wf_iff (m : Memory) : m.wf = true ↔ Cells.wf m.gddr = true ∧ Cells.wf m.psn = true ∧
    Cells.wf m.own0 = true ∧ Cells.wf m.own1 = true ∧ Cells.wf m.own2 = true ∧ Cells.wf m.own3 = true ∧ Cells.wf m.lines = true := by
  simp [Memory.wf, and_assoc]

/-- Memory.wf is about the byte lists alone. -/
theorem Memory.wf_congr (m n : Memory) (h1 : n.gddr = m.gddr) (h2 : n.psn = m.psn) (h3 : n.own0 = m.own0)
    (h4 : n.own1 = m.own1) (h5 : n.own2 = m.own2) (h6 : n.own3 = m.own3) (h7 : n.lines = m.lines) : n.wf = m.wf := by
  simp [Memory.wf, *]

@[simp] theorem Memory.wf_modHome (m : Memory) (h : Nat) (f : Home → Home) : (m.modHome h f).wf = m.wf := rfl

@[simp] theorem Memory.wf_postHome (m : Memory) (h kind : Nat) (cause : BitVec 8) (job : BitVec 32) (addr : Nat)
    (info : Word) : (m.postHome h kind cause job addr info).wf = m.wf := rfl

@[simp] theorem Memory.wf_charge (m : Memory) (job : BitVec 32) (n : Nat) : (m.charge job n).wf = m.wf := rfl

@[simp] theorem Memory.wf_setLlc (m : Memory) (l : List LlcLine) : Memory.wf { m with llc := l } = m.wf := rfl

theorem Memory.wf_put (m : Memory) (p : Place) (n x : Nat) (h : m.wf = true) : (m.put p n x).wf = true := by
  rw [Memory.wf_iff] at h
  obtain ⟨h1, h2, h3, h4, h5, h6, h7⟩ := h
  unfold Memory.put
  split <;> rw [Memory.wf_iff] <;> refine ⟨?_, ?_, ?_, ?_, ?_, ?_, ?_⟩ <;>
    first | assumption | exact Cells.wf_write _ _ _ _ ‹_›

theorem Memory.wf_mark (m : Memory) (a n : Nat) (on : Bool) (h : m.wf = true) :
    Memory.wf { m with psn := Cells.mark m.psn a n on } = true := by
  rw [Memory.wf_iff] at h ⊢
  exact ⟨h.1, Cells.wf_mark _ _ _ _ h.2.1, h.2.2⟩

theorem Memory.wf_cleanPieces (m : Memory) (p : Place) (n : Nat) (h : m.wf = true) :
    (m.cleanPieces p n).wf = true := Memory.wf_mark _ _ _ _ h

theorem Memory.wf_poisonPieces (m : Memory) (p : Place) (n : Nat) (h : m.wf = true) :
    (m.poisonPieces p n).wf = true := by
  unfold Memory.poisonPieces
  split
  · exact h
  · exact Memory.wf_mark _ _ _ _ h

theorem Memory.wf_laPut (m : Memory) (la : Nat) (x : Word) (h : m.wf = true) : (m.laPut la x).wf = true := by
  have h' := Memory.wf_put m (m.laPlace la) 8 x.toNat h
  unfold Memory.laPut
  extract_lets m'
  split <;> exact h'

theorem Memory.wf_setPte (m : Memory) (h pteLa : Nat) (bits : Word) (hm : m.wf = true) :
    (m.setPte h pteLa bits).wf = true := by
  rw [Memory.setPte, Memory.wf_modHome]
  exact Memory.wf_laPut _ _ _ hm

theorem Memory.wf_pageXlat (m : Memory) (h : Nat) (ia : Addr) (hm : m.wf = true) : (m.pageXlat h ia).1.wf = true := by
  unfold Memory.pageXlat
  simp only
  split
  · exact hm
  · split
    · exact hm
    · split
      · exact hm
      · rw [Memory.wf_modHome]
        split
        · exact hm
        · exact Memory.wf_setPte _ _ _ _ hm

theorem Memory.wf_xlate (m : Memory) (ia : Addr) (hm : m.wf = true) : (m.xlate ia).1.wf = true := by
  have hp := Memory.wf_pageXlat m (homeOf ia) ia hm
  unfold Memory.xlate
  simp only
  split
  · split
    · exact hm
    · split
      · split <;> exact hm
      · exact hm
  · split
    · exact hm
    · split <;> simp_all

theorem Memory.wf_cairnCount (m : Memory) (h a : Nat) (kind : AccKind) (ia : Addr) (job : BitVec 32)
    (hm : m.wf = true) : (m.cairnCount h a kind ia job).wf = true := by
  unfold Memory.cairnCount
  extract_lets d0 d2 r w thr m1
  have h1 : m1.wf = true := Memory.wf_laPut _ _ _ hm
  clear_value m1
  split
  · rw [Memory.wf_postHome]; exact Memory.wf_laPut _ _ _ h1
  · exact h1

theorem Memory.wf_counted (m : Memory) (x : Xlat) (kind : AccKind) (ia : Addr) (job : BitVec 32) (hm : m.wf = true) :
    (m.counted x kind ia job).wf = true := by
  unfold Memory.counted
  cases x.page with
  | none => exact hm
  | some e =>
    have hc := Memory.wf_cairnCount m (homeOf ia) (m.cairnLa (homeOf ia) e.pte) kind ia job hm
    by_cases hp : m.proceeds = some (ia.toNat / 128)
    · simp only [hp, if_true]; exact hm
    · simp only [hp, if_false]
      cases bit e.pte 39
      · exact hm
      · exact hc

theorem Memory.wf_setDirty (m : Memory) (h : Nat) (x : Xlat) (kind : AccKind) (hm : m.wf = true) :
    (m.setDirty h x kind).wf = true := by
  unfold Memory.setDirty
  split
  · split
    · exact Memory.wf_setPte _ _ _ _ hm
    · exact hm
  · exact hm

theorem Memory.wf_copyLine (m : Memory) (src dst : Place) (hm : m.wf = true) : (m.copyLine src dst).wf = true := by
  unfold Memory.copyLine
  have h := Memory.wf_put m dst 128 (m.get src 128) hm
  generalize m.put dst 128 (m.get src 128) = m0 at h ⊢
  generalize List.range 8 = l
  induction l generalizing m0 with
  | nil => exact h
  | cons i l ih =>
    refine ih _ ?_
    show (if _ then _ else _ : Memory).wf = true
    split
    · exact Memory.wf_poisonPieces _ _ _ h
    · exact Memory.wf_cleanPieces _ _ _ h

theorem Memory.wf_llcDrop (m : Memory) (line : Nat) (hm : m.wf = true) : (m.llcDrop line).wf = true := by
  have h := Memory.wf_cleanPieces _ (.llc line) 128 (Memory.wf_put m (.llc line) 128 0 hm)
  unfold Memory.llcDrop
  generalize (m.put (.llc line) 128 0).cleanPieces (.llc line) 128 = n at h ⊢
  exact h

theorem Memory.wf_writeBack (m n : Memory) (line : Nat) (hm : m.wf = true) (hn : m.writeBack line = some n) : n.wf = true := by
  unfold Memory.writeBack at hn
  extract_lets ia lost at hn
  have hl : ∀ (m n : Memory) (st : BitVec 8), m.wf = true → lost m st = some n → n.wf = true := by
    intro m n st h e
    cases e
    rw [Memory.wf_postHome]; exact h
  clear_value lost
  have hx := Memory.wf_xlate m ia hm
  split at hn
  · cases hn
  · rename_i he; rw [he] at hx; exact hl _ _ _ hx hn
  · rename_i m1 x he; rw [he] at hx
    have hc := Memory.wf_counted m1 x .wr ia 0 hx
    simp only at hn
    split at hn
    · cases hn
    · exact hl _ _ _ hc hn
    · split at hn
      · exact hl _ _ _ hc hn
      · split at hn
        · exact hl _ _ _ hc hn
        · cases hn; exact Memory.wf_copyLine _ _ _ (Memory.wf_setDirty _ _ _ _ hc)

theorem Memory.wf_writeLine (m n : Memory) (line : Nat) (hm : m.wf = true) (hn : m.writeLine line = some n) : n.wf = true := by
  unfold Memory.writeLine at hn
  extract_lets h at hn
  split at hn
  · cases hn
  · exact Memory.wf_writeBack _ _ _ hm (Option.filter_eq_some_iff.1 hn).1

theorem Memory.wf_evictLine (m n : Memory) (line : Nat) (hm : m.wf = true) (hn : m.evictLine line = some n) : n.wf = true := by
  unfold Memory.evictLine at hn
  split at hn
  · cases hn; exact hm
  · split at hn
    · obtain ⟨t, ht, rfl⟩ := Option.map_eq_some_iff.1 hn
      exact Memory.wf_llcDrop _ _ (Memory.wf_writeLine _ _ _ hm ht)
    · cases hn; exact Memory.wf_llcDrop _ _ hm

theorem Memory.wf_llcRoom (m n : Memory) (line : Nat) (hm : m.wf = true) (hn : m.llcRoom line = some n) : n.wf = true := by
  unfold Memory.llcRoom at hn
  simp only at hn
  split at hn
  · cases hn; exact hm
  · exact Memory.wf_evictLine _ _ _ hm hn

theorem Memory.wf_llcFill (m : Memory) (line : Nat) (p : Place) (dirty : Bool) (hm : m.wf = true) :
    (m.llcFill line p dirty).wf = true := by
  have h := Memory.wf_copyLine m p (.llc line) hm
  unfold Memory.llcFill
  generalize m.copyLine p (.llc line) = n at h ⊢
  exact h

@[simp] theorem Memory.wf_llcDirty (m : Memory) (line : Nat) : (m.llcDirty line).wf = m.wf := rfl

theorem Memory.wf_served (m : Memory) (y : Xlat) (ia : Addr) (kind : AccKind) (n : Nat) (job : BitVec 32) (r : Memory × Req)
    (hm : m.wf = true) (hr : m.served y ia kind n job = some r) : r.1.wf = true := by
  unfold Memory.served at hr
  extract_lets line hit m1 m2 at hr
  have h1 : m1.wf = true := Memory.wf_setDirty m (homeOf ia) y kind hm
  clear_value m1
  have h2 : m2.wf = true := by
    simp only [m2]
    split
    · rw [Memory.wf_charge]; exact h1
    · exact h1
  clear_value m2 hit
  split at hr
  · cases hr; exact hm
  · split at hr
    · cases hr; exact h2
    · split at hr
      · cases hr
        dsimp only
        split
        · exact h2
        · rw [Memory.wf_llcDirty]; exact h2
      · obtain ⟨t, ht, rfl⟩ := Option.map_eq_some_iff.1 hr
        exact Memory.wf_llcFill _ _ _ _ (Memory.wf_llcRoom _ _ _ h2 ht)

theorem Memory.wf_answer (m : Memory) (ia : Addr) (kind : AccKind) (n : Nat) (job : BitVec 32) (hm : m.wf = true) :
    (m.answer ia kind n job).1.wf = true := by
  have hx := Memory.wf_xlate m ia hm
  unfold Memory.answer
  split
  · exact hm
  · rename_i he; rw [he] at hx; exact hx
  · rename_i m1 x he
    rw [he] at hx
    split
    · exact hm
    · extract_lets m2
      have h2 : m2.wf = true := by
        simp only [m2]
        split
        · exact hx
        · exact Memory.wf_counted _ _ _ _ _ hx
      clear_value m2
      split
      · exact hm
      · exact h2
      · split
        · exact h2
        · split
          · exact hm
          · split
            · rename_i hs; exact Memory.wf_served _ _ _ _ _ _ _ h2 hs
            · exact hm

theorem Memory.wf_request (m : Memory) (ia : Addr) (kind : AccKind) (n : Nat) (job : BitVec 32) (hm : m.wf = true) :
    (m.request ia kind n job).1.wf = true := by
  unfold Memory.request
  extract_lets h r
  have hr : r.1.wf = true := Memory.wf_answer m ia kind n job hm
  clear_value r
  split
  · exact hm
  · split
    · exact hm
    · split
      · exact hm
      · exact hr

/-- A home that has room for its records before a request has it after it, with the record that the fault of a store
has it make (R383, R384). -/
theorem Memory.request_room (m : Memory) (ia : Addr) (kind : AccKind) (n : Nat) (job : BitVec 32)
    (hi : iaReserved ia = false) (hm : m.overfull (homeOf ia) 0 = false) :
    (m.request ia kind n job).1.overfull (homeOf ia) ((m.request ia kind n job).2.recs kind) = false := by
  unfold Memory.request
  extract_lets h r
  have hw : m.overfull h ((Req.wait).recs kind) = false := hm
  clear_value r
  rw [if_neg (by simp [hi])]
  split
  · exact hw
  · split
    · exact hw
    · rename_i hr; exact Bool.eq_false_iff.2 hr

theorem Memory.wf_readIa (m : Memory) (ia : Addr) (n : Nat) (job : BitVec 32) (hm : m.wf = true) :
    (m.readIa ia n job).1.wf = true := by
  have h := Memory.wf_request m ia .rd n job hm
  unfold Memory.readIa
  split <;> (rename_i he; rw [he] at h; exact h)

theorem Memory.wf_writeIa (m : Memory) (ia : Addr) (n x : Nat) (job : BitVec 32) (hm : m.wf = true) :
    (m.writeIa ia n x job).1.wf = true := by
  have h := Memory.wf_request m ia .wr n job hm
  unfold Memory.writeIa
  split
  · rename_i he; rw [he] at h
    exact Memory.wf_cleanPieces _ _ _ (Memory.wf_put _ _ _ _ h)
  · exact h

theorem Memory.wf_storeIa (m : Memory) (ia : Addr) (n x : Nat) (job : BitVec 32) (hm : m.wf = true) :
    (m.storeIa ia n x job).1.wf = true := by
  have h := Memory.wf_writeIa m ia n x job hm
  unfold Memory.storeIa
  split
  · rename_i he; rw [he] at h
    rw [Memory.wf_postHome]; exact h
  · exact h

theorem Memory.wf_readBytes (m : Memory) (ia : Addr) (n : Nat) (job : BitVec 32) (hm : m.wf = true) :
    (m.readBytes ia n job).1.wf = true := by
  unfold Memory.readBytes
  generalize cutLines ia.toNat n = l
  have key : ∀ (l : List (Nat × Nat)) (acc : Memory × Acc), acc.1.wf = true →
      (l.foldl (fun (acc : Memory × Acc) (x : Nat × Nat) =>
        match acc with
        | (m, .ok v p) =>
          match m.readIa (BitVec.ofNat 48 x.1) x.2 job with
          | (m, .ok y q) => (m, .ok (v + y * 2 ^ (8 * (x.1 - ia.toNat))) (p || q))
          | r => r
        | r => r) acc).1.wf = true := by
    intro l
    induction l with
    | nil => intro acc h; exact h
    | cons x l ih =>
      intro acc h
      rw [List.foldl_cons]
      refine ih _ ?_
      split
      · rename_i m1 v p
        have h1 := Memory.wf_readIa m1 (BitVec.ofNat 48 x.1) x.2 job h
        split
        · rename_i he; rw [he] at h1; exact h1
        · exact h1
      · exact h
  exact key l _ hm

theorem Memory.wf_writeBytes (m : Memory) (ia : Addr) (n x : Nat) (job : BitVec 32) (hm : m.wf = true) :
    (m.writeBytes ia n x job).1.wf = true := by
  unfold Memory.writeBytes
  generalize cutLines ia.toNat n = l
  have key : ∀ (l : List (Nat × Nat)) (acc : Memory × Req), acc.1.wf = true →
      (l.foldl (fun (acc : Memory × Req) (y : Nat × Nat) =>
        match acc with
        | (m, .go _ _) => m.writeIa (BitVec.ofNat 48 y.1) y.2 (x / 2 ^ (8 * (y.1 - ia.toNat)) % 2 ^ (8 * y.2)) job
        | r => r) acc).1.wf = true := by
    intro l
    induction l with
    | nil => intro acc h; exact h
    | cons y l ih =>
      intro acc h
      rw [List.foldl_cons]
      refine ih _ ?_
      split
      · exact Memory.wf_writeIa _ _ _ _ _ h
      · exact h
  exact key l _ hm

/-- Reset memory has the form (R4: every byte list is empty). -/
theorem reset_memory_wf : State.reset.mem.wf = true := by decide

end Sys2Proof.Machine
end

