-- ==== Sys2Proof/Laws/MemoryUse.lean ====
section
/-! SUPPORT. The operations over memory of the devices, of the scheduler, of the walker, of images and of
errors keep the canonical form of memory. -/

namespace Sys2Proof.Machine

/-- The memory that a read of an image answers, if it answers one. -/
def ReadAns.Keeps {α : Type} : ReadAns α → Prop
  | .ok m _ => m.wf = true
  | .bad m => m.wf = true
  | .wait => True

theorem ReadAns.keeps_bind {α β : Type} (a : ReadAns α) (f : Memory → α → ReadAns β) (ha : a.Keeps)
    (hf : ∀ m x, m.wf = true → (f m x).Keeps) : (a.bind f).Keeps := by
  cases a with
  | ok m x => exact hf m x ha
  | bad m => exact ha
  | wait => trivial

theorem Memory.wf_devRead (m : Memory) (ia n : Nat) (hm : m.wf = true) : (m.devRead ia n).1.wf = true := by
  have h := Memory.wf_readBytes m (BitVec.ofNat 48 ia) n 0 hm
  unfold Memory.devRead
  split
  · exact hm
  · split
    · rename_i he; rw [he] at h; exact h
    · exact h

theorem Memory.wf_devWrite (m : Memory) (ia n x : Nat) (hm : m.wf = true) : (m.devWrite ia n x).1.wf = true := by
  unfold Memory.devWrite
  split
  · exact hm
  · exact Memory.wf_writeBytes _ _ _ _ _ hm

/-- A walk keeps what its reader keeps. -/
theorem walkNode_keeps {σ : Type} (P : σ → Prop) (rd : IaReader σ) (hr : ∀ m a n, P m → P (rd m a n).1) (p d : Nat) :
    ∀ (m : σ) (n : Addr) (path : Word), P m → P (walkNode rd p d m n path).1 := by
  induction d with
  | zero => intro m n path h; exact h
  | succ d ih =>
    intro m n path h
    have h1 := hr m n 64 h
    rw [walkNode]
    split
    · exact h
    · split
      · rename_i he; rw [he] at h1; exact h1
      · rename_i he; rw [he] at h1; exact h1
      · rename_i m1 x psn he
        rw [he] at h1
        extract_lets dw start j pl ea ch
        split
        · exact h1
        · split
          · exact h1
          · split
            · split
              · exact h1
              · have h2 := hr m1 ea 8 h1
                split
                · rename_i he; rw [he] at h2; exact h2
                · rename_i he; rw [he] at h2; exact h2
                · rename_i he; rw [he] at h2
                  split <;> exact h2
            · split
              · exact h1
              · exact ih _ _ _ h1

theorem walkHandle_keeps {σ : Type} (P : σ → Prop) (rd : IaReader σ) (hr : ∀ m a n, P m → P (rd m a n).1) (p : Nat) (m : σ)
    (hdl : Nat) (h : P m) : P (walkHandle rd p m hdl).1 := by
  unfold walkHandle
  extract_lets d0 depth
  split
  · exact h
  · exact walkNode_keeps P rd hr p depth m _ _ h

theorem Core.walkReader_keeps (c : Core) (p : Nat) (o : MemOp) (l : WalkLog) (a : Addr) (n : Nat) (h : l.1.wf = true) :
    ((c.walkReader p o l a n).1).1.wf = true := by
  obtain ⟨m, l⟩ := l
  have hq := Memory.wf_request m a .rd n c.jobId h
  unfold Core.walkReader
  extract_lets q i
  dsimp only
  by_cases hs : c.seenElsewhere p i n = true
  · rw [if_pos hs]; exact h
  · rw [if_neg hs]
    split <;> (rename_i he; rw [he] at hq; exact hq)

theorem Core.wf_walkEntry (c : Core) (p : Nat) (o : MemOp) (m : Memory) (h : m.wf = true) : (c.walkEntry p o m).1.1.wf = true := by
  unfold Core.walkEntry
  extract_lets rd
  have hr : ∀ (l : WalkLog) (a : Addr) (n : Nat), l.1.wf = true → (rd l a n).1.1.wf = true := Core.walkReader_keeps c p o
  clear_value rd
  split
  · exact h
  · have h0 := hr (m, []) o.ia 16 h
    split <;> (rename_i he; rw [he] at h0)
    · exact h0
    · exact h0
    · split
      · exact h0
      · exact walkHandle_keeps (fun l : WalkLog => l.1.wf = true) rd hr _ _ _ h0

theorem Memory.wf_poisonIa (m : Memory) (ia : Addr) (hm : m.wf = true) : (m.poisonIa ia).wf = true := by
  unfold Memory.poisonIa
  extract_lets line m'
  have h : m'.wf = true := by
    show (if _ then _ else _ : Memory).wf = true
    split
    · exact Memory.wf_poisonPieces _ _ _ hm
    · exact hm
  clear_value m'
  split
  · exact Memory.wf_poisonPieces _ _ _ h
  · exact h

theorem Memory.wf_llcError (m : Memory) (a : Nat) (hm : m.wf = true) : (m.llcError a).wf = true := by
  unfold Memory.llcError
  split
  · split
    · exact Memory.wf_poisonPieces _ _ _ hm
    · exact Memory.wf_llcDrop _ _ hm
  · exact hm

theorem Memory.wf_sliceError (m : Memory) (slice : Nat) (hm : m.wf = true) : (m.sliceError slice).wf = true := by
  unfold Memory.sliceError
  generalize (m.llc.filter fun x => llcSlice x.line == slice) = l
  induction l generalizing m with
  | nil => exact hm
  | cons x l ih =>
    refine ih _ ?_
    show (if _ then _ else _ : Memory).wf = true
    split
    · exact Memory.wf_poisonPieces _ _ _ hm
    · exact Memory.wf_llcDrop _ _ hm

theorem Memory.wf_imagePut (m n : Memory) (a : Addr) (len x : Nat) (job : BitVec 32) (hm : m.wf = true)
    (hn : m.imagePut a len x job = some n) : n.wf = true := by
  have h := Memory.wf_writeIa m a len x job hm
  unfold Memory.imagePut at hn
  split at hn
  · cases hn
  · rename_i he; rw [he] at h; cases hn; exact h

theorem Memory.wf_imageDw (m : Memory) (a : Addr) (len : Nat) (job : BitVec 32) (r : Memory × Nat) (hm : m.wf = true)
    (hr : m.imageDw a len job = some r) : r.1.wf = true := by
  have h := Memory.wf_readIa m a len job hm
  unfold Memory.imageDw at hr
  split at hr
  · rename_i he; rw [he] at h; cases hr; exact h
  · rename_i he; rw [he] at h; cases hr; exact h
  · cases hr

theorem Memory.wf_imageSignal (m n : Memory) (ria : Addr) (i inc : Nat) (job : BitVec 32) (hm : m.wf = true)
    (hn : m.imageSignal ria i inc job = some n) : n.wf = true := by
  unfold Memory.imageSignal at hn
  obtain ⟨r, hr, hn⟩ := Option.bind_eq_some_iff.1 hn
  exact Memory.wf_imagePut _ _ _ _ _ _ (Memory.wf_imageDw _ _ _ _ _ hm hr) hn

theorem Memory.wf_imageRecord (m n : Memory) (ria : Addr) (r : EvRec) (job : BitVec 32) (hm : m.wf = true)
    (hn : m.imageRecord ria r job = some n) : n.wf = true := by
  unfold Memory.imageRecord at hn
  obtain ⟨r1, h1, hn⟩ := Option.bind_eq_some_iff.1 hn
  obtain ⟨r2, h2, hn⟩ := Option.bind_eq_some_iff.1 hn
  obtain ⟨m3, h3, hn⟩ := Option.bind_eq_some_iff.1 hn
  have w2 := Memory.wf_imageDw _ _ _ _ _ (Memory.wf_imageDw _ _ _ _ _ hm h1) h2
  have w3 := Memory.wf_imagePut _ _ _ _ _ _ w2 h3
  simp only at hn
  split at hn
  · obtain ⟨m4, h4, hn⟩ := Option.bind_eq_some_iff.1 hn
    exact Memory.wf_imagePut _ _ _ _ _ _ (Memory.wf_imagePut _ _ _ _ _ _ w3 h4) hn
  · exact Memory.wf_imagePut _ _ _ _ _ _ w3 hn

theorem Memory.wf_writePieces (ria : Addr) (job : BitVec 32) (ps : List Piece) :
    ∀ (m : Memory), m.wf = true → ∀ r, writePieces ria job ps m = some r → r.1.wf = true := by
  induction ps with
  | nil => intro m h r hr; cases hr; exact h
  | cons x ps ih =>
    obtain ⟨off, bs⟩ := x
    intro m h r hr
    have h1 := Memory.wf_writeBytes m (ria + BitVec.ofNat 48 off) bs.length (bytesNat bs) job h
    rw [writePieces] at hr
    split at hr
    · cases hr
    · rename_i he; rw [he] at h1; cases hr; exact h1
    · rename_i he; rw [he] at h1; exact ih _ h1 r hr

theorem readPiece_keeps (ria : Addr) (job : BitVec 32) (m : Memory) (off n : Nat) (h : m.wf = true) :
    (readPiece ria job m off n).Keeps := by
  have h1 := Memory.wf_readBytes m (ria + BitVec.ofNat 48 off) n job h
  unfold readPiece
  split <;> (rename_i he; rw [he] at h1)
  · exact h1
  · exact h1
  · exact h1
  · trivial

theorem readPieces_keeps (ria : Addr) (job : BitVec 32) (ps : List (Nat × Nat)) :
    ∀ (m : Memory), m.wf = true → (readPieces ria job m ps).Keeps := by
  induction ps with
  | nil => intro m h; exact h
  | cons x ps ih =>
    obtain ⟨off, n⟩ := x
    intro m h
    exact ReadAns.keeps_bind _ _ (readPiece_keeps ria job m off n h) fun m _ h =>
      ReadAns.keeps_bind _ _ (ih m h) fun m _ h => h

theorem readImage_keeps (ria : Addr) (job : BitVec 32) (nm : Nat) (m : Memory) (h : m.wf = true) :
    (readImage ria job nm m).Keeps := by
  unfold readImage
  extract_lets rd
  have hr : ∀ (m : Memory) (off n : Nat), m.wf = true → (rd m off n).Keeps := readPiece_keeps ria job
  have hs : ∀ (ps : List (Nat × Nat)) (m : Memory), m.wf = true → (readPieces ria job m ps).Keeps := readPieces_keeps ria job
  generalize readPieces ria job = rs at hs ⊢
  clear_value rd
  apply ReadAns.keeps_bind _ _ (hr _ _ _ h)
  intro m _ h
  apply ReadAns.keeps_bind _ _ (hs _ _ h)
  intro m _ h
  apply ReadAns.keeps_bind _ _ (hs _ _ h)
  intro m _ h
  apply ReadAns.keeps_bind _ _ (hr _ _ _ h)
  intro m _ h
  apply ReadAns.keeps_bind _ _ (hr _ _ _ h)
  intro m _ h
  apply ReadAns.keeps_bind _ _ (hr _ _ _ h)
  intro m _ h
  apply ReadAns.keeps_bind _ _ (hs _ _ h)
  intro m _ h
  apply ReadAns.keeps_bind _ _ (hr _ _ _ h)
  intro m _ h
  apply ReadAns.keeps_bind _ _ (hr _ _ _ h)
  intro m _ h
  apply ReadAns.keeps_bind _ _ (hr _ _ _ h)
  intro m _ h
  apply ReadAns.keeps_bind _ _ (hr _ _ _ h)
  intro m _ h
  exact h

theorem Memory.hostLine_keeps (m : Memory) (a n : Nat) (h : m.wf = true) : (m.hostLine a n).Keeps := by
  have h1 := Memory.wf_request m (BitVec.ofNat 48 a) .rd n 0 h
  unfold Memory.hostLine
  extract_lets ia
  split
  · exact h
  · split <;> (rename_i he; rw [he] at h1)
    · trivial
    · exact h1
    · exact h1

theorem Memory.hostRead_keeps (m : Memory) (ia : Addr) (len : Nat) (h : m.wf = true) : (m.hostRead ia len).Keeps := by
  unfold Memory.hostRead
  generalize cutLines ia.toNat len = l
  have key : ∀ (l : List (Nat × Nat)) (acc : ReadAns (List (Byte × Bool))), acc.Keeps →
      (l.foldl (fun acc (x : Nat × Nat) => acc.bind fun m bs => (m.hostLine x.1 x.2).bind fun m b => .ok m (bs ++ b)) acc).Keeps := by
    intro l
    induction l with
    | nil => intro acc h; exact h
    | cons x l ih =>
      intro acc h
      exact ih _ (ReadAns.keeps_bind _ _ h fun m _ h =>
        ReadAns.keeps_bind _ _ (Memory.hostLine_keeps m _ _ h) fun m _ h => h)
  exact key l _ h

theorem Memory.wf_hostWriteLine (m n : Memory) (a : Nat) (bs : List Byte) (h : m.wf = true)
    (hn : m.hostWriteLine a bs = some n) : n.wf = true := by
  have h1 := Memory.wf_storeIa m (BitVec.ofNat 48 a) bs.length (bytesNat bs) 0 h
  unfold Memory.hostWriteLine at hn
  extract_lets ia at hn
  split at hn
  · cases hn; exact h
  · split at hn
    · cases hn
    · rename_i he; rw [he] at h1; cases hn; exact h1

theorem Memory.wf_serve (m n : Memory) (kind : AccKind) (ia : Addr) (data : List Byte) (job : BitVec 32)
    (h : m.wf = true) (hn : m.serve kind ia data job = some n) : n.wf = true := by
  unfold Memory.serve at hn
  extract_lets bs at hn
  split at hn
  · cases hn; exact h
  · rcases kind with _ | _ | _
    · have h1 := Memory.wf_request m ia .rd bs.length job h
      simp only at hn
      split at hn
      · cases hn
      · rename_i he; rw [he] at h1; cases hn; exact h1
    · have h1 := Memory.wf_storeIa m ia bs.length (bytesNat bs) job h
      simp only at hn
      split at hn
      · cases hn
      · rename_i he; rw [he] at h1; cases hn; exact h1
    · have h1 := Memory.wf_request m ia .at bs.length job h
      simp only at hn
      split at hn
      · cases hn
      · rename_i he; rw [he] at h1; cases hn
        exact Memory.wf_cleanPieces _ _ _ (Memory.wf_put _ _ _ _ h1)
      · rename_i he; rw [he] at h1; cases hn; exact h1

/-- While none of its IDE streams is Insecure, a port passes what has an address exactly when its link is up (R413, R414). -/
theorem Memory.shut_secure (m : Memory) (p a : Nat) (h : m.insecure.getD p 0 = 0) : m.shut p a = m.down.getLsbD p := by
  rw [Memory.shut, Memory.rekeys, h, show BitVec.getLsbD (0 : BitVec 5) (Config.ideStream p a % 5) = false from BitVec.getLsbD_zero, Bool.or_false]

end Sys2Proof.Machine
end

