-- ==== Sys2Proof/Laws/PerInstr.lean ====
section
/-! SUPPORT. The encoding of each instruction, constructor by constructor: a well-formed instruction that is
the effect of a word group has a well-formed group, and the group reads back as that instruction. -/

namespace Sys2Proof.Laws.Encoding

/-- What the family says of an instruction. -/
def Statement (i : Instr) : Prop :=
  ∀ (c : Ctx) (g : Group), i.wf c = true → i.group = some g → g.wf c = true ∧ Instr.ofGroup g = i

/-- The statement follows from well-formedness. -/
theorem of_wf (i : Instr) : Statement i := by
  intro c g hw hg
  unfold Instr.wf at hw
  split at hw
  · cases hg
  · rw [hg] at hw
    simpa using hw

theorem mmWord (g : Group) : Statement (.mmWord g) := of_wf _
theorem mlWord (g : Guard) (dst : Dst) (imm : BitVec 64) : Statement (.mlWord g dst imm) := of_wf _
theorem idle (n : BitVec 16) : Statement (.idle n) := of_wf _
theorem sectionHeader (len : BitVec 9) (mask : BitVec 11) (wait : BitVec 44) : Statement (.sectionHeader len mask wait) := of_wf _
theorem sectionRetire (k p : Nat) : Statement (.sectionRetire k p) := of_wf _
theorem trapRecordPosted (k : Nat) : Statement (.trapRecordPosted k) := of_wf _
theorem resultLands (k p : Nat) : Statement (.resultLands k p) := of_wf _
theorem gmDataReturns (k p id : Nat) : Statement (.gmDataReturns k p id) := of_wf _
theorem exchangeLands (k : Nat) : Statement (.exchangeLands k) := of_wf _
theorem queueEntryVisible (clu port : Nat) : Statement (.queueEntryVisible clu port) := of_wf _
theorem transferDelayEnds (k p : Nat) : Statement (.transferDelayEnds k p) := of_wf _
theorem mxAcceptIntervalEnds (k m : Nat) : Statement (.mxAcceptIntervalEnds k m) := of_wf _
theorem lockGroupForms (k : Nat) : Statement (.lockGroupForms k) := of_wf _
theorem ftbRefill (k : Nat) : Statement (.ftbRefill k) := of_wf _
theorem rahHelperSpawn (k : Nat) : Statement (.rahHelperSpawn k) := of_wf _
theorem rahHelperDies (k : Nat) : Statement (.rahHelperDies k) := of_wf _
theorem brTgt (n : BitVec 2) (g : Guard) (src : Src) : Statement (.brTgt n g src) := of_wf _
theorem brJmp (n : BitVec 2) (g : Guard) (src : Src) : Statement (.brJmp n g src) := of_wf _
theorem brCall (n : BitVec 2) (g : Guard) (src : Src) : Statement (.brCall n g src) := of_wf _
theorem brRet (g : Guard) (src : Src) : Statement (.brRet g src) := of_wf _
theorem brBkt (g : Guard) (src : Src) : Statement (.brBkt g src) := of_wf _
theorem brTrap (g : Guard) (src : Src) : Statement (.brTrap g src) := of_wf _
theorem lpLoop (g : Guard) (src : Src) : Statement (.lpLoop g src) := of_wf _
theorem lpLbrk (g : Guard) (src : Src) : Statement (.lpLbrk g src) := of_wf _
theorem lpLrd (sel : LrdSel) (g : Guard) (src : Src) : Statement (.lpLrd sel g src) := of_wf _
theorem sySemw (g : Guard) (src : Src) : Statement (.sySemw g src) := of_wf _
theorem sySema (g : Guard) (src : Src) : Statement (.sySema g src) := of_wf _
theorem sySemr (g : Guard) (src : Src) : Statement (.sySemr g src) := of_wf _
theorem syJoin (g : Guard) (src : Src) : Statement (.syJoin g src) := of_wf _
theorem syLock (g : Guard) (src : Src) : Statement (.syLock g src) := of_wf _
theorem syUnlock (g : Guard) (src : Src) : Statement (.syUnlock g src) := of_wf _
theorem syRgn (g : Guard) (src : Src) : Statement (.syRgn g src) := of_wf _
theorem syMarkPrt (g : Guard) (src : Src) : Statement (.syMarkPrt g src) := of_wf _
theorem syMarkCore (g : Guard) (src : Src) : Statement (.syMarkCore g src) := of_wf _
theorem syMarkClu (g : Guard) (src : Src) : Statement (.syMarkClu g src) := of_wf _
theorem syMarkDev (g : Guard) (src : Src) : Statement (.syMarkDev g src) := of_wf _
theorem syMarkSys (g : Guard) (src : Src) : Statement (.syMarkSys g src) := of_wf _
theorem syRah (g : Guard) (src : Src) : Statement (.syRah g src) := of_wf _
theorem syChk (g : Guard) (src : Src) : Statement (.syChk g src) := of_wf _
theorem syEvt (g : Guard) (src : Src) : Statement (.syEvt g src) := of_wf _
theorem ixAdd (u : Bool) (w : IntW) (g : Guard) (src : Src) : Statement (.ixAdd u w g src) := of_wf _
theorem ixSub (u : Bool) (w : IntW) (g : Guard) (src : Src) : Statement (.ixSub u w g src) := of_wf _
theorem ixAnd (u : Bool) (w : IntW) (g : Guard) (src : Src) : Statement (.ixAnd u w g src) := of_wf _
theorem ixOr (u : Bool) (w : IntW) (g : Guard) (src : Src) : Statement (.ixOr u w g src) := of_wf _
theorem ixXor (u : Bool) (w : IntW) (g : Guard) (src : Src) : Statement (.ixXor u w g src) := of_wf _
theorem ixAndn (u : Bool) (w : IntW) (g : Guard) (src : Src) : Statement (.ixAndn u w g src) := of_wf _
theorem ixShl (u : Bool) (w : IntW) (g : Guard) (src : Src) : Statement (.ixShl u w g src) := of_wf _
theorem ixShr (u : Bool) (w : IntW) (g : Guard) (src : Src) : Statement (.ixShr u w g src) := of_wf _
theorem ixSar (u : Bool) (w : IntW) (g : Guard) (src : Src) : Statement (.ixSar u w g src) := of_wf _
theorem ixRol (u : Bool) (w : IntW) (g : Guard) (src : Src) : Statement (.ixRol u w g src) := of_wf _
theorem ixMin (u : Bool) (w : IntW) (g : Guard) (src : Src) : Statement (.ixMin u w g src) := of_wf _
theorem ixMax (u : Bool) (w : IntW) (g : Guard) (src : Src) : Statement (.ixMax u w g src) := of_wf _
theorem ixMinu (u : Bool) (w : IntW) (g : Guard) (src : Src) : Statement (.ixMinu u w g src) := of_wf _
theorem ixMaxu (u : Bool) (w : IntW) (g : Guard) (src : Src) : Statement (.ixMaxu u w g src) := of_wf _
theorem ixClz (u : Bool) (w : IntW) (g : Guard) (src : Src) : Statement (.ixClz u w g src) := of_wf _
theorem ixCtz (u : Bool) (w : IntW) (g : Guard) (src : Src) : Statement (.ixCtz u w g src) := of_wf _
theorem ixPopc (u : Bool) (w : IntW) (g : Guard) (src : Src) : Statement (.ixPopc u w g src) := of_wf _
theorem ixBswap (u : Bool) (w : IntW) (g : Guard) (src : Src) : Statement (.ixBswap u w g src) := of_wf _
theorem ixBext (u : Bool) (w : IntW) (g : Guard) (src : Src) : Statement (.ixBext u w g src) := of_wf _
theorem ixBins (u : Bool) (w : IntW) (g : Guard) (src : Src) : Statement (.ixBins u w g src) := of_wf _
theorem ixSel (u : Bool) (w : IntW) (g : Guard) (src : Src) : Statement (.ixSel u w g src) := of_wf _
theorem ixMov (u : Bool) (w : IntW) (g : Guard) (src : Src) : Statement (.ixMov u w g src) := of_wf _
theorem cmpCond (c : Cond) (w : IntW) (g : Guard) (src : Src) : Statement (.cmpCond c w g src) := of_wf _
theorem cmpPand (g : Guard) (src : Src) : Statement (.cmpPand g src) := of_wf _
theorem cmpPor (g : Guard) (src : Src) : Statement (.cmpPor g src) := of_wf _
theorem cmpPxor (g : Guard) (src : Src) : Statement (.cmpPxor g src) := of_wf _
theorem cmpPandn (g : Guard) (src : Src) : Statement (.cmpPandn g src) := of_wf _
theorem imdMul (w32 : Bool) (g : Guard) (src : Src) : Statement (.imdMul w32 g src) := of_wf _
theorem imdMulh (w32 : Bool) (g : Guard) (src : Src) : Statement (.imdMulh w32 g src) := of_wf _
theorem imdMulhu (w32 : Bool) (g : Guard) (src : Src) : Statement (.imdMulhu w32 g src) := of_wf _
theorem imdDiv (w32 : Bool) (g : Guard) (src : Src) : Statement (.imdDiv w32 g src) := of_wf _
theorem imdDivu (w32 : Bool) (g : Guard) (src : Src) : Statement (.imdDivu w32 g src) := of_wf _
theorem imdRem (w32 : Bool) (g : Guard) (src : Src) : Statement (.imdRem w32 g src) := of_wf _
theorem imdRemu (w32 : Bool) (g : Guard) (src : Src) : Statement (.imdRemu w32 g src) := of_wf _
theorem ksLd (u : Bool) (g : Guard) (src : Src) : Statement (.ksLd u g src) := of_wf _
theorem ksSt (u : Bool) (g : Guard) (src : Src) : Statement (.ksSt u g src) := of_wf _
theorem ksLdx (u : Bool) (w : IntW) (g : Guard) (src : Src) : Statement (.ksLdx u w g src) := of_wf _
theorem ksStx (u : Bool) (w : IntW) (g : Guard) (src : Src) : Statement (.ksStx u w g src) := of_wf _
theorem ksLdb (u : Bool) (w : IntW) (g : Guard) (src : Src) : Statement (.ksLdb u w g src) := of_wf _
theorem vaAdd (u : Bool) (w : IntW) (g : Guard) (src : Src) : Statement (.vaAdd u w g src) := of_wf _
theorem vaSub (u : Bool) (w : IntW) (g : Guard) (src : Src) : Statement (.vaSub u w g src) := of_wf _
theorem vaMul (u : Bool) (w : IntW) (g : Guard) (src : Src) : Statement (.vaMul u w g src) := of_wf _
theorem vaMulh (u : Bool) (w : IntW) (g : Guard) (src : Src) : Statement (.vaMulh u w g src) := of_wf _
theorem vaAnd (u : Bool) (w : IntW) (g : Guard) (src : Src) : Statement (.vaAnd u w g src) := of_wf _
theorem vaOr (u : Bool) (w : IntW) (g : Guard) (src : Src) : Statement (.vaOr u w g src) := of_wf _
theorem vaXor (u : Bool) (w : IntW) (g : Guard) (src : Src) : Statement (.vaXor u w g src) := of_wf _
theorem vaAndn (u : Bool) (w : IntW) (g : Guard) (src : Src) : Statement (.vaAndn u w g src) := of_wf _
theorem vaShl (u : Bool) (w : IntW) (g : Guard) (src : Src) : Statement (.vaShl u w g src) := of_wf _
theorem vaShr (u : Bool) (w : IntW) (g : Guard) (src : Src) : Statement (.vaShr u w g src) := of_wf _
theorem vaSar (u : Bool) (w : IntW) (g : Guard) (src : Src) : Statement (.vaSar u w g src) := of_wf _
theorem vaMin (u : Bool) (w : IntW) (g : Guard) (src : Src) : Statement (.vaMin u w g src) := of_wf _
theorem vaMax (u : Bool) (w : IntW) (g : Guard) (src : Src) : Statement (.vaMax u w g src) := of_wf _
theorem vaMinu (u : Bool) (w : IntW) (g : Guard) (src : Src) : Statement (.vaMinu u w g src) := of_wf _
theorem vaMaxu (u : Bool) (w : IntW) (g : Guard) (src : Src) : Statement (.vaMaxu u w g src) := of_wf _
theorem vaAbs (u : Bool) (w : IntW) (g : Guard) (src : Src) : Statement (.vaAbs u w g src) := of_wf _
theorem vaSel (u : Bool) (w : IntW) (g : Guard) (src : Src) : Statement (.vaSel u w g src) := of_wf _
theorem vaPopc (u : Bool) (w : IntW) (g : Guard) (src : Src) : Statement (.vaPopc u w g src) := of_wf _
theorem vaClz (u : Bool) (w : IntW) (g : Guard) (src : Src) : Statement (.vaClz u w g src) := of_wf _
theorem vaAdds (u : Bool) (w : IntW) (g : Guard) (src : Src) : Statement (.vaAdds u w g src) := of_wf _
theorem vaSubs (u : Bool) (w : IntW) (g : Guard) (src : Src) : Statement (.vaSubs u w g src) := of_wf _
theorem vpPerm (w : IntW) (g : Guard) (src : Src) : Statement (.vpPerm w g src) := of_wf _
theorem vpBcast (w : IntW) (g : Guard) (src : Src) : Statement (.vpBcast w g src) := of_wf _
theorem vpRot (w : IntW) (g : Guard) (src : Src) : Statement (.vpRot w g src) := of_wf _
theorem vpPack (w : IntW) (g : Guard) (src : Src) : Statement (.vpPack w g src) := of_wf _
theorem vpUnpk (w : IntW) (g : Guard) (src : Src) : Statement (.vpUnpk w g src) := of_wf _
theorem vpCmprs (w : IntW) (g : Guard) (src : Src) : Statement (.vpCmprs w g src) := of_wf _
theorem vpRedadd (w : IntW) (g : Guard) (src : Src) : Statement (.vpRedadd w g src) := of_wf _
theorem vpRedmax (w : IntW) (g : Guard) (src : Src) : Statement (.vpRedmax w g src) := of_wf _
theorem vpRedmin (w : IntW) (g : Guard) (src : Src) : Statement (.vpRedmin w g src) := of_wf _
theorem vpScan (w : IntW) (g : Guard) (src : Src) : Statement (.vpScan w g src) := of_wf _
theorem vpXscan (w : IntW) (g : Guard) (src : Src) : Statement (.vpXscan w g src) := of_wf _
theorem vpFredadd (f : FpF) (g : Guard) (src : Src) : Statement (.vpFredadd f g src) := of_wf _
theorem vpFredmax (f : FpF) (g : Guard) (src : Src) : Statement (.vpFredmax f g src) := of_wf _
theorem vpFredmin (f : FpF) (g : Guard) (src : Src) : Statement (.vpFredmin f g src) := of_wf _
theorem vpClmul (w32 : Bool) (g : Guard) (src : Src) : Statement (.vpClmul w32 g src) := of_wf _
theorem vcCmp (c : Cond) (w : IntW) (g : Guard) (src : Src) : Statement (.vcCmp c w g src) := of_wf _
theorem vcFcmp (c : FCond) (f : FpF) (g : Guard) (src : Src) : Statement (.vcFcmp c f g src) := of_wf _
theorem vcAny (g : Guard) (src : Src) : Statement (.vcAny g src) := of_wf _
theorem vcAll (g : Guard) (src : Src) : Statement (.vcAll g src) := of_wf _
theorem vcCnt (g : Guard) (src : Src) : Statement (.vcCnt g src) := of_wf _
theorem vcClass (f : FpF) (g : Guard) (src : Src) : Statement (.vcClass f g src) := of_wf _
theorem vfAdd (u : Bool) (rc : Rc) (f : FpF) (g : Guard) (src : Src) : Statement (.vfAdd u rc f g src) := of_wf _
theorem vfSub (u : Bool) (rc : Rc) (f : FpF) (g : Guard) (src : Src) : Statement (.vfSub u rc f g src) := of_wf _
theorem vfMul (u : Bool) (rc : Rc) (f : FpF) (g : Guard) (src : Src) : Statement (.vfMul u rc f g src) := of_wf _
theorem vfFma (u : Bool) (rc : Rc) (f : FpF) (g : Guard) (src : Src) : Statement (.vfFma u rc f g src) := of_wf _
theorem vfNma (u : Bool) (rc : Rc) (f : FpF) (g : Guard) (src : Src) : Statement (.vfNma u rc f g src) := of_wf _
theorem vfMin (u : Bool) (rc : Rc) (f : FpF) (g : Guard) (src : Src) : Statement (.vfMin u rc f g src) := of_wf _
theorem vfMax (u : Bool) (rc : Rc) (f : FpF) (g : Guard) (src : Src) : Statement (.vfMax u rc f g src) := of_wf _
theorem vfAbs (u : Bool) (rc : Rc) (f : FpF) (g : Guard) (src : Src) : Statement (.vfAbs u rc f g src) := of_wf _
theorem vfNeg (u : Bool) (rc : Rc) (f : FpF) (g : Guard) (src : Src) : Statement (.vfNeg u rc f g src) := of_wf _
theorem vfRnd (u : Bool) (rc : Rc) (f : FpF) (g : Guard) (src : Src) : Statement (.vfRnd u rc f g src) := of_wf _
theorem vfCvtE8m0 (u : Bool) (rc : Rc) (f : FpF) (g : Guard) (src : Src) : Statement (.vfCvtE8m0 u rc f g src) := of_wf _
theorem vfCvtF32E8m0 (u : Bool) (rc : Rc) (g : Guard) (src : Src) : Statement (.vfCvtF32E8m0 u rc g src) := of_wf _
theorem vfCvt (u : Bool) (d s : CvtF) (sat : Bool) (r : CvtRnd) (g : Guard) (src : Src) : Statement (.vfCvt u d s sat r g src) := of_wf _
theorem vxExp2 (rc : Rc) (f : FpF) (g : Guard) (src : Src) : Statement (.vxExp2 rc f g src) := of_wf _
theorem vxLog2 (rc : Rc) (f : FpF) (g : Guard) (src : Src) : Statement (.vxLog2 rc f g src) := of_wf _
theorem vxRcp (rc : Rc) (f : FpF) (g : Guard) (src : Src) : Statement (.vxRcp rc f g src) := of_wf _
theorem vxRsqrt (rc : Rc) (f : FpF) (g : Guard) (src : Src) : Statement (.vxRsqrt rc f g src) := of_wf _
theorem vxDiv (rc : Rc) (f : FpF) (g : Guard) (src : Src) : Statement (.vxDiv rc f g src) := of_wf _
theorem vxSqrt (rc : Rc) (f : FpF) (g : Guard) (src : Src) : Statement (.vxSqrt rc f g src) := of_wf _
theorem vxSincos (rc : Rc) (f : FpF) (g : Guard) (src : Src) : Statement (.vxSincos rc f g src) := of_wf _
theorem fsAdd (rc : Rc) (f : FpF) (g : Guard) (src : Src) : Statement (.fsAdd rc f g src) := of_wf _
theorem fsSub (rc : Rc) (f : FpF) (g : Guard) (src : Src) : Statement (.fsSub rc f g src) := of_wf _
theorem fsMul (rc : Rc) (f : FpF) (g : Guard) (src : Src) : Statement (.fsMul rc f g src) := of_wf _
theorem fsFma (rc : Rc) (f : FpF) (g : Guard) (src : Src) : Statement (.fsFma rc f g src) := of_wf _
theorem fsMin (rc : Rc) (f : FpF) (g : Guard) (src : Src) : Statement (.fsMin rc f g src) := of_wf _
theorem fsMax (rc : Rc) (f : FpF) (g : Guard) (src : Src) : Statement (.fsMax rc f g src) := of_wf _
theorem fsFcmp (c : FsCond) (rc : Rc) (f : FpF) (g : Guard) (src : Src) : Statement (.fsFcmp c rc f g src) := of_wf _
theorem fsCvt (d s : CvtF) (sat : Bool) (r : CvtRnd) (g : Guard) (src : Src) : Statement (.fsCvt d s sat r g src) := of_wf _
theorem fdDiv (rc : Rc) (g : Guard) (src : Src) : Statement (.fdDiv rc g src) := of_wf _
theorem fdSqrt (rc : Rc) (g : Guard) (src : Src) : Statement (.fdSqrt rc g src) := of_wf _
theorem fdRsqrt (rc : Rc) (g : Guard) (src : Src) : Statement (.fdRsqrt rc g src) := of_wf _
theorem mxBld (m : BitVec 3) (g : Guard) (src : Src) : Statement (.mxBld m g src) := of_wf _
theorem mxBsw (m : BitVec 3) (g : Guard) (src : Src) : Statement (.mxBsw m g src) := of_wf _
theorem mxMma (m : BitVec 3) (z : Bool) (g : Guard) (src : Src) : Statement (.mxMma m z g src) := of_wf _
theorem mxMmt (m : BitVec 3) (z : Bool) (g : Guard) (src : Src) : Statement (.mxMmt m z g src) := of_wf _
theorem mxMcfg (m : BitVec 3) (g : Guard) (src : Src) : Statement (.mxMcfg m g src) := of_wf _
theorem mxMad (m : BitVec 3) (z : Bool) (g : Guard) (src : Src) : Statement (.mxMad m z g src) := of_wf _
theorem kvKvk (d : KvD) (g : Guard) (src : Src) : Statement (.kvKvk d g src) := of_wf _
theorem kvKvv (d : KvD) (g : Guard) (src : Src) : Statement (.kvKvv d g src) := of_wf _
theorem kvKvap (g : Guard) (src : Src) : Statement (.kvKvap g src) := of_wf _
theorem kvKvfrq (n : BitVec 2) (g : Guard) (src : Src) : Statement (.kvKvfrq n g src) := of_wf _
theorem pxCsc (n : BitVec 2) (g : Guard) (src : Src) : Statement (.pxCsc n g src) := of_wf _
theorem pxPack (p10 : Bool) (g : Guard) (src : Src) : Statement (.pxPack p10 g src) := of_wf _
theorem gmLd (u : Bool) (z : GmZ) (g : Guard) (src : Src) : Statement (.gmLd u z g src) := of_wf _
theorem gmLdS (u : Bool) (z : GmZ) (g : Guard) (src : Src) : Statement (.gmLdS u z g src) := of_wf _
theorem gmSt (u : Bool) (z : GmZ) (g : Guard) (src : Src) : Statement (.gmSt u z g src) := of_wf _
theorem gmPref (u : Bool) (g : Guard) (src : Src) : Statement (.gmPref u g src) := of_wf _
theorem gmStSm (u : Bool) (z : GmS) (g : Guard) (src : Src) : Statement (.gmStSm u z g src) := of_wf _
theorem gmLdSm (u : Bool) (z : GmS) (g : Guard) (src : Src) : Statement (.gmLdSm u z g src) := of_wf _
theorem gmLdSmS (u : Bool) (z : GmS) (g : Guard) (src : Src) : Statement (.gmLdSmS u z g src) := of_wf _
theorem gmAmoAdd (u : Bool) (w32 : Bool) (g : Guard) (src : Src) : Statement (.gmAmoAdd u w32 g src) := of_wf _
theorem gmAmoAnd (u : Bool) (w32 : Bool) (g : Guard) (src : Src) : Statement (.gmAmoAnd u w32 g src) := of_wf _
theorem gmAmoOr (u : Bool) (w32 : Bool) (g : Guard) (src : Src) : Statement (.gmAmoOr u w32 g src) := of_wf _
theorem gmAmoXor (u : Bool) (w32 : Bool) (g : Guard) (src : Src) : Statement (.gmAmoXor u w32 g src) := of_wf _
theorem gmAmoMin (u : Bool) (w32 : Bool) (g : Guard) (src : Src) : Statement (.gmAmoMin u w32 g src) := of_wf _
theorem gmAmoMax (u : Bool) (w32 : Bool) (g : Guard) (src : Src) : Statement (.gmAmoMax u w32 g src) := of_wf _
theorem gmAmoMinu (u : Bool) (w32 : Bool) (g : Guard) (src : Src) : Statement (.gmAmoMinu u w32 g src) := of_wf _
theorem gmAmoMaxu (u : Bool) (w32 : Bool) (g : Guard) (src : Src) : Statement (.gmAmoMaxu u w32 g src) := of_wf _
theorem gmAmoSwap (u : Bool) (w32 : Bool) (g : Guard) (src : Src) : Statement (.gmAmoSwap u w32 g src) := of_wf _
theorem gmAmoCas (u : Bool) (w32 : Bool) (g : Guard) (src : Src) : Statement (.gmAmoCas u w32 g src) := of_wf _
theorem gmAmoFadd (u : Bool) (g : Guard) (src : Src) : Statement (.gmAmoFadd u g src) := of_wf _
theorem gmAmoNib (u : Bool) (g : Guard) (src : Src) : Statement (.gmAmoNib u g src) := of_wf _
theorem rwWalk (g : Guard) (src : Src) : Statement (.rwWalk g src) := of_wf _
theorem rwWalkp (g : Guard) (src : Src) : Statement (.rwWalkp g src) := of_wf _
theorem tgLook (g : Guard) (src : Src) : Statement (.tgLook g src) := of_wf _
theorem tgPin (g : Guard) (src : Src) : Statement (.tgPin g src) := of_wf _
theorem tgUnpin (g : Guard) (src : Src) : Statement (.tgUnpin g src) := of_wf _
theorem tgInval (g : Guard) (src : Src) : Statement (.tgInval g src) := of_wf _
theorem tgSetag (g : Guard) (src : Src) : Statement (.tgSetag g src) := of_wf _
theorem hamperCopy1d (c : CmdFields) : Statement (.hamperCopy1d c) := of_wf _
theorem hamperCopy2d (c : CmdFields) : Statement (.hamperCopy2d c) := of_wf _
theorem hamperCopy3d (c : CmdFields) : Statement (.hamperCopy3d c) := of_wf _
theorem hamperCopyf1d (c : CmdFields) : Statement (.hamperCopyf1d c) := of_wf _
theorem hamperCopyf2d (c : CmdFields) : Statement (.hamperCopyf2d c) := of_wf _
theorem hamperCopyf3d (c : CmdFields) : Statement (.hamperCopyf3d c) := of_wf _
theorem gatherGath (c : CmdFields) : Statement (.gatherGath c) := of_wf _
theorem gatherScat (c : CmdFields) : Statement (.gatherScat c) := of_wf _
theorem collCred (c : CmdFields) : Statement (.collCred c) := of_wf _
theorem collCbc (c : CmdFields) : Statement (.collCbc c) := of_wf _
theorem mqueueMq (c : CmdFields) : Statement (.mqueueMq c) := of_wf _
theorem walkerAwalk (c : CmdFields) : Statement (.walkerAwalk c) := of_wf _
theorem codecEnc (c : CmdFields) : Statement (.codecEnc c) := of_wf _
theorem codecDec (c : CmdFields) : Statement (.codecDec c) := of_wf _
theorem tagFill (c : CmdFields) : Statement (.tagFill c) := of_wf _
theorem tagEvict (c : CmdFields) : Statement (.tagEvict c) := of_wf _
theorem tagWback (c : CmdFields) : Statement (.tagWback c) := of_wf _
theorem eventPost (c : CmdFields) : Statement (.eventPost c) := of_wf _
theorem engineOpStart (k eng : Nat) : Statement (.engineOpStart k eng) := of_wf _
theorem engineOpComplete (k id : Nat) : Statement (.engineOpComplete k id) := of_wf _
theorem copyfFollowOn (k id : Nat) : Statement (.copyfFollowOn k id) := of_wf _
theorem mqSourcesReleased (k id : Nat) : Statement (.mqSourcesReleased k id) := of_wf _
theorem semaWrite (n : BitVec 8) (g : Guard) (src : Src) : Statement (.semaWrite n g src) := of_wf _
theorem viewWrite (v : BitVec 3) (g : Guard) (src : Src) : Statement (.viewWrite v g src) := of_wf _
theorem fpcsrWrite (g : Guard) (src : Src) : Statement (.fpcsrWrite g src) := of_wf _
theorem ctrlRegWrite (i : BitVec 12) (g : Guard) (src : Src) : Statement (.ctrlRegWrite i g src) := of_wf _
theorem jobEnd (k : Nat) : Statement (.jobEnd k) := of_wf _
theorem rucksackWrite (k : Nat) : Statement (.rucksackWrite k) := of_wf _
theorem hardPreempt (k : Nat) : Statement (.hardPreempt k) := of_wf _
theorem memRecordPosted (src : Nat) : Statement (.memRecordPosted src) := of_wf _
theorem heldRequestsProceed (home : Nat) : Statement (.heldRequestsProceed home) := of_wf _
theorem sqNop (n : Nat) : Statement (.sqNop n) := of_wf _
theorem sqInvoke (n : Nat) : Statement (.sqInvoke n) := of_wf _
theorem sqSopen (n : Nat) : Statement (.sqSopen n) := of_wf _
theorem sqSclose (n : Nat) : Statement (.sqSclose n) := of_wf _
theorem sqSupdate (n : Nat) : Statement (.sqSupdate n) := of_wf _
theorem sqFence (n : Nat) : Statement (.sqFence n) := of_wf _
theorem frameRelease (stream : Nat) : Statement (.frameRelease stream) := of_wf _
theorem stepBoundary (graph node : Nat) : Statement (.stepBoundary graph node) := of_wf _
theorem msixCoalesceTimeout (v : Nat) : Statement (.msixCoalesceTimeout v) := of_wf _
theorem probeTokenSend (party : Party) : Statement (.probeTokenSend party) := of_wf _
theorem probeTokenReturn (id : Nat) : Statement (.probeTokenReturn id) := of_wf _
theorem storePerformed (k p : Nat) : Statement (.storePerformed k p) := of_wf _
theorem spillAccessComplete (k p : Nat) : Statement (.spillAccessComplete k p) := of_wf _
theorem jobLaunchComplete (k : Nat) : Statement (.jobLaunchComplete k) := of_wf _
theorem parityReloadDone (k p : Nat) : Statement (.parityReloadDone k p) := of_wf _
theorem nop : Statement (.nop) := of_wf _
theorem patchApplyPatch : Statement (.patchApplyPatch) := of_wf _
theorem patchApplyReissue : Statement (.patchApplyReissue) := of_wf _
theorem patchApplyRestart : Statement (.patchApplyRestart) := of_wf _
theorem patchApplyEndJob : Statement (.patchApplyEndJob) := of_wf _
theorem dispatchTurn : Statement (.dispatchTurn) := of_wf _
theorem budgetRefill : Statement (.budgetRefill) := of_wf _
theorem sratioSample : Statement (.sratioSample) := of_wf _
theorem reset : Statement (.reset) := of_wf _
theorem powerControllerRequestDone : Statement (.powerControllerRequestDone) := of_wf _
theorem preemptRequest (k : Nat) : Statement (.preemptRequest k) := of_wf _
theorem eccCorrectable (e : EccSite) : Statement (.eccCorrectable e) := of_wf _
theorem eccUncorrectable (e : EccSite) : Statement (.eccUncorrectable e) := of_wf _
theorem homeRequest (r : HomeReq) : Statement (.homeRequest r) := of_wf _
theorem homeInvalidate (home : Nat) (iapg : Option (BitVec 36)) : Statement (.homeInvalidate home iapg) := of_wf _
theorem hostPeerRead (port : Nat) (a : PcieAddr) (len tag : Nat) : Statement (.hostPeerRead port a len tag) := of_wf _
theorem hostPeerWrite (port : Nat) (a : PcieAddr) (data : List (BitVec 8)) : Statement (.hostPeerWrite port a data) := of_wf _
theorem sqDoorbell (n : Nat) (tail : BitVec 32) : Statement (.sqDoorbell n tail) := of_wf _
theorem msixCoalesceWrite (v : Nat) (x : BitVec 64) : Statement (.msixCoalesceWrite v x) := of_wf _
theorem cpreqWrite (c : Nat) (x : BitVec 64) : Statement (.cpreqWrite c x) := of_wf _
theorem vminWrite (x : BitVec 64) : Statement (.vminWrite x) := of_wf _
theorem sensorRead (c i : Nat) (raw : BitVec 16) : Statement (.sensorRead c i raw) := of_wf _
theorem flitReplay (port : Nat) : Statement (.flitReplay port) := of_wf _
theorem laneFault (port : Nat) (maxw : BitVec 3) : Statement (.laneFault port maxw) := of_wf _
theorem l0pWidthChange (port : Nat) (width : BitVec 3) : Statement (.l0pWidthChange port width) := of_wf _
theorem ideIntegrityFail (port strm : Nat) : Statement (.ideIntegrityFail port strm) := of_wf _
theorem ideKm (port strm : Nat) (aes256gcm : Bool) : Statement (.ideKm port strm aes256gcm) := of_wf _
theorem linkDown (port : Nat) : Statement (.linkDown port) := of_wf _
theorem portReset (port : Nat) : Statement (.portReset port) := of_wf _
theorem getMeasurements (path : MeasPath) (index : Nat) : Statement (.getMeasurements path index) := of_wf _
theorem doeRequest (port : Nat) (q : DoeReq) : Statement (.doeRequest port q) := of_wf _
theorem codecEngineFailure (c : Nat) : Statement (.codecEngineFailure c) := of_wf _
theorem boardControllerTelemetry (power current coolant : Nat) : Statement (.boardControllerTelemetry power current coolant) := of_wf _
theorem msixVectorUnmask (v : Nat) : Statement (.msixVectorUnmask v) := of_wf _
theorem sqstatWrite (n : Nat) (x : BitVec 64) : Statement (.sqstatWrite n x) := of_wf _
theorem sriovNumvfsWrite (m : Nat) : Statement (.sriovNumvfsWrite m) := of_wf _
theorem homeRegisterWrite (home : Nat) (w : HomeRegWrite) : Statement (.homeRegisterWrite home w) := of_wf _

end Sys2Proof.Laws.Encoding
end

