-- ==== Sys2Proof/Tests/Slice0.lean ====
section
/-! SUPPORT. Tests: ill-formed terms that the checks refuse, words written out from the encodings of the spec,
witnesses that the premises of the statements can be met, and single steps. -/

namespace Sys2Proof.Tests

open Sys2Proof Sys2Proof.Machine

set_option Elab.async false

/-! ### Kinds of partition -/

def ctl : Ctx := ⟨.ctl, false, false⟩
def vec : Ctx := ⟨.vec, false, false⟩
def mat : Ctx := ⟨.mat, false, false⟩
def mem : Ctx := ⟨.mem, false, false⟩
def fvec : Ctx := ⟨.vec, true, false⟩
def fmat : Ctx := ⟨.mat, true, false⟩
def fmem : Ctx := ⟨.mem, true, false⟩
def fwCtl : Ctx := ⟨.ctl, false, true⟩
def p0 : Guard := ⟨0, false⟩
def i5 : Src := .imm 5

/-! ### Ill-formed terms -/

/-- R154, R364: a unit that the partition does not have, or a port or latch that the unit does not have. -/
theorem illformed_units :
    ([⟨.mm ⟨p0, i5, .port .va0 .o1⟩ Move.empty, none⟩, ⟨.mm ⟨p0, i5, .trig (.gmPref false)⟩ Move.empty, none⟩,
      ⟨.mm ⟨p0, i5, .port .br .o2⟩ Move.empty, none⟩, ⟨.mm ⟨p0, i5, .port .ks0 .o3⟩ Move.empty, none⟩,
      ⟨.mm ⟨p0, .latch .br .res 0, .sink⟩ Move.empty, none⟩, ⟨.mm ⟨p0, .latch .ix0 .flag 0, .sink⟩ Move.empty, none⟩,
      ⟨.mm ⟨p0, .latch .imd .res1 0, .sink⟩ Move.empty, none⟩, ⟨.mm ⟨p0, .latch .ix0 .res 1, .sink⟩ Move.empty, none⟩,
      ⟨.mm ⟨p0, i5, .trig (.pxCsc 0)⟩ Move.empty, none⟩] : List Group).all (fun g => !g.wf ctl) = true := by decide

/-- R161, R226: macros 2 to 7 and px of another kind of core. -/
theorem illformed_macros :
    (oneMove p0 i5 (.trig (.mxBld 2))).wf fmat = false ∧ (oneMove p0 (.latch .mx .res 2) .sink).wf fmat = false ∧
      (oneMove p0 i5 (.trig (.mxBld 7))).wf mat = true ∧ (oneMove p0 i5 (.trig (.pxCsc 0))).wf mat = false ∧
      (oneMove p0 i5 (.trig (.pxCsc 0))).wf fmat = true := by decide

/-- R74, R367: handoff ports that a partition may not push or pop. -/
theorem illformed_queues :
    ([(ctl, oneMove p0 i5 (.hq 0)), (mat, oneMove p0 i5 (.hq 0)), (vec, oneMove p0 i5 (.hq 2)), (fvec, oneMove p0 i5 (.hq 0)),
      (fmem, oneMove p0 i5 (.hq 13)), (mem, oneMove p0 i5 (.hq 2)), (vec, oneMove p0 (.hq 0) .sink), (fvec, oneMove p0 (.hq 14) .sink),
      (ctl, oneMove p0 (.hq 0) .sink)] : List (Ctx × Group)).all (fun x => !x.2.wf x.1) = true ∧
    ([(vec, oneMove p0 i5 (.hq 1)), (mem, oneMove p0 i5 (.hq 0)), (fmem, oneMove p0 i5 (.hq 14)), (fvec, oneMove p0 (.hq 13) .sink),
      (fmem, oneMove p0 (.hq 0) .sink)] : List (Ctx × Group)).all (fun x => x.2.wf x.1) = true := by decide

/-- R156 to R159: operations reserved for a modifier, a pair of formats or a partition. -/
theorem illformed_triggers :
    ([(ctl, .ix false .bswap .b), (vec, .vp .pack .d), (vec, .vfCvt false .f32 .f32 false .csr),
      (vec, .fsCvt .int32 .uint32 false .csr), (vec, .vfCvt true .uint32 .int32 true .rne), (vec, .brBkt), (mem, .brBkt)] :
      List (Ctx × Trigger)).all (fun x => !x.2.wf x.1) = true := by decide

/-- R143: an exchange into a partition above 11. -/
theorem illformed_exchange : (oneMove p0 i5 (.xo 12 0)).wf ctl = false ∧ (oneMove p0 i5 (.xo 11 7)).wf ctl = true := by decide

/-- R148 to R150, R356: commands where they may not stand, blocks out of range or not read, immediates that are not zero. -/
theorem illformed_commands :
    let f (cb : BitVec 11) (im : BitVec 32) : CmdFields := ⟨p0, 0, 0, 0, 0, cb, im⟩
    cmdWf mem .enc (f 0 0) = false ∧ cmdWf fmat .dec (f 0 0) = false ∧ cmdWf ctl .patch (f 0 0) = false ∧
      cmdWf fwCtl .patch (f 0 0) = true ∧ cmdWf mem (.copy 0) (f 1536 0) = false ∧ cmdWf mem (.copy 0) (f 1535 0) = true ∧
      cmdWf mem .post (f 1 0) = false ∧ cmdWf mem .evict (f 1 0) = false ∧ cmdWf mem .fill (f 1 8192) = false ∧
      cmdWf mem .wback (f 0 8191) = true ∧ cmdWf mem .gath (f 0 1) = false := by decide

/-- R139, R151, R152, R371: groups, IDLE counts and headers that are reserved. -/
theorem illformed_groups :
    let w : WordF := .mm ⟨p0, i5, .trig (.ix false .add .w)⟩ Move.empty
    let cmd : WordF := .mc .post ⟨p0, 0, 0, 0, 0, 0, 0⟩
    Group.wf ctl ⟨.idle 0, none⟩ = false ∧ Group.wf ctl ⟨.idle 1, some w⟩ = false ∧ Group.wf ctl ⟨w, some (.idle 1)⟩ = false ∧
      Group.wf ctl ⟨cmd, some cmd⟩ = false ∧ Group.wf ctl ⟨w, some w⟩ = false ∧
      Group.wf ctl ⟨.mm ⟨p0, i5, .trig (.ix false .add .w)⟩ ⟨p0, i5, .trig (.ix false .sub .w)⟩, none⟩ = false ∧
      Group.wf mat ⟨.mm ⟨p0, i5, .trig (.mxBsw 0)⟩ ⟨p0, i5, .trig (.mxBsw 1)⟩, none⟩ = true ∧
      Instr.wf ctl (.sectionHeader 0 0 0) = false ∧ Instr.wf ctl (.mmWord (oneMove p0 i5 (.trig (.ix false .add .w)))) = false ∧
      Instr.wf ctl (.jobEnd 0) = false := by decide

/-- R138 to R162: parcels that are reserved, refused by name: the format, a bit that is zero, PAIR of an IDLE, the kinds
of destination and source, a port, a latch, a unit, an opcode, RC 5, F 3, a command, and LEN 0. -/
theorem refused_words :
    ([([0, 0, 0x80000000], .format), ([0, 0, 0x60000000], .idleCount), ([1, 0, 0x60010000], .zeroBits), ([0, 0, 0x70010000], .pairIdle),
      ([0x00600000, 0x000142F8, 0x002A0018], .destKind), ([0x00600000, 0x000142F8, 0x00418018], .port),
      ([0x00600000, 0x800002F8, 0x003E0013], .sourceKind), ([0x00600000, 0x000002F8, 0x003E0008], .latch),
      ([0x00600000, 0x000142F8, 0x00680018], .unit), ([0x00600000, 0x000142F8, 0x00600318], .opcode),
      ([0x00600000, 0x000142F8, 0x0061A298], .opcode), ([0, 0x00038000, 0x40000000], .command), ([0, 0], .header)] :
      List (List (BitVec 32) × DecodeErr)).all (fun x => decide (decodeParcels ctl x.1 = .error x.2)) = true := by decide

/-! ### Words of every family -/

/-- The word of one move of the immediate 5 under p0, whose highest parcel is given, decodes to the instruction: its
lower parcels hold 5 in bits 63 to 46 and an empty move, one that !p0 guards into the sink (R141, R144, R163). -/
def reads (c : Ctx) (l : List (BitVec 32 × Instr)) : Bool :=
  l.all fun r => decide (decodeParcels c [0x00600000, 0x000142F8, r.1] = .ok r.2)

/-- R156: the triggers of br, lp and sy. -/
theorem words_control : reads ctl
    [(0x00600038, .brTgt 1 p0 i5),
     (0x006000D8, .brJmp 2 p0 i5),
     (0x00600178, .brCall 3 p0 i5),
     (0x00600198, .brRet p0 i5),
     (0x00600218, .brBkt p0 i5),
     (0x00600298, .brTrap p0 i5),
     (0x00608018, .lpLoop p0 i5),
     (0x00608098, .lpLbrk p0 i5),
     (0x00608118, .lpLrd .iter p0 i5),
     (0x00608138, .lpLrd .rem p0 i5),
     (0x00608158, .lpLrd .stg p0 i5),
     (0x00610018, .sySemw p0 i5),
     (0x00610098, .sySema p0 i5),
     (0x00610118, .sySemr p0 i5),
     (0x00610198, .syJoin p0 i5),
     (0x00610298, .syLock p0 i5),
     (0x00610318, .syUnlock p0 i5),
     (0x00610398, .syRgn p0 i5),
     (0x00610418, .syMarkPrt p0 i5),
     (0x00610498, .syMarkCore p0 i5),
     (0x00610518, .syMarkClu p0 i5),
     (0x00610598, .syMarkDev p0 i5),
     (0x00610618, .syMarkSys p0 i5),
     (0x00610818, .syRah p0 i5),
     (0x00610898, .syChk p0 i5),
     (0x00610918, .syEvt p0 i5)] = true := by decide

/-- R157: the triggers of ix0 and ix1. -/
theorem words_ix : reads ctl
    [(0x00618018, .ixAdd false .d p0 i5),
     (0x006200B8, .ixSub true .w p0 i5),
     (0x00618158, .ixAnd false .h p0 i5),
     (0x006201F8, .ixOr true .b p0 i5),
     (0x00618218, .ixXor false .d p0 i5),
     (0x006202B8, .ixAndn true .w p0 i5),
     (0x00618358, .ixShl false .h p0 i5),
     (0x006203F8, .ixShr true .b p0 i5),
     (0x00618418, .ixSar false .d p0 i5),
     (0x006204B8, .ixRol true .w p0 i5),
     (0x00618558, .ixMin false .h p0 i5),
     (0x006205F8, .ixMax true .b p0 i5),
     (0x00618618, .ixMinu false .d p0 i5),
     (0x006206B8, .ixMaxu true .w p0 i5),
     (0x00618758, .ixClz false .h p0 i5),
     (0x006207F8, .ixCtz true .b p0 i5),
     (0x00618818, .ixPopc false .d p0 i5),
     (0x006208D8, .ixBswap true .h p0 i5),
     (0x00618958, .ixBext false .h p0 i5),
     (0x006209F8, .ixBins true .b p0 i5),
     (0x00618A18, .ixSel false .d p0 i5),
     (0x00620AB8, .ixMov true .w p0 i5)] = true := by decide

/-- R157: the triggers of cmp, imd, ks0 and ks1. -/
theorem words_scalar : reads mem
    [(0x00628018, .cmpCond .eq .d p0 i5),
     (0x006280B8, .cmpCond .ne .w p0 i5),
     (0x00628158, .cmpCond .lt .h p0 i5),
     (0x006281F8, .cmpCond .le .b p0 i5),
     (0x00628218, .cmpCond .gt .d p0 i5),
     (0x006282B8, .cmpCond .ge .w p0 i5),
     (0x00628358, .cmpCond .ltu .h p0 i5),
     (0x006283F8, .cmpCond .leu .b p0 i5),
     (0x00628418, .cmpCond .gtu .d p0 i5),
     (0x006284B8, .cmpCond .geu .w p0 i5),
     (0x00628818, .cmpPand p0 i5),
     (0x00628898, .cmpPor p0 i5),
     (0x00628918, .cmpPxor p0 i5),
     (0x00628998, .cmpPandn p0 i5),
     (0x00630018, .imdMul false p0 i5),
     (0x006300B8, .imdMulh true p0 i5),
     (0x00630118, .imdMulhu false p0 i5),
     (0x00630218, .imdDiv false p0 i5),
     (0x006302B8, .imdDivu true p0 i5),
     (0x00630318, .imdRem false p0 i5),
     (0x006303B8, .imdRemu true p0 i5),
     (0x00638018, .ksLd false p0 i5),
     (0x00640098, .ksSt true p0 i5),
     (0x00638178, .ksLdx false .b p0 i5),
     (0x006401D8, .ksStx true .h p0 i5),
     (0x00638238, .ksLdb false .w p0 i5)] = true := by decide

/-- R158: the triggers of va0 and va1. -/
theorem words_va : reads vec
    [(0x00680018, .vaAdd false .d p0 i5),
     (0x006880B8, .vaSub true .w p0 i5),
     (0x00680158, .vaMul false .h p0 i5),
     (0x006881F8, .vaMulh true .b p0 i5),
     (0x00680218, .vaAnd false .d p0 i5),
     (0x006882B8, .vaOr true .w p0 i5),
     (0x00680358, .vaXor false .h p0 i5),
     (0x006883F8, .vaAndn true .b p0 i5),
     (0x00680418, .vaShl false .d p0 i5),
     (0x006884B8, .vaShr true .w p0 i5),
     (0x00680558, .vaSar false .h p0 i5),
     (0x006885F8, .vaMin true .b p0 i5),
     (0x00680618, .vaMax false .d p0 i5),
     (0x006886B8, .vaMinu true .w p0 i5),
     (0x00680758, .vaMaxu false .h p0 i5),
     (0x006887F8, .vaAbs true .b p0 i5),
     (0x00680818, .vaSel false .d p0 i5),
     (0x006888B8, .vaPopc true .w p0 i5),
     (0x00680958, .vaClz false .h p0 i5),
     (0x006889F8, .vaAdds true .b p0 i5),
     (0x00680A18, .vaSubs false .d p0 i5)] = true := by decide

/-- R158: the triggers of vp and vc. -/
theorem words_vp_vc : reads vec
    [(0x006A8058, .vpPerm .h p0 i5),
     (0x006A80F8, .vpBcast .b p0 i5),
     (0x006A8118, .vpRot .d p0 i5),
     (0x006A81B8, .vpPack .w p0 i5),
     (0x006A8258, .vpUnpk .h p0 i5),
     (0x006A82F8, .vpCmprs .b p0 i5),
     (0x006A8418, .vpRedadd .d p0 i5),
     (0x006A84B8, .vpRedmax .w p0 i5),
     (0x006A8558, .vpRedmin .h p0 i5),
     (0x006A85F8, .vpScan .b p0 i5),
     (0x006A8618, .vpXscan .d p0 i5),
     (0x006A8698, .vpFredadd .f32 p0 i5),
     (0x006A8738, .vpFredmax .f16 p0 i5),
     (0x006A87D8, .vpFredmin .bf16 p0 i5),
     (0x006A8838, .vpClmul true p0 i5),
     (0x006B0018, .vcCmp .eq .d p0 i5),
     (0x006B00B8, .vcCmp .ne .w p0 i5),
     (0x006B0158, .vcCmp .lt .h p0 i5),
     (0x006B01F8, .vcCmp .le .b p0 i5),
     (0x006B0218, .vcCmp .gt .d p0 i5),
     (0x006B02B8, .vcCmp .ge .w p0 i5),
     (0x006B0358, .vcCmp .ltu .h p0 i5),
     (0x006B03F8, .vcCmp .leu .b p0 i5),
     (0x006B0418, .vcCmp .gtu .d p0 i5),
     (0x006B04B8, .vcCmp .geu .w p0 i5),
     (0x006B0818, .vcFcmp .eq .f32 p0 i5),
     (0x006B08B8, .vcFcmp .ne .f16 p0 i5),
     (0x006B0958, .vcFcmp .lt .bf16 p0 i5),
     (0x006B0998, .vcFcmp .le .f32 p0 i5),
     (0x006B0A38, .vcFcmp .gt .f16 p0 i5),
     (0x006B0AD8, .vcFcmp .ge .bf16 p0 i5),
     (0x006B0B18, .vcFcmp .un .f32 p0 i5),
     (0x006B1018, .vcAny p0 i5),
     (0x006B1098, .vcAll p0 i5),
     (0x006B1118, .vcCnt p0 i5),
     (0x006B11D8, .vcClass .bf16 p0 i5)] = true := by decide

/-- R159, R160: the triggers of vf0, vf1, vx, fs and fd. -/
theorem words_float : reads vec
    [(0x00690018, .vfAdd false .csr .f32 p0 i5),
     (0x006988B8, .vfSub true .rne .f16 p0 i5),
     (0x00691158, .vfMul false .rtz .bf16 p0 i5),
     (0x00699998, .vfFma true .rdn .f32 p0 i5),
     (0x00692238, .vfNma false .rup .f16 p0 i5),
     (0x006982D8, .vfMin true .csr .bf16 p0 i5),
     (0x00690B18, .vfMax false .rne .f32 p0 i5),
     (0x006993B8, .vfAbs true .rtz .f16 p0 i5),
     (0x00691C58, .vfNeg false .rdn .bf16 p0 i5),
     (0x0069A498, .vfRnd true .rup .f32 p0 i5),
     (0x00691538, .vfCvtE8m0 false .rtz .f16 p0 i5),
     (0x0069A598, .vfCvtF32E8m0 true .rup p0 i5),
     (0x006962F8, .vfCvt false .e5m2 .bf16 true .rdn p0 i5),
     (0x0069F058, .vfCvt true .int32 .f32 false .rtz p0 i5),
     (0x006A0018, .vxExp2 .csr .f32 p0 i5),
     (0x006A08B8, .vxLog2 .rne .f16 p0 i5),
     (0x006A1158, .vxRcp .rtz .bf16 p0 i5),
     (0x006A1998, .vxRsqrt .rdn .f32 p0 i5),
     (0x006A2238, .vxDiv .rup .f16 p0 i5),
     (0x006A02D8, .vxSqrt .csr .bf16 p0 i5),
     (0x006A0B18, .vxSincos .rne .f32 p0 i5),
     (0x006B8018, .fsAdd .csr .f32 p0 i5),
     (0x006B88B8, .fsSub .rne .f16 p0 i5),
     (0x006B9158, .fsMul .rtz .bf16 p0 i5),
     (0x006B9998, .fsFma .rdn .f32 p0 i5),
     (0x006BA238, .fsMin .rup .f16 p0 i5),
     (0x006B82D8, .fsMax .csr .bf16 p0 i5),
     (0x006B8418, .fsFcmp .eq .csr .f32 p0 i5),
     (0x006B8CB8, .fsFcmp .lt .rne .f16 p0 i5),
     (0x006B9558, .fsFcmp .le .rtz .bf16 p0 i5),
     (0x006B9D98, .fsFcmp .un .rdn .f32 p0 i5),
     (0x006BF998, .fsCvt .uint32 .f16 true .csr p0 i5),
     (0x006C1018, .fdDiv .rtz p0 i5),
     (0x006C1898, .fdSqrt .rdn p0 i5),
     (0x006C2118, .fdRsqrt .rup p0 i5)] = true := by decide

/-- R154, R161: the triggers of a matrix partition. -/
theorem words_mat : reads mat
    [(0x00682018, .mxBld 2 p0 i5),
     (0x00683098, .mxBsw 3 p0 i5),
     (0x00684118, .mxMma 4 false p0 i5),
     (0x006851B8, .mxMmt 5 true p0 i5),
     (0x00686218, .mxMcfg 6 p0 i5),
     (0x006872B8, .mxMad 7 true p0 i5),
     (0x00688018, .kvKvk .e4m3 p0 i5),
     (0x006880D8, .kvKvv .f32 p0 i5),
     (0x00688118, .kvKvap p0 i5),
     (0x006881F8, .kvKvfrq 3 p0 i5),
     (0x00690038, .vaAdd false .w p0 i5),
     (0x00698818, .vfAdd false .rne .f32 p0 i5),
     (0x006A01B8, .vcCmp .le .w p0 i5),
     (0x006A8A38, .vxDiv .rne .f16 p0 i5)] = true := by decide

/-- R154, R161: the triggers of px. -/
theorem words_fmat : reads fmat
    [(0x006B0058, .pxCsc 2 p0 i5),
     (0x006B00B8, .pxPack true p0 i5),
     (0x00681218, .mxMcfg 1 p0 i5)] = true := by decide

/-- R162: the triggers of gm0, gm1, rw and tg. -/
theorem words_mem : reads mem
    [(0x00680018, .gmLd false .w p0 i5),
     (0x006880D8, .gmLdS true .q p0 i5),
     (0x00680178, .gmSt false .l p0 i5),
     (0x00688198, .gmPref true p0 i5),
     (0x00680238, .gmStSm false .b p0 i5),
     (0x006882D8, .gmLdSm true .h p0 i5),
     (0x00680318, .gmLdSmS false .n p0 i5),
     (0x00680838, .gmAmoAdd false false p0 i5),
     (0x006888B8, .gmAmoAnd true false p0 i5),
     (0x00680918, .gmAmoOr false true p0 i5),
     (0x00688998, .gmAmoXor true true p0 i5),
     (0x00680A38, .gmAmoMin false false p0 i5),
     (0x00688AB8, .gmAmoMax true false p0 i5),
     (0x00680B18, .gmAmoMinu false true p0 i5),
     (0x00688B98, .gmAmoMaxu true true p0 i5),
     (0x00680C38, .gmAmoSwap false false p0 i5),
     (0x00688CB8, .gmAmoCas true false p0 i5),
     (0x00680D18, .gmAmoFadd false p0 i5),
     (0x00688D98, .gmAmoNib true p0 i5),
     (0x00690018, .rwWalk p0 i5),
     (0x00690098, .rwWalkp p0 i5),
     (0x00698018, .tgLook p0 i5),
     (0x00698098, .tgPin p0 i5),
     (0x00698118, .tgUnpin p0 i5),
     (0x00698198, .tgInval p0 i5),
     (0x00698218, .tgSetag p0 i5)] = true := by decide

/-- R69, R80, R143: the writes of control registers. -/
theorem words_creg : reads ctl
    [(0x002800F8, .semaWrite 7 p0 i5),
     (0x00281FF8, .semaWrite 255 p0 i5),
     (0x00282078, .viewWrite 3 p0 i5),
     (0x002821D8, .fpcsrWrite p0 i5),
     (0x00282158, .ctrlRegWrite 0x10A p0 i5),
     (0x00284018, .ctrlRegWrite 0x200 p0 i5)] = true := by decide

/-- R147 to R150: the commands, in the mem partition of an F-core. -/
theorem words_commands :
    let f (cb : BitVec 11) (im : BitVec 32) : CmdFields := ⟨⟨1, false⟩, 3, 4, 5, 6, cb, im⟩
    ([([0x00000000, 0x02B00007, 0x41018002], .hamperCopy1d (f 7 0)),
      ([0x00000000, 0x02B00807, 0x41018002], .hamperCopy2d (f 7 0)),
      ([0x00000000, 0x02B01007, 0x41018002], .hamperCopy3d (f 7 0)),
      ([0x00000000, 0x02B02007, 0x41018002], .hamperCopyf1d (f 7 0)),
      ([0x00000000, 0x02B02807, 0x41018002], .hamperCopyf2d (f 7 0)),
      ([0x00000000, 0x02B03007, 0x41018002], .hamperCopyf3d (f 7 0)),
      ([0x00000000, 0x02B08007, 0x41018002], .gatherGath (f 7 0)),
      ([0x00000000, 0x02B08807, 0x41018002], .gatherScat (f 7 0)),
      ([0x00000000, 0x02B10007, 0x41018002], .collCred (f 7 0)),
      ([0x00000000, 0x02B10807, 0x41018002], .collCbc (f 7 0)),
      ([0x00000000, 0x02B18007, 0x41018002], .mqueueMq (f 7 0)),
      ([0x00000000, 0x02B205FF, 0x41018002], .walkerAwalk (f 1535 0)),
      ([0x00000000, 0x02B28007, 0x41018002], .codecEnc (f 7 0)),
      ([0x00000000, 0x02B30007, 0x41018002], .codecDec (f 7 0)),
      ([0x00001FFF, 0x02B40007, 0x41018002], .tagFill (f 7 8191)),
      ([0x00000003, 0x02B40800, 0x41018002], .tagEvict (f 0 3)),
      ([0x00000004, 0x02B41000, 0x41018002], .tagWback (f 0 4)),
      ([0xDEADBEEF, 0x02B48000, 0x41018002], .eventPost (f 0 3735928559))] : List (List (BitVec 32) × Instr)).all
      (fun r => decide (decodeParcels fmem r.1 = .ok r.2)) = true := by decide

/-- R217, R219, R223: the trigger values that the text gives: gm0.ld.l 0x3_4003, gm1.st.sm.n 0x3_4410, gm0.amo.cas.d
0x3_4065. -/
theorem words_of_text :
    let at' (x : BitVec 18) : BitVec 32 := x.setWidth 32 <<< 5 ||| 0x18
    reads mem [(at' 0x34003, .gmLd false .l p0 i5), (at' 0x34410, .gmStSm true .n p0 i5),
      (at' 0x34065, .gmAmoCas false false p0 i5)] = true := by decide

/-- R139, R146, R151 to R153, R168: a header, an ML word, an IDLE word, an empty word, a move of two, and a pair. -/
theorem words_formats :
    decodeParcels mat [0x00000200, 0x14004000] = .ok (.sectionHeader 40 4 0x200) ∧
    decodeParcels vec [0x3F000000, 0x3F000000, 0x20492000] = .ok (.mlWord p0 (.port .vf0 .o1) 0x3F0000003F000000) ∧
    decodeParcels vec [0, 0, 0x60005000] = .ok (.idle 5) ∧
    decodeParcels vec [0x00600000, 0x000002F8, 0x00BE0018] = .ok .nop ∧
    decodeParcels vec [0x81218000, 0x600000A0, 0x0D08000A] =
      .ok (.mmWord ⟨.mm ⟨⟨13, false⟩, .latch .vf1 .res 0, .main 2 0⟩ ⟨p0, .latch .ix0 .res 0, .creg 0x102⟩, none⟩) := by decide


/-- EncodingRoundTrip: a well-formed instruction, and parcels that decode. -/
theorem witness_round_trip :
    (Instr.ixAdd false .w p0 i5).wf vec = true ∧ (decodeParcels vec (encodeParcels vec (.ixAdd false .w p0 i5))).isOk = true := by decide
/-! ### Small states -/

/-- A partition in the middle of a section of its stream. -/
def part : Partition :=
  { Partition.empty with
    started := true, left := 8, slen := 100, preds := 3, store := List.replicate 100 0, secs := [⟨0, false, 0⟩], secNo := 1 }

/-- The part at the turn of partition p of core k, the core and the partition made by f and g. -/
def turn (k p : Nat) (f : Core → Core) (g : Partition → Partition) : State :=
  { State.reset with
    cores := State.reset.cores.set k (f { Core.empty with prts := Core.empty.prts.set p (g part) }), phase := .prt k p }

/-- Partition p of core 1, of core 7, which is an F-core, and of the firmware core. -/
def g (p : Nat) : State := turn 1 p id id
def fc (p : Nat) : State := turn 7 p id id
def fw (p : Nat) : State := turn 0 p id id

def i0 : Src := .imm 0

/-- Every trigger of a list fires in partition p of core 1. -/
def fire (p : Nat) (l : List Trigger) : Bool := l.all fun t => (g p).fires 1 p p0 i5 t

/-! ### Witnesses: words -/

/-- IntegerUnitResults, on each width, and CompareUnitResults, MultiplyDivideResults. -/
theorem witness_scalar :
    fire 0 ([IxOp.add, .sub, .and, .or, .xor, .andn, .shl, .shr, .sar, .rol, .min, .max, .minu, .maxu, .clz, .ctz, .popc, .bext, .bins,
      .sel, .mov].flatMap fun o => [.ix false o .d, .ix true o .b]) = true ∧
    fire 0 [.ix false .bswap .d, .ix true .bswap .w, .ix false .bswap .h] = true ∧
    fire 11 ([Cond.eq, .ne, .lt, .le, .gt, .ge, .ltu, .leu, .gtu, .geu].map fun c => .cmp c .w) = true ∧
    fire 1 ([PredOp.pand, .por, .pxor, .pandn].map Trigger.cmpPred) = true ∧
    fire 9 ([ImdOp.mul, .mulh, .mulhu, .div, .divu, .rem, .remu].flatMap fun o => [.imd o false, .imd o true]) = true := by decide +kernel

/-- MultiplyDivideResults: a divisor of zero and -2^63 / -1 are among the data. -/
theorem witness_divide :
    let s := turn 1 0 id fun q => q.setUnit .imd { q.unit .imd with o1 := ⟨BitVec.ofNat 8192 (2 ^ 63), false, false⟩ }
    s.fires 1 0 p0 (.imm 0x1FFFFF) (.imd .div false) = true ∧ s.op1 1 0 .imd = 2 ^ 63 ∧
      s.datum 1 0 (.imm 0x1FFFFF) .imd = 2 ^ 64 - 1 ∧ s.fires 1 0 p0 i0 (.imd .rem true) = true ∧ s.datum 1 0 i0 .imd = 0 := by decide +kernel

/-- The second half of `Yields`, in every result statement: a datum, an o1 or an o2 that is poisoned, and the poison word
of the first of them that the trigger uses. -/
theorem witness_poisoned :
    let psn (w : Nat) : Slot := ⟨BitVec.ofNat 8192 w, true, false⟩
    let s (k p : Nat) : State := turn k p id fun q =>
      { q with ofile := q.ofile.set 0 (psn 0x500), units := q.units.map fun u => { u with o1 := psn 0x600, o2 := psn 0x700 } }
    let s2 (p : Nat) : State := turn 1 p id fun q => { q with units := q.units.map fun u => { u with o2 := psn 0x700 } }
    let dies (s : State) (k p : Nat) (src : Src) (w : Word) (t : Trigger) : Bool :=
      s.placed k p p0 src (.trig t) && s.poisonIn k p src t == some (w ||| bitAt 54 true) && !trigSink t
    let file : Src := .ofile 0
    [Trigger.ix false .add .d, .ix true .mov .b, .cmp .lt .w, .cmpPred .pxor, .imd .div false, .ksLd false, .ksLdb true .h].all
        (dies (s 1 0) 1 0 file 0x500) = true ∧
      [Trigger.ix false .sub .h, .cmpPred .pand, .imd .mulhu true, .ksLdx true .w, .va true .adds .b, .vp .perm .w, .vpClmul true, .vcCmp .gtu .d,
        .vcFcmp .un .f16, .vf false .add .csr .f32, .vx .div .rup .bf16, .fs .min .rtz .f16, .fsCmp .eq .csr .f32, .fd .div .rne].all
          (dies (s 1 1) 1 1 i5 0x600) = true ∧
      [Trigger.ix true .bins .d, .va false .sel .b, .vf true .fma .csr .f32, .fs .fma .csr .f32].all (dies (s2 1) 1 1 i5 0x700) = true ∧
      [Trigger.vcVote .any, .vcClass .f32, .vpF .redadd .f16, .vf false .neg .csr .f32, .vfToE8m0 false .csr .f16, .vfFromE8m0 true .csr,
        .vfCvt false .e4m3 .f32 true .rne, .fsCvt .uint32 .f32 false .rdn, .vx .sqrt .csr .f32, .fd .sqrt .rne].all (dies (s 1 1) 1 1 file 0x500) = true ∧
      [Trigger.kvLoad true .bf16, .kvLoad false .f32].all (dies (s 1 9) 1 9 i5 0x600) = true ∧ dies (s2 9) 1 9 i5 0x700 (.kvLoad true .bf16) = true ∧
      dies (s 7 9) 7 9 i5 0x600 (.pxCsc 2) = true ∧ dies (s 7 9) 7 9 file 0x500 (.pxPack true) = true ∧
      (s2 1).placed 1 1 p0 i5 (.trig (.ix true .mov .b)) = true ∧ (s2 1).poisonIn 1 1 i5 (.ix true .mov .b) = none := by decide +kernel

/-- CoreStoreLoadResults and CoreStoreStoreEffects, with and without poison in the store. -/
theorem witness_store :
    let s := turn 1 1 (fun c => { c with sh0 := { c.sh0 with csPsn := [(0, 1)] } }) id
    fire 1 [.ksLd false, .ksLdx true .b, .ksLdx false .d, .ksLdb true .h, .ksSt false, .ksStx true .w] = true ∧ (g 1).has 1 1 = true ∧
      s.fires 1 1 p0 i5 (.ksLd false) = true ∧ csPoisoned (s.core 1).sh0 0 128 = true ∧ csPoisoned ((g 1).core 1).sh0 0 128 = false := by
  decide +kernel

/-- VectorIntegerResults, VectorPermuteResults and VectorConditionResults. -/
theorem witness_vector :
    fire 1 ([VaOp.add, .sub, .mul, .mulh, .and, .or, .xor, .andn, .shl, .shr, .sar, .min, .max, .minu, .maxu, .abs, .sel, .popc, .clz, .adds,
      .subs].flatMap fun o => [.va false o .d, .va true o .b]) = true ∧
    fire 9 [.va false .add .w] = true ∧
    fire 2 ([VpOp.perm, .bcast, .rot, .pack, .unpk, .cmprs, .redadd, .redmax, .redmin, .scan, .xscan].flatMap fun o =>
      [.vp o .b, .vp o .w]) = true ∧
    fire 8 [.vpClmul false, .vpClmul true] = true ∧
    fire 3 ([Cond.eq, .ne, .lt, .le, .gt, .ge, .ltu, .leu, .gtu, .geu].map fun c => .vcCmp c .h) = true ∧
    fire 10 [.vcFcmp .un .f16, .vcVote .any, .vcVote .all, .vcVote .cnt, .vcClass .bf16] = true := by decide +kernel

/-- FloatArithmeticResults and FloatFunctionResults. -/
theorem witness_float :
    fire 1 ([VfOp.add, .sub, .mul, .fma, .nma, .min, .max, .abs, .neg, .rnd].flatMap fun o => [.vf false o .csr .f32, .vf true o .rup .bf16]) = true ∧
    fire 2 ([FsOp.add, .sub, .mul, .fma, .min, .max].map fun o => .fs o .rtz .f16) = true ∧
    fire 3 ([FsCond.eq, .lt, .le, .un].map fun c => .fsCmp c .csr .f32) = true ∧
    fire 4 ([VpFOp.redadd, .redmax, .redmin].map fun o => .vpF o .f32) = true ∧
    fire 5 [.vfCvt false .e4m3 .f32 true .rne, .vfCvt true .int32 .f16 false .csr, .vfToE8m0 false .csr .f16, .vfFromE8m0 true .csr,
      .fsCvt .uint32 .f32 false .rdn] = true ∧
    fire 6 ([VxOp.exp2, .log2, .rcp, .rsqrt, .div, .sqrt, .sincos].map fun o => .vx o .csr .f32) = true ∧
    fire 7 ([FdOp.div, .sqrt, .rsqrt].map fun o => .fd o .rne) = true := by decide +kernel

/-- MacroTriggerEffects: a macro whose CFG holds E4M3 in both fields, in both matrix partitions. -/
theorem witness_macro :
    let m (c : Cim) : Cim := { c with cfg := 0x22, p0 := { c.p0 with fmt := 2 }, p1 := { c.p1 with fmt := 2 } }
    let s (p : Nat) := turn 1 p (fun c => { c with sh0 := { c.sh0 with cims := c.sh0.cims.map m }, sh := { c.sh with cims := c.sh.cims.map m } }) id
    [Trigger.mxComp .mma 3 false, .mxComp .mmt 0 true, .mxComp .mad 7 false, .mxBsw 1, .mxMcfg 2, .mxBld 5].all
      (fun t => (s 9).macroFires 1 9 p0 i5 t && (s 10).macroFires 1 10 p0 i5 t) = true := by decide +kernel

/-- MacroTriggerEffects: poisoned inputs, a poisoned block, an adapter entry that is poisoned, one not valid, one valid
with and without a poisoned row, and a pass of floats. -/
theorem witness_macro_poison :
    let psn : Slot := ⟨0x500, true, false⟩
    let m (c : Cim) : Cim := { c with cfg := 0x22, p0 := { c.p0 with fmt := 2 }, p1 := { c.p1 with fmt := 2 } }
    let cims (f : Cim → Cim) (c : Core) : Core :=
      { c with sh0 := { c.sh0 with cims := c.sh0.cims.map (f ∘ m) }, sh := { c.sh with cims := c.sh.cims.map (f ∘ m) } }
    let s := turn 1 9 (cims id) fun q => q.setUnit .mx { q.unit .mx with o1 := psn }
    let dies (t : Trigger) : Bool := s.placed 1 9 p0 i5 (.trig t) && !(s.env 1 9).reservedUse t && !(s.env 1 9).mxRefuses t &&
      s.poisonIn 1 9 i5 t == some (0x500 ||| bitAt 54 true)
    let blk := turn 1 9 (cims fun c => { c with pblk := 1 }) id
    let ad (e l : List Host.Cell) : Shared :=
      ((turn 1 9 (fun c => { c with sh0 := { c.sh0 with cs := e, csPsn := l } }) id).core 1).sh0
    let one : List Host.Cell := [(0, 0x80), (3, 0x81)]
    let i : MxIn := ⟨.mmt, true, 0x122, ⟨2, [], []⟩, 0, 0, 0, 0, 0, 0, 0, none⟩
    [Trigger.mxComp .mma 3 false, .mxComp .mmt 0 false, .mxComp .mad 7 false].all dies = true ∧
      ((blk.core 1).sh0.cim 2).act = false ∧ ((blk.core 1).sh0.cim 2).pblk.toNat % 256 ≠ 0 ∧ (((g 9).core 1).sh0.cim 2).pblk.toNat % 256 = 0 ∧
      csPoisoned (ad one [(0, 1)]) 0 4 = true ∧ csPoisoned ((g 9).core 1).sh0 0 4 = false ∧ csRead ((g 9).core 1).sh0 0 4 = 0 ∧
      csRead (ad one []) 0 4 = 0x81000080 ∧ csPoisoned (ad one [(8, 1)]) 0 4 = false ∧ csPoisoned (ad one [(8, 1)]) 128 512 = true ∧
      csPoisoned (ad one []) 128 512 = false ∧ mxInteger (cfgAfmt i.cfg) = false ∧ mxInteger i.plane.fmt.toNat = false := by decide +kernel

/-- MacroTriggerEffects: a block whose datum is poisoned. -/
theorem witness_block_poison :
    let s := turn 1 9 id fun q => { q with ofile := q.ofile.set 0 ⟨0x500, true, false⟩ }
    s.placed 1 9 p0 (.ofile 0) (.trig (.mxBld 5)) = true ∧ (s.env 1 9).reservedUse (.mxBld 5) = false ∧ (s.env 1 9).mxRefuses (.mxBld 5) = false ∧
      s.poisonIn 1 9 (.ofile 0) (.mxBld 5) = some (0x500 ||| bitAt 54 true) := by decide +kernel

/-- KeyValuePixelResults: a descriptor of a kvap that is malformed, and one that is not; a table of a kvfrq that holds a
poisoned piece, and one that does not. -/
theorem witness_kv :
    let bad := turn 1 9 (fun c => { c with sh0 := { c.sh0 with csPsn := [(3, 1)] } }) id
    fire 9 [.kvLoad true .bf16, .kvLoad false .f32, .kvAp, .kvFrq 3] = true ∧
    csPoisoned ((g 9).core 1).sh0 (kvFreqAddr ((g 9).datum 1 9 i5 .kv)) 512 = false ∧ bad.fires 1 9 p0 i5 (.kvFrq 3) = true ∧
    csPoisoned (bad.core 1).sh0 (kvFreqAddr (bad.datum 1 9 i5 .kv)) 512 = true ∧
    [Trigger.pxCsc 1, .pxPack true, .pxPack false].all (fun t => (fc 9).fires 7 9 p0 i5 t) = true ∧
    kvAppend 0 0 (65 * 2 ^ 128) 0 = none ∧ (kvAppend 0 0 0 0).isSome = true := by decide +kernel

/-- IntegerMatrixSum: INT8 in both fields, the masks of each mode, a row at the last index and the first one past the
limit, the last column of mmt and one past the last of C_B. -/
theorem witness_integer_matrix :
    let i (op : MxOp) (cfg t : Nat) (fmt : BitVec 4) : MxIn := ⟨op, true, BitVec.ofNat 64 cfg, ⟨fmt, [], []⟩, 0x700000005, t, 0, 0, 0, 0, 0, none⟩
    let ok (i : MxIn) (n : Nat) : Bool := mxInteger (cfgAfmt i.cfg) && mxInteger i.plane.fmt.toNat && decide (n < 512)
    ok (i .mma 0 0 0) 255 = true ∧ ok (i .mma 0x100 (2 ^ 8128) 0) 0 = true ∧ ok (i .mad 0x100 (4 * 2 ^ 8160) 0) 5 = true ∧
      ok (i .mma 0x100 (5 * 2 ^ 8160) 0) 5 = true ∧ ok (i .mma 0x200 (2 ^ 8128) 1) 511 = true ∧ ok (i .mma 0x300 0 0) 4 = true ∧
      ok (i .mma 0x300 0 0) 5 = true ∧ ok (i .mmt 0 (3 * 2 ^ 8160) 0) 3 = true ∧ ok (i .mmt 0 (3 * 2 ^ 8160) 0) 4 = true ∧
      (255 < mxCb 0 ∧ mxCb 0 ≤ 256 ∧ mxCb 1 = 512) ∧ ((0x700000005 : BitVec 64).getLsbD 32 = true ∧ fld (0x700000005 : Word) 0 32 = 5) := by
  decide +kernel

/-- Core 1 with an FTB entry that maps the first 16 pages for every kind of access, at the turn of partition p. -/
def mapped (p : Nat) (h : Partition → Partition) : State :=
  turn 1 p (fun c =>
    let f := c.sh0.ftb.set 0 ⟨0, 0xF000, 0, 0xB800000000000000⟩
    { c with sh0 := { c.sh0 with ftb := f }, sh := { c.sh with ftb := f } }) h

/-- MemoryAccessIssues: addresses that the FTB translates, for each kind of access, and one that it does not. -/
theorem witness_access :
    let s := mapped 11 id
    let f := turn 1 11 (fun c => { c with refillFault := [(11, 5, 2)] }) id
    let c := s.core 1
    let kinds : List (Trigger × AccKind) :=
      [(.gmLd false false .l, .rd), (.gmLd true true .w, .rd), (.gmSt false .q, .wr), (.gmStSm true .n, .wr), (.gmLdSm false false .b, .rd),
        (.gmLdSm true true .h, .rd), (.gmAmoFadd false, .at), (.gmAmoNib true, .at), (.rwWalk false, .rd), (.rwWalk true, .rd)] ++
      ([AmoOp.add, .and, .or, .xor, .min, .max, .minu, .maxu, .swap, .cas].map fun o => (.gmAmo false o true, .at))
    (kinds.all fun x => s.fires 1 11 p0 i5 x.1 && decide (c.translateBy c.sh0.ftb 11 0 x.2 = .ok 0 0)) = true ∧ c.isLocked 11 = false ∧
      (g 11).fires 1 11 p0 i5 (.gmLd false true .w) = true ∧ s.fires 1 11 p0 i5 (.gmPref true) = true ∧
      (c.translateBy c.sh0.ftb 11 5 .rd = .ok 5 0) ∧ (f.core 1).translateBy (f.core 1).sh0.ftb 11 5 .rd = .fault 2 ∧
      f.fires 1 11 p0 i5 (.gmLd false true .w) = true ∧ f.fires 1 11 p0 i5 (.gmPref false) = true := by decide +kernel

/-- TagOperationEffects: a slot that is not busy, and one write at the end of an ACLK. -/
theorem witness_tags :
    ([TgOp.look, .pin, .unpin, .inval, .setag].all fun o => (g 11).fires 1 11 p0 i5 (.tg o)) = true ∧
      (tagGet ((g 11).core 1).sh0.tags 5).busy = false ∧
      ((turn 1 11 (fun c => { c with tagWrs := [⟨8191, .pin, 0⟩] }) id).core 1).tagWrs = [⟨8191, .pin, 0⟩] := by decide +kernel

/-- BranchEffects: every trigger of br, a stack with room, full and empty, and a bucket. -/
theorem witness_branch :
    let calm (s : State) (t : Trigger) : Bool := s.calm 1 0 p0 i5 t
    let full := turn 1 0 id fun q => { q with stack := List.replicate 16 4, spill := .donePush }
    let ret := turn 1 0 id fun q => { q with stack := [8, 12] }
    let empty := turn 1 0 id fun q => { q with spill := .donePop 8 }
    let bkt := turn 1 0 id fun q => { q with store := [1, 5, 40] ++ List.replicate 97 0 }
    ([Trigger.brTgt 3, .brJmp 0, .brCall 1, .brTrap].all (calm (g 0))) = true ∧ (((g 0).core 1).prt 0).stack = [] ∧
      calm full (.brCall 2) = true ∧ ((full.core 1).prt 0).stack.length = 16 ∧ ((full.core 1).prt 0).spill = .donePush ∧
      calm ret .brRet = true ∧ ((ret.core 1).prt 0).stack = [8] ++ [12] ∧
      calm empty .brRet = true ∧ ((empty.core 1).prt 0).stack = [] ∧ ((empty.core 1).prt 0).spill = .donePop 8 ∧
      calm bkt .brBkt = true ∧ (pickBucket ((bkt.core 1).prt 0) 0 5).isSome = true ∧ bkt.op1 1 0 .br / 4 % 8192 = 0 ∧
      bkt.datum 1 0 i5 .br % 2 ^ 32 = 5 := by decide +kernel

/-- BranchEffects and SemaphoreTriggers at the end of the ACLK: a bucket, and none; a semaphore with an add past the
top, one with an add past zero, one with a write over OVF and an add, and one with nothing. -/
theorem witness_aclk_end :
    let s (f : Core → Core) : State := { State.reset with phase := .finish 1, cores := State.reset.cores.set 1 (f Core.empty) }
    let b := s fun c => { c with bktWr := some (1, 2, 3) }
    let a := s fun c => { c with semAdds := [(0, 70000), (1, -3), (2, 4)], semWrs := [⟨2, 0, 9, true⟩, ⟨2, 1, 7, false⟩] }
    1 < b.cores.length ∧ (b.core 1).bktWr = some (1, 2, 3) ∧ 11 < (b.core 1).prts.length ∧ (a.core 1).bktWr = none ∧
      255 < (a.core 1).sh.sema.length ∧ (a.core 1).semAdds.length = 3 ∧ (a.core 1).semWrs.getLast? = some ⟨2, 1, 7, false⟩ := by decide +kernel

/-- LoopEffects: a loop of one word, one of no iterations, and lbrk and lrd in and out of a loop. -/
theorem witness_loop :
    let s := turn 1 0 id fun q => q.setUnit .lp { q.unit .lp with o1 := ⟨0x10001, false, false⟩ }
    let l := turn 1 0 id fun q => { q with loop := ⟨true, 9, 2, 2, 9, 1, 1, 3, 0⟩ }
    s.calm 1 0 p0 i5 .lpLoop = true ∧ (s.env 1 0).loopBad 1 (s.op1 1 0 .lp) = false ∧ s.datum 1 0 i5 .lp = 5 ∧
      s.calm 1 0 p0 i0 .lpLoop = true ∧ s.datum 1 0 i0 .lp = 0 ∧
      l.has 1 0 = true ∧ l.fires 1 0 p0 i5 .lpLbrk = true ∧ ((l.core 1).prt 0).loop.active = true ∧ (l.core 1).preempting = false ∧
      s.calm 1 0 p0 i5 .lpLbrk = true ∧ ([LrdSel.iter, .rem, .stg].all fun x => l.fires 1 0 p0 i5 (.lpLrd x) && s.fires 1 0 p0 i5 (.lpLrd x)) = true := by
  decide +kernel

/-- SemaphoreTriggers: a semaphore that holds the value asked for, and one that holds one less. -/
theorem witness_semaphore :
    let s (v : BitVec 16) : State := turn 1 0 (fun c => { c with sh0 := { c.sh0 with sema := c.sh0.sema.set 0 ⟨v, false⟩ } }) id
    (s 5).calm 1 0 p0 i5 .sySemw = true ∧ ((s 5).core 1).sh0.semaAt 0 = ⟨5, false⟩ ∧ (s 5).op1 1 0 .sy = 0 ∧ (s 5).datum 1 0 i5 .sy = 5 ∧
      (s 4).calm 1 0 p0 i5 .sySemw = true ∧ ((s 4).core 1).sh0.semaAt 0 = ⟨4, false⟩ ∧
      (s 4).calm 1 0 p0 i5 .sySema = true ∧ (s 4).fires 1 0 p0 i5 .sySemr = true := by decide +kernel

/-- SynchronisationTriggers: every other trigger of sy, a mask of the partition itself, and the event queue with a
record and without. -/
theorem witness_synchronisation :
    let s := turn 1 0 (fun c => { c with sh := { c.sh with evq := [⟨1, 2, 3, 4⟩] } }) id
    ([Trigger.syJoin, .syLock, .syUnlock, .syRgn, .syRah, .syChk, .syMark .prt, .syMark .core, .syMark .clu, .syMark .dev, .syMark .sys].all
      fun t => (g 0).calm 1 0 p0 i5 t) = true ∧ (BitVec.ofNat 12 ((g 0).datum 1 0 i5 .sy)).getLsbD 0 = true ∧
      ((g 0).core 1).locked = 0 ∧ ((g 0).core 1).lpend = 0 ∧
      s.fires 1 0 p0 i5 .syEvt = true ∧ (s.core 1).sh.evq = [⟨1, 2, 3, 4⟩] ∧ (g 0).fires 1 0 p0 i5 .syEvt = true ∧
      ((g 0).core 1).sh.evq = [] := by decide +kernel
/-! ### Witnesses: moves, immediates, headers, commands, control registers -/

/-- Core 7 with two visible entries in handoff port 3, at the turn of its partition 1. -/
def popping : State :=
  let s := fc 1
  let q := hqAt (s.cluster 0).hq (hqIndex 7 3)
  let c := s.cluster 0
  { s with clusters := s.clusters.set 0 { c with hq := c.hq.set (hqIndex 7 3) { q with ents := [⟨5, 8, true⟩, ⟨6, 8, true⟩] } } }

/-- A group of two moves. -/
def two (s : Src) (d : Dst) (t : Src) (e : Dst) : Group := ⟨.mm ⟨p0, s, d⟩ ⟨p0, t, e⟩, none⟩

/-- MoveGroupOrder: a swap of two entries of the operand file, and a move that its guard squashes beside an immediate. -/
theorem witness_move_group :
    let s := g 1
    let sq : Group := ⟨.mm ⟨⟨0, true⟩, i5, .pred 3⟩ ⟨p0, i5, .port .ix0 .o1⟩, some (.ml p0 (.ofile 2) 7)⟩
    s.wordReady 1 1 (two (.ofile 0) (.ofile 1) (.ofile 1) (.ofile 0)) = true ∧
      (groupItems (two (.ofile 0) (.ofile 1) (.ofile 1) (.ofile 0))).all (s.env 1 1).simple = true ∧
      s.wordReady 1 1 sq = true ∧ (groupItems sq).all (s.env 1 1).simple = true ∧ sq.w0 ≠ .idle 1 ∧ sq.w1 ≠ some (.idle 1) := by
  decide +kernel

/-- MoveDestinations: each kind of destination, predicates below 8 and in a loop, a view entry in bounds at the last
index, a queue with room and a queue to pop. -/
theorem witness_move :
    let s := g 1
    let v := turn 1 1 id fun q => { q with views := q.views.set 0 0x8000400080000000 }
    let l := turn 1 1 id fun q => { q with loop := ⟨true, 9, 2, 2, 9, 1, 1, 3, 0⟩ }
    ([Dst.ofile 7, .port .vf1 .o2, .pred 7, .pred 8, .pred 0, .xo 11 7, .hq 1, .sink].all fun d => s.ready 1 1 p0 i5 d) = true ∧
      s.has 1 1 = true ∧ ((s.core 1).prt 1).units.length = 25 ∧ l.ready 1 1 p0 i5 (.pred 15) = true ∧
      ((l.core 1).prt 1).loop.active = true ∧ v.ready 1 1 p0 i5 (.main 0 15) = true ∧ viewOk (((v.core 1).prt 1).view 0) 15 = true ∧
      viewOk (((v.core 1).prt 1).view 0) 16 = false ∧ (hqAt (s.cluster 0).hq (hqIndex 1 1)).room ≠ 0 ∧
      hqIndex 1 1 < (s.cluster 0).hq.length ∧ popping.ready 7 1 p0 (.hq 3) .sink = true ∧ popping.has 7 1 = true ∧
      hqIndex 7 3 < (popping.cluster 0).hq.length ∧ 0 < popping.clusters.length := by decide +kernel

/-- MoveGroupOrder: two pops of one port. -/
theorem witness_two_pops :
    let q := (popping.core 7).prt 1
    popping.wordReady 7 1 (two (.hq 3) (.ofile 0) (.hq 3) (.ofile 1)) = true ∧ q.holds p0 = true ∧ q.predPoison 0 = false ∧
      q.ofile.length = 8 ∧ (hqAt (popping.cluster 0).hq (hqIndex 7 3)).ents = ⟨5, 8, true⟩ :: ⟨6, 8, true⟩ :: [] := by decide +kernel

/-- ImmediateIdleHeader: an ML word, an IDLE word, an empty word; a header whose wait is satisfied, one whose wait is
not, one of LEN 0, and one that waits on a partition that never counts again. -/
theorem witness_immediate_idle_header :
    let s := g 1
    let h := turn 1 1 id fun q => { q with left := 0 }
    let d := turn 1 1 (fun c => { c with prts := c.prts.set 0 { part with joined := true, secs := [] } }) fun q => { q with left := 0 }
    let u := turn 1 1 (fun c => { c with prts := c.prts.set 0 part }) fun q => { q with left := 0 }
    let due (s : State) (v : Nat) : Prop := (((s.core 1).sh0.rsc.getD (headerPrt 1 0) 0).toNat + 16 - v) % 16 < 8
    s.wordReady 1 1 ⟨.ml p0 (.ofile 7) 5, none⟩ = true ∧ s.wordReady 1 1 ⟨.ml p0 (.port .vf0 .o1) 5, none⟩ = true ∧
      portWidth 128 .vf0 .o1 = 128 ∧ prtWidth 1 = 128 ∧ s.wordReady 1 1 ⟨.idle 1, none⟩ = true ∧
      s.wordReady 1 1 ⟨.mm Move.empty Move.empty, none⟩ = true ∧
      (h.has 1 1 = true ∧ h.canIssue 1 1 = true ∧ h.phase = .prt 1 1 ∧ ((h.core 1).prt 1).pc.toNat + 2 + 3 * 32 ≤ ((h.core 1).prt 1).slen) ∧
      (due h 0 ∧ due h 9 ∧ ¬due h 8 ∧ ¬due h 1 ∧ headerPrt 1 0 = 0) ∧
      (u.canIssue 1 1 = true ∧ ((u.core 1).prt 0).spent = false ∧ ¬due u 1) ∧
      (d.canIssue 1 1 = true ∧ (d.core 1).held 1 = false ∧ ((d.core 1).prt 0).spent = true ∧ ¬due d 1) := by decide +kernel

/-- EngineCommands: every command in the mem partition of an F-core, patch in the firmware core; a semaphore at its
threshold, and one below. -/
theorem witness_commands :
    let f (c : BitVec 11) (w : BitVec 16) : CmdFields := ⟨p0, 0, w, 1, 1, c, 0⟩
    let ready (s : State) (k p : Nat) (op : CmdOp) (f : CmdFields) : Bool :=
      let c := s.core k
      s.wordReady k p ⟨.mc op f, none⟩ && !(c.prt p).predPoison 0 && (c.prt p).holds p0 && !Cells.anyIn c.sh0.regPsn (128 * f.cboff.toNat) 128 &&
        (cmdSpan op (Cells.bytes c.sh0.reg (128 * f.cboff.toNat) 128)).all (fun x => !Cells.anyIn c.sh0.regPsn x.1 x.2) &&
        decide (c.engineLoad (cmdEngine op) < 16) && !c.isLocked p
    ([CmdOp.copy 0, .copy 1, .copy 2, .copyf 0, .copyf 1, .copyf 2, .gath, .scat, .cred, .cbc, .mq, .awalk, .enc, .dec, .fill].all fun op =>
      ready (fc 11) 7 11 op (f 1535 0) && ready (fc 11) 7 11 op (f 1535 1)) = true ∧
    ([CmdOp.evict, .wback, .post].all fun op => ready (fc 11) 7 11 op (f 0 0)) = true ∧ ready (fw 0) 0 0 .patch (f 1 0) = true ∧
      (((fc 11).core 7).sh0.semaAt 0).val = 0 := by decide +kernel

/-- ControlRegisterWrites and the last clause of BoundTraps: every index that a clause names, at the ends of its range,
on a user core and on the firmware core. -/
theorem witness_control_registers :
    ([0x000, 0x0FF, 0x100, 0x107, 0x10E, 0x108, 0x10B, 0x10C, 0x10D, 0x10F, 0x120, 0x121, 0x122, 0x123, 0x140, 0x110, 0x111, 0x112, 0x118, 0x11F,
      0x124, 0x12F, 0x130, 0x137, 0x13A, 0x13F, 0x141, 0x1FF, 0x200, 0x3FF] : List (BitVec 12)).all (fun j => (g 0).ready 1 0 p0 i5 (.creg j)) = true ∧ (g 0).has 1 0 = true ∧
    ([0x40A, 0x40C, 0x40D, 0x40E, 0x40F, 0x400, 0x401, 0x402, 0x403, 0x404, 0x405, 0x407, 0x408, 0x409, 0x40B, 0x410, 0xFFF, 0x130, 0x137, 0x139,
      0x13A, 0x200, 0x201, 0x202, 0x203, 0x3FC, 0x3FD, 0x3FE, 0x3FF] : List (BitVec 12)).all
      (fun j => (fw 0).ready 0 0 p0 i5 (.creg j)) = true ∧ (fw 0).has 0 0 = true ∧
    (∃ y, ((fw 0).core 0).sh.ftb[127]? = some y) ∧ 0x200 + 4 * 127 = 0x3FC := by
  refine ⟨by decide +kernel, by decide +kernel, by decide +kernel, by decide +kernel, ⟨⟨0, 0, 0, 0⟩, by decide +kernel⟩, by decide⟩
/-! ### Witnesses: events of a core -/

/-- A result of unit u that is due, of sequence number n. -/
def due (n : Nat) (u : UnitName) (e : FlyEffect) : Fly := ⟨n, u, 2, 0, false, false, some ⟨7, false, false⟩, none, none, 1, e, 0⟩

/-- ResultLandingEffects: one result, two on one latch, one of a macro, and the effects of bld, kvap and kvfrq. -/
theorem witness_landing :
    let s (p : Nat) (l : List Fly) : State := turn 1 p id fun q => { q with fly := l }
    let lands (p : Nat) (l : List Fly) : Bool := decide (((s p l).core 1).landing p = l.map fun f => (p, f))
    let c := (g 9).core 1
    lands 0 [due 1 .ix0 .none] = true ∧ lands 0 [due 1 .ix0 .none, due 2 .ix0 .none] = true ∧
      (due 1 .ix0 .none).collides (due 2 .ix0 .none) = true ∧ lands 9 [due 1 .mx .none] = true ∧
      lands 10 [due 1 .kv (.kvap 0 64 [1] [2])] = true ∧
      lands 9 [due 1 .kv (.kvfrq 3 [1, 2])] = true ∧ (g 9).has 1 9 = true ∧ (c.prt 9).units.length = 25 ∧ c.sh.cims.length = 8 := by
  decide +kernel

/-- ResultLandingEffects: a block of a macro, whatever its cells are. -/
theorem witness_block (cells : List Byte) :
    let f := due 1 .mx (.bld true 7 2 cells [] false)
    ((turn 1 9 id fun q => { q with fly := [f] }).core 1).landing 9 = [(9, f)] ∧ (List.replicate 8192 (1 : Byte)).length = 8192 := by
  intro f
  refine ⟨?_, List.length_replicate⟩
  have hl (i : Nat) : ((turn 1 9 id fun q => { q with fly := [f] }).core 1).isLocked i = false := BitVec.getLsbD_zero
  simp only [Core.landing, Core.drains, hl, Bool.false_and, Bool.or_false]
  rfl

/-- SectionTransferEvents: a section that has ended, with and without a later region entry, one that has not, one with a
result in flight, and a transfer whose delay has ended. -/
theorem witness_section :
    let x : OpenSec := ⟨0, true, 40⟩
    let s (q : Partition → Partition) : Partition := ((turn 1 11 id q).core 1).prt 11
    (g 11).has 1 11 = true ∧ ((g 11).core 1).sh.rsc.length = 12 ∧
      (s fun q => { q with secs := [x] }).secs = [x] ∧ (s fun q => { q with secs := [x] }).fly = [] ∧
      (s fun q => { q with secs := [x] }).rgnSec ≤ x.no ∧
      x.no < (s fun q => { q with secs := [x], rgnSec := 1 }).rgnSec ∧
      (s id).secs = [⟨0, false, 0⟩] ∧ (s fun q => { q with secs := [x], fly := [due 1 .ix0 .none] }).fly = [due 1 .ix0 .none] ∧
      (s fun q => { q with secs := [x], trap := some ⟨6, 0, 0, 3⟩ }).trap ≠ none ∧ (s fun q => { q with secs := [x] }).trap = none ∧
      (s fun q => { q with transfer := some ⟨40, 0⟩ }).transfer = some ⟨40, 0⟩ := by decide +kernel

/-- ExchangeIntervalEvents: one value, two in one slot in either order, and a macro. -/
theorem witness_exchange :
    let x : Exchange := ⟨1, 0, 7, ⟨5, false, false⟩, 0, false⟩
    let y : Exchange := ⟨11, 0, 7, ⟨6, false, false⟩, 0, false⟩
    let s (l : List Exchange) : State := turn 1 0 (fun c => { c with xfly := l }) id
    let landed (l : List Exchange) : List Exchange := ((s l).core 1).xfly.filter fun z => z.rem == 0
    (s [x]).has 1 0 = true ∧ (((s [x]).core 1).prt 0).xi.length = 8 ∧ landed [x] = [x] ∧ landed [x, y] = [x, y] ∧ landed [y, x] = [y, x] ∧
      y.rcv = x.rcv ∧ y.slot = x.slot ∧ x.snd < y.snd ∧ 1 < (s []).cores.length ∧ ((s []).core 1).sh.cims.length = 8 := by decide +kernel

/-- LockedGroupEvents: a group that may form, one with a member that has joined, and one at the end of an ACLK. -/
theorem witness_locked_group :
    let f (c : Core) : Core := { c with lpend := 3, lwait := 3, prts := c.prts.set 1 part }
    let s := turn 1 0 f id
    let d := turn 1 0 (fun c => { c with lpend := 3, lwait := 1, prts := c.prts.set 1 { part with joined := true } }) id
    let e : State := { turn 1 0 (fun c => { c with locked := 3, lleave := 1, lockGo := true }) id with phase := .finish 1 }
    let dead (s : State) : Bool := (List.range 12).any fun p => (s.core 1).lpend.getLsbD p && (!((s.core 1).prt p).started || ((s.core 1).prt p).joined)
    (s.core 1).preempting = false ∧ dead s = false ∧ (s.core 1).locked = 0 ∧ (s.core 1).lwait &&& (s.core 1).lpend = (s.core 1).lpend ∧
      (s.core 1).lpend ≠ 0 ∧ dead d = true ∧ (d.core 1).lpend ≠ 0 ∧ (d.core 1).preempting = false ∧ (d.core 1).prts.length = 12 ∧
      e.phase = .finish 1 ∧ (e.core 1).locked ≠ 0 ∧ (e.core 1).lockGo = true := by decide +kernel

/-- A partition whose next word waits on gm0: the word moves gm0.res to the sink. -/
def waiting (q : Partition) : Partition :=
  { q with
    store := [0x00600000, 0x000002F8, 0x003E000A, 0, 0, 0], slen := 6, stalled := true, rah := 3,
    fly := [⟨1, .gm0, 0, 0, true, false, none, none, none, 0, .none, 0⟩] }

/-- HelperEvents: a spawn, no region for one, no stall, the end of the stall, the 256th word, and a PC outside. -/
theorem witness_helper :
    let h (n : Nat) (pc : Pc) : Helper := ⟨pc, n, 3, 0, [], [], [], 0, false⟩
    let s := turn 1 11 id waiting
    let t (n : Nat) (pc : Pc) : State := turn 1 11 (fun c => { c with helper := some (h n pc) }) waiting
    s.loadStall 1 = true ∧ (s.core 1).helper = none ∧ ((s.core 1).prt 11).rah ≠ 0 ∧ (s.core 1).preempting = false ∧
      (g 11).loadStall 1 = false ∧ (((g 11).core 1).prt 11).rah = 0 ∧
      (turn 1 11 (fun c => { c with helper := some (h 0 0) }) id).loadStall 1 = false ∧
      (t 256 0).loadStall 1 = true ∧ ((t 256 0).core 1).helper = some (h 256 0) ∧ (t 0 4).loadStall 1 = true ∧
      (((t 0 4).core 1).prt 11).slen < (h 0 4).pc.toNat + 3 := by decide +kernel
/-! ### Witnesses: accesses that are performed -/

/-- Memory whose homes map every IA to the LA of the same number, for every kind of access, not cached. -/
def flat (cells : List Host.Cell) : Memory :=
  { Memory.reset with
    gddr := cells, homes := List.replicate 36 { Home.reset with ranges := [⟨0, 0xFFFFFFFFF000, 0, 0xB000000000000000, false⟩] } }

/-- Whether a request goes, and what then holds of memory and of the place. -/
def goes (r : Memory × Req) (P : Memory → Place → Bool) : Bool :=
  match r with
  | (m, .go pl _) => P m pl
  | _ => false

/-- Whether a request faults. -/
def refuses (r : Memory × Req) : Bool :=
  match r with
  | (_, .fault _) => true
  | _ => false

/-- An access of gm0 at an IA. -/
def acc (k : MemKind) (opc : BitVec 8) (ia : Addr) (n : Nat) : MemOp :=
  ⟨1, k, .gm0, opc, 0, false, ia, ia, n, 0, 3, 4, 0, false, 0, false, false⟩

/-- Core 1 with one access in the queues of its partition 11, over flat memory. -/
def access (o : MemOp) (f : Core → Core) : State :=
  { turn 1 11 f (fun q => { q with mops := [o] }) with mem := flat [(300, 9)] }

/-- The premises on the access itself of LoadReturns and AtomicReturns, or of StorePerforms and MarkSpillRefill. -/
def loads (s : State) (o : MemOp) : Bool :=
  let q := (s.core 1).prt 11
  s.has 1 11 && q.loadEntry 1 == some o && q.mopReady o && (q.mopsBefore o.id).isEmpty
def stores (s : State) (o : MemOp) : Bool := s.has 1 11 && ((s.core 1).prt 11).storeEntry == some o

/-- The premises of LoadReturns on what stands before an access. -/
def access_plain (s : State) (o : MemOp) : Bool :=
  (((s.core 1).prt 11).mopsBefore o.id).isEmpty && (s.loopBack 1 o).isNone && !(s.core 1).seenElsewhere 11 o.ia.toNat o.size

/-- LoadReturns: a hit in the L1, a load at its home, also of an owner's memory, and a speculative load that faulted. -/
theorem witness_load :
    let o := acc (.load false) 0 300 4
    let hit := access o fun c => { c with l1 := [(256, 5)] }
    let s := access { o with l1p := 3 } id
    let f := access { o with kind := .load true, fault := 2 } id
    loads hit o = true ∧ (hit.core 1).l1Find o.ia = some 5 ∧ o.l1p.toNat < 2 ∧ o.fault = 0 ∧
      loads (access o id) o = true ∧ ((access o id).core 1).l1Find o.ia = none ∧
      access_plain (access o id) o = true ∧ access_plain hit o = true ∧
      goes ((access o id).mem.request 256 .rd 128 0) (fun m pl => !m.poisoned (pl.add 44) 4 && !m.poisoned pl 128) = true ∧
      loads s { o with l1p := 3 } = true ∧ loads f { o with kind := .load true, fault := 2 } = true := by decide +kernel

/-- Flat memory whose home of one line maps nothing. -/
def holed (m : Memory) (h : Nat) : Memory := { m with homes := m.homes.set h Home.reset }

/-- A state with a retry ring of one entry at IA 0x1000, that has room or is full, and whether the ring can be written. -/
def retryRing (s : State) (full : Bool) : State := { s with fw := { s.fw with rrbase := 0x1000, rrcfg := 0, rrtail := if full then 1 else 0 } }
def ringRoom (s : State) : Bool :=
  (s.fw.rrtail - s.fw.rrhead).toNat != 2 ^ s.fw.rrcfg.toNat && goes (s.mem.request 0x1000 .wr 64 0) (fun _ _ => true) &&
    ((retryRing s true).fw.rrtail - s.fw.rrhead).toNat == 2 ^ s.fw.rrcfg.toNat

/-- The IA 304 bytes behind the start of port 0's memory. -/
def ownIa : Addr := 0x800000000130

/-- LoadReturns: loads and atomics that are not speculative and fault at the FTB, at the home or on poison, with room in the
retry ring and without; and an atomic that an owner does not take. -/
theorem witness_load_fault :
    let o := acc (.load false) 0 300 4
    let a := acc .amo 0x11 304 4
    let w := acc .amo 0x11 ownIa 4
    let s (o : MemOp) (m : Memory) : State := retryRing { access o id with mem := m } false
    let f : Memory := flat []
    let h : Memory := holed f 2
    let p : Memory := { f with psn := [(18, 1), (19, 1)] }
    let ok (o : MemOp) (m : Memory) : Bool := loads (s o m) o && access_plain (s o m) o && ringRoom (s o m)
    ok { o with fault := 2 } f = true ∧ ok { a with fault := 1 } f = true ∧ ok o h = true ∧ ok a h = true ∧ ok o p = true ∧ ok a p = true ∧
      ok w f = true ∧ ((s o h).core 1).l1Find o.ia = none ∧ refuses (h.request 256 .rd 128 0) = true ∧ refuses (h.request 304 .at 4 0) = true ∧
      goes (p.request 256 .rd 128 0) (fun m pl => m.poisoned (pl.add 44) 1) = true ∧
      goes (p.request 304 .at 4 0) (fun m pl => m.poisoned pl 4 && (match pl with | .own _ _ => false | _ => true)) = true ∧ w.opc ≠ 0x10 ∧ w.opc ≠ 0x18 ∧ w.opc ≠ 0x19 := by decide +kernel

/-- LoadReturns: the home behind port 0 grants an atomic to its owner. -/
theorem witness_owner_atomic : (flat []).request ownIa .at 4 0 = (flat [], .go (.own 0 ownIa.toNat) false) := by
  have hs (n a : Nat) : (flat []).shut n a = false := by
    rcases n with _ | _ | _ | _ | n <;> simp [Memory.shut, Memory.rekeys, flat, Memory.reset]
  have hx : (flat []).xlate ownIa = (flat [], .ok ⟨.own 0 ownIa.toNat, false, true, true, none⟩) := by decide +kernel
  have ho : homeOf ownIa = 32 := by decide +kernel
  have h1 : (flat []).recFull 32 = false := by decide +kernel
  have h2 : (flat []).overfull 32 0 = false := by decide +kernel
  have h3 : iaReserved ownIa = false := by decide +kernel
  have h4 : (flat []).mustHold 32 ⟨.own 0 ownIa.toNat, false, true, true, none⟩ .at ownIa = false := by decide +kernel
  simp [Memory.request, Memory.answer, hx, ho, h1, h2, h3, h4, Xlat.owner, Xlat.permits, Memory.counted, Memory.served, Memory.cut, hs,
    Memory.setDirty, Req.recs]

/-- A read of LoadReturns that goes and meets no poison. -/
def clearRead (m : Memory) (a z : Nat) : Option (Memory × Nat) :=
  match m.request (BitVec.ofNat 48 a) .rd z 0 with
  | (m, .go pl _) => if m.poisoned pl z || iaReserved (BitVec.ofNat 48 a) then none else some (m, m.get pl z)
  | _ => none

/-- LoadReturns: walks that end at the root, at a child of it, in an invalid node, in no node, with a malformed handle, and
with a fault. -/
theorem witness_walk :
    let o := acc (.walk true) 0 256 16
    let s (l : List Host.Cell) : State := retryRing { access o id with mem := flat l } false
    let root (d : Byte) : List Host.Cell := [(257, 4), (262, d)]
    let node (a : Nat) (n v : Byte) : List Host.Cell := ([(a, n), (a + 8, v), (a + 49, 8)] : List Host.Cell).filter fun c => c.2 != 0
    let at64 (x i : Nat) : Word := BitVec.ofNat 64 (x / 2 ^ (64 * i))
    let pos := o.b.toNat % 2 ^ 32
    let inside (nd : Nat) : Bool := decide (fld (at64 nd 0) 32 32 ≤ pos) && decide (pos - fld (at64 nd 0) 32 32 < fld (at64 nd 0) 0 32)
    let good (hd : Nat) : Bool := fld (at64 hd 0) 48 4 == 0 && fld (at64 hd 0) 58 6 == 0 && decide (1 ≤ fld (at64 hd 0) 52 6) && decide (fld (at64 hd 0) 52 6 ≤ 32)
    let handle (l : List Host.Cell) (P : Memory → Nat → Bool) : Bool :=
      loads (s l) o && ringRoom (s l) && !((s l).core 1).seenElsewhere 11 256 16 && (match clearRead (s l).mem 256 16 with | some r => P r.1 r.2 | none => false)
    let from' (m : Memory) (a : Nat) (P : Memory → Nat → Bool) : Bool := match clearRead m a 64 with | some r => P r.1 r.2 | none => false
    let found (m : Memory) (nd : Nat) : Bool := (at64 nd 1).getLsbD 6 && inside nd && (clearRead m ((fld (at64 nd 6) 0 48 + 8 * ((pos - fld (at64 nd 0) 32 32) / 64)) % 2 ^ 48) 8).isSome
    handle (root 16 ++ node 1024 100 0x40 ++ [(2049, 7)]) (fun m hd => good hd && from' m 1024 found) = true ∧
      handle (root 32 ++ node 1024 0 0x41 ++ [(1040, 64), (1041, 4)] ++ node 1088 100 0x60 ++ [(2049, 7)]) (fun m hd => good hd && decide (2 ≤ fld (at64 hd 0) 52 6) &&
        fld (at64 hd 0) 0 48 == 1024 && fld (at64 hd 1) 0 2 == 0 && from' m 1024 fun m up => (at64 up 1).getLsbD 6 && !inside up && (at64 up 1).getLsbD 0 &&
          fld (at64 up 2) 0 48 == 1088 && from' m 1088 found) = true ∧
      handle (root 16 ++ node 1024 100 0) (fun m hd => good hd && from' m 1024 fun _ nd => !(at64 nd 1).getLsbD 6) = true ∧
      handle (root 16 ++ node 1024 4 0x40) (fun m hd => good hd && fld (at64 hd 0) 52 6 == 1 && from' m 1024 fun _ nd => (at64 nd 1).getLsbD 6 && !inside nd) = true ∧
      handle (root 32 ++ node 1024 4 0x40) (fun m hd => good hd && from' m 1024 fun _ nd => (at64 nd 1).getLsbD 6 && !inside nd && !(at64 nd 1).getLsbD 0) = true ∧
      handle [] (fun _ hd => !good hd) = true ∧
      handle [(261, 0xC0), (262, 16)] (fun _ hd => good hd && iaReserved (BitVec.ofNat 48 (fld (at64 hd 0) 0 48))) = true ∧
      (let h := { s [] with mem := holed (flat []) 2 }; loads h o = true ∧ ringRoom h = true ∧ refuses (h.mem.request 256 .rd 16 0) = true) ∧
      (let f := retryRing (access { o with fault := 2 } id) false; loads f { o with fault := 2 } = true ∧ ringRoom f = true) := by decide +kernel

/-- StorePerforms: stores that their home grants, of a nibble and of a line, one that hits the L1 beside another line, and
one that faults at its home. -/
theorem witness_store_performed :
    let o := acc .store 4 300 1
    let l := acc .store 2 256 128
    let r := { access o id with mem := Memory.reset }
    let hit := access o fun c => { c with l1 := [(256, 5), (128, 7)] }
    o.isNibble = true ∧ stores (access o id) o = true ∧ goes ((access o id).mem.request o.ia .wr 1 0) (fun _ _ => true) = true ∧
      (access o id).loopBack 1 o = none ∧ (access l id).loopBack 1 l = none ∧ r.loopBack 1 o = none ∧
      (hit.core 1).l1Find 300 = some 5 ∧ (hit.core 1).l1Find 129 = some 7 ∧ (hit.core 1).l1Find 0 = none ∧ stores hit o = true ∧
      stores (access l id) l = true ∧ goes ((access l id).mem.request l.ia .wr 128 0) (fun _ pl => pl.key % 16 == 0) = true ∧ l.size % 16 = 0 ∧
      stores r o = true ∧ refuses (r.mem.request o.ia .wr 1 0) = true ∧ homeOf o.ia < (r.mem.request o.ia .wr 1 0).1.homes.length := by
  decide +kernel

/-- AtomicReturns: every opcode of an atomic, of 4 and 8 bytes, fadd, and a nibble. -/
theorem witness_atomic :
    let ok (opc : BitVec 8) (z : Nat) : Bool :=
      let o := acc .amo opc 304 z
      loads (access o id) o && access_plain (access o id) o && goes ((access o id).mem.request o.ia .at z 0)
        (fun m pl => (match pl with | .loc _ => true | _ => false) && !m.poisoned pl z && m.wf)
    ([0x10, 0x11, 0x12, 0x13, 0x14, 0x15, 0x16, 0x17, 0x18, 0x19] : List (BitVec 8)).all (fun n => ok n 4 && ok n 8) = true ∧
      ok 0x1A 4 = true ∧ ok 0x1B 1 = true := by decide +kernel

/-- What a spill access answers, when it succeeds. -/
def answers (a : SpillAns) (P : State → Nat → Bool) : Bool :=
  match a with
  | .ok s x => P s x
  | _ => false

/-- Core 1 with a spill wanted, a count in its area, and VA 0x200000 on mapped to IA 0x200000 on. -/
def spilling (push : Bool) (n : Byte) (h : Byte) : State :=
  { turn 1 0 (fun c => { c with sh := { c.sh with ftb := c.sh.ftb.set 0 ⟨0x200000, 0x20F000, 0x200000, 0xB800000000000000⟩ } })
      (fun q => { q with spill := .wanted push 8 }) with mem := flat (([(0x200000, n), (0x200001, h)] : List Host.Cell).filter fun c => c.2 != 0) }

/-- Core 1 with a refill of VA 0x12000, a range table of one record at VA 0, and the record's V as given. -/
def refilling (v : Bool) : State :=
  { turn 1 0 (fun c =>
      { c with sh := { c.sh with ftb := c.sh.ftb.set 0 ⟨0, 0xF000, 0, 0xB800000000000000⟩, fillptr := 127 }, refill := some ⟨0, [2], 0x12000, .rd⟩ }) id with
    mem := flat ([(0, 1), (34, 1), (41, 0xF0), (42, 1)] ++ if v then [(63, 0xB8)] else []) }

/-- MarkSpillRefill: every mark, a fork, a spill of a call and of a ret at each value of the count, and a refill. -/
theorem witness_mark_spill_refill :
    let mark (sc : Scope) : Bool := stores (access (acc (.mark sc) 0 0 0) id) (acc (.mark sc) 0 0 0)
    let n (b : Bool) (x y : Byte) (m : Nat) (t : Bool) : Bool :=
      let s := spilling b x y
      s.has 1 0 && ((s.core 1).prt 0).mops.isEmpty && ((s.core 1).prt 0).spill == .wanted b 8 && (s.core 1).spa 0 == 0x200000 &&
        answers (s.spillRead 1 0 0x200000) fun s1 v => decide (v = m) && (!t ||
          if b then answers (s1.spillWrite 1 0 (0x200040 + 4 * m) 8) fun s2 w => decide (w = 0) &&
            answers (s2.spillWrite 1 0 0x200000 (m + 1)) fun s3 w => decide (w = 0) && s3.has 1 0
          else answers (s1.spillRead 1 0 (0x200040 + 4 * (m - 1))) fun s2 _ =>
            answers (s2.spillWrite 1 0 0x200000 (m - 1)) fun s3 _ => s3.has 1 0)
    let fill (v : Bool) : Bool :=
      let s := refilling v
      match s.readPinned 1 0 8 with
      | (s1, .ok m false) =>
        match rangeSearch 1 0 0x12 17 s1 0 (m % 65536) with
        | (s2, .found e) => decide (1 < s2.cores.length) && decide (e.attr.getLsbD 63 = v) && decide ((s2.core 1).sh.fillptr = 127)
        | _ => false
      | _ => false
    ([Scope.prt, .core, .clu, .dev, .sys].all mark) = true ∧ stores (access (acc (.fork 3) 0 0 0) id) (acc (.fork 3) 0 0 0) = true ∧
      n true 0xF1 3 1009 false = true ∧ n true 0xF0 3 1008 false = true ∧ n true 0xEF 3 1007 true = true ∧
      n false 0 0 0 false = true ∧ n false 1 0 1 true = true ∧ n false 0xF0 3 1008 true = true ∧
      fill true = true ∧ fill false = true ∧ ((refilling true).core 1).refill = some ⟨0, [2], 0x12000, .rd⟩ ∧ ((refilling true).core 1).rangetab = 0 := by
  decide +kernel

/-- Cluster 0 with handoff queues as given. -/
def queues (s : State) (l : List (Nat × List HqEntry)) : State :=
  let c := s.cluster 0
  { s with clusters := s.clusters.set 0 { c with hq := l.foldl (fun h x => h.set x.1 { hqAt h x.1 with ents := x.2 }) c.hq } }

/-- QueueProbeEvents: an entry that becomes visible behind a visible one, one too young, a partition that waits 4,096
ACLK and one that waits one less; a token of a cycle of two over a full port with a free
reserve entry, with one granted and with one in use, and a token of no cycle. -/
theorem witness_queue_probe :
    let v : HqEntry := ⟨1, 9, true⟩
    let q (n : Nat) : State := queues (g 0) [(63 % 14, [v, ⟨2, n, false⟩])]
    let w (n : Nat) (b : Bool) : State := turn 2 1 id fun r => { r with qwait := some (5, n), probed := b }
    let full : State := queues (w 4096 true) [(5, List.replicate 64 v)]
    let waits (i : Nat) : Core := { Core.empty with prts := Core.empty.prts.set 1 { part with qwait := some (i, 1) } }
    let tk : Probe := ⟨3, 0, .partition 2 1⟩
    let loop : State := { full with cores := full.cores.set 7 (waits 4), probes := [tk] }
    let mark (a b : Bool) : State :=
      let c := loop.cluster 0
      { loop with clusters := loop.clusters.set 0 { c with hq := c.hq.modify 5 fun h => { h with granted := a, reserve := b } } }
    let rest (s : State) : State := { s with probes := s.probes.filter fun x => x.id != tk.id }
    let back (s : State) (l : List (Option Nat)) : Bool :=
      s.probes.find? (fun x => x.id == tk.id) == some tk && (rest s).cycles tk.origin == l && s.sched.graphs.isEmpty
    (hqAt ((q 8).cluster 0).hq 7).ents = [v] ++ ⟨2, 8, false⟩ :: [] ∧ 7 < ((q 8).cluster 0).hq.length ∧ 0 < (q 8).clusters.length ∧
      (w 4096 false).waitsOn (.partition 2 1) = some (5, 4096) ∧ (w 4096 false).has 2 1 = true ∧
      (((w 4096 false).core 2).prt 1).probed = false ∧ (w 4095 false).waitsOn (.partition 2 1) = some (5, 4095) ∧
      (((w 9 true).core 2).prt 1).probed = true ∧
      back loop [some 5] = true ∧ (hqAt (loop.cluster 0).hq 5).granted = false ∧
      (hqAt (loop.cluster 0).hq 5).reserve = false ∧ 5 < (loop.cluster 0).hq.length ∧
      back (mark true false) [some 5] = true ∧ (hqAt ((mark true false).cluster 0).hq 5).granted = true ∧
      back (mark false true) [some 5] = true ∧ (hqAt ((mark false true).cluster 0).hq 5).reserve = true ∧
      back { w 4096 true with probes := [tk] } [] = true ∧ 0 < State.reset.dev.flog.length ∧ 0 < State.reset.dev.flogseq.length := by
  decide +kernel
/-! ### Witnesses: engines, patches, errors, pre-emption -/

/-- An operation of number 5 of partition 11. -/
def op (c : CmdOp) (block : Nat) (ph : OpPhase) : EngineOp :=
  ⟨5, c, 11, 7, ⟨p0, 0, 0, 1, 2, 0, 9⟩, natBytes 128 block, natBytes 128 0, [], 0, true, ph, [], 0, none, 0, 0, 0, [], [], 0, none⟩

/-- Core 1 with one operation, that may start as far as pacing goes. -/
def working (o : EngineOp) : State := turn 1 11 (fun c => { c with ops := [o], opId := 6, paceAge := List.replicate 16 65535 }) id

/-- QueueProbeEvents: a codec engine whose enc has waited 4,096 ACLK for an entry of hq14. -/
theorem witness_codec_probe :
    let o : EngineOp := { op .enc 0 .running with sampled := natBytes 64 (128 + 16 * 2 ^ 32) }
    let s := turn 7 11 (fun c => { c with ops := [o] }) id
    let t : State := { s with clusters := s.clusters.set 0 { s.cluster 0 with codecWait := some (14, 4096) } }
    t.waitsOn (.codec 0) = some (14, 4096) ∧ (t.cluster 0).codecProbed = false ∧ 0 < t.clusters.length := by decide +kernel

/-- A gather of one element of n bytes, from indices at an offset. -/
def gathBlock (n off : Nat) : Nat := 2 ^ 96 + off * 2 ^ 64 + n * 2 ^ 160

/-- EngineOperations: operations that start malformed, out of range, and with neither; that complete, with a status
and without; an mq that releases its sources, and a copyf that has copied. -/
theorem witness_engine :
    let start (o : EngineOp) (eng : Nat) : Bool :=
      ((working o).core 1).startable 1 eng == some o && ((working o).core 1).ops.find? (fun x => x.id == o.id) == some o && o.status == 0
    let range (o : EngineOp) : Bool := o.malformed 1 ((working o).core 1).sh
    let out (o : EngineOp) : Option Nat := o.outOfRange ((working o).core 1).sh
    let comp (o : EngineOp) : Bool :=
      ((working o).core 1).op? 5 == some o && opInOrder ((working o).core 1) o && o.left.isNone && o.parent.isNone && o.phase == .running
    let released (o : EngineOp) : Bool :=
      ((working o).core 1).op? 5 == some o && opInOrder ((working o).core 1) o && o.status == 0 && o.left.isNone && o.parent.isNone &&
        o.phase == .released && decide (o.prt < ((working o).core 1).prts.length)
    start (op (.copy 0) 0 .queued) 0 = true ∧ range (op (.copy 0) 0 .queued) = true ∧
      start (op .gath (gathBlock 4 196605) .queued) 1 = true ∧ range (op .gath (gathBlock 4 196605) .queued) = false ∧
      out (op .gath (gathBlock 4 196605) .queued) = some 196608 ∧
      start (op .gath (gathBlock 4 196604) .queued) 1 = true ∧ out (op .gath (gathBlock 4 196604) .queued) = none ∧
      (start (op .post 0 .queued) 9 = true ∧ range (op .post 0 .queued) = false ∧ out (op .post 0 .queued) = none) ∧
      comp (op .post 0 .running) = true ∧ (op .post 0 .running).posts = true ∧ ((working (op .post 0 .running)).core 1).sh.evq.length < 64 ∧
      comp { op .awalk 0 .running with status := 3 } = true ∧ comp { op (.copyf 0) 0 .running with status := 3 } = true ∧
      comp (op .mq 0 .running) = true ∧ released { op .mq 0 .released with fl := 5 } = true ∧ comp (op .scat 0 .running) = true ∧ ((working (op (.copyf 0) 0 .copied)).core 1).op? 5 = some (op (.copyf 0) 0 .copied) ∧
      ((working (op (.copyf 0) 0 .copied)).core 1).engineLoad 3 = 0 ∧ 1 < (working (op .post 0 .running)).cores.length := by decide +kernel

/-- A job of JOBID 7 in a phase. -/
def job (ph : JobPhase) : Job := ⟨[7], ph, 3, 0, 0x200000, [], 0⟩

/-- Core 1 with a trapped partition 2 of job 7, and a patch of it at the head of the firmware core's engine. -/
def patching (act : Nat) : State :=
  let o := op .patch (7 + 2 * 2 ^ 40 + act * 2 ^ 62) .queued
  let s := turn 1 2 (fun c => { c with job := some (job .running) }) fun q => { q with trap := some ⟨6, 0, 0, 3⟩ }
  { s with cores := s.cores.set 0 { Core.empty with ops := [o], paceAge := List.replicate 16 65535 } }

/-- PatchActs: a patch with each ACT. -/
theorem witness_patch :
    let ok (act : Nat) : Bool :=
      let s := patching act
      let o := op .patch (7 + 2 * 2 ^ 40 + act * 2 ^ 62) .queued
      s.patchHead == some o && (s.core 0).paced 7 && fld (o.dw 0) 62 2 == act && fld (o.dw 0) 40 4 == 2 && o.dw 1 == 0 && !patchStray o.block &&
        s.has 1 2 && (s.core 1).job == some (job .running) && (o.dw 0).setWidth 32 == descJob (job .running).desc && !s.restoring 7 &&
        ((s.core 1).prt 2).trap == some ⟨6, 0, 0, 3⟩ && (match s.whereIs 7 with | .live j => j == 1 | _ => false) &&
        (List.range 12).all (fun i => ((s.core 1).prt i).mops.isEmpty) && (s.core 1).jobOps.isEmpty && (s.graph? 3).isNone
    ok 0 = true ∧ ok 1 = true ∧ ok 2 = true ∧ ok 3 = true := by decide +kernel

/-- ErrorEvents: records with room for them and without, counts at their ends, each structure, a reload, and lost
values of a partition that runs. -/
theorem witness_errors :
    let r : EvRec := ⟨1, 2, 3, 4⟩
    let full (s : State) (n : Nat) : State := { s with cores := s.cores.set 0 { Core.empty with sh := { Core.empty.sh with evq := List.replicate n r } } }
    let s := turn 1 2 (fun c => { c with trapOut := [r] }) id
    let h : State := { g 0 with mem := { Memory.reset with homes := (List.replicate 36 Home.reset).set 35 { Home.reset with recs := [r] } } }
    let n (x : BitVec 32) : State := { g 0 with dev := { (g 0).dev with cecnt := (g 0).dev.cecnt.set 2 x } }
    let site : EccSite := ⟨8, 0, 0, 0, 0⟩
    let crowded : State := { g 0 with mem := { Memory.reset with homes := List.replicate 36 { Home.reset with recs := List.replicate 16 r } } }
    ((full s 63).core 1).trapOut = r :: [] ∧ ((full s 63).core 0).sh.evq.length < 64 ∧ ¬((full s 64).core 0).sh.evq.length < 64 ∧
      (h.mem.home 35).recs = r :: [] ∧ 35 < h.mem.homes.length ∧ (n 1023).dev.cecnt.length = 12 ∧
      (n 1023).dev.cecnt.getD 2 0 + 1 = (n 1023).dev.cethr.getD 2 1024 ∧ (n 0xFFFFFFFF).dev.cecnt.getD 2 0 = 0xFFFFFFFF ∧
      ((g 0).core 1).sh.ftb.length = 128 ∧ 1 < (g 0).cores.length ∧
      ((turn 1 0 (fun c => { c with ftbReload := true }) id).core 1).ftbReload = true ∧
      (let c := (turn 1 0 (fun c => { c with ftbReload := true, job := some (job .running) }) id).core 1;
        c.ftbReload = true ∧ c.job = some (job .running) ∧ c.sh.ftb.length = 128) ∧ 8 ≤ site.code ∧
      16 ≤ (crowded.mem.home (crowded.eccHome site).2).recs.length ∧
      (g 2).has 1 2 = true ∧ (((g 2).core 1).prt 2).started = true ∧ (((g 2).core 1).prt 2).joined = false ∧
      (((g 2).core 1).prt 2).units.length = 25 ∧ (ctxOf 1 2).unitOf 0x18 = some .fd ∧
      ((g 2).dev.coreErrs.filter fun e => e.1 == 1).length < 2 := by decide +kernel

/-- PreemptionEvents: a gang of two that runs, a core of another job, and a member whose T_pre is just over, and not, with
a partition that has not joined, one that has, and one that has with a section open. -/
theorem witness_preemption :
    let m (k : Nat) (ph : JobPhase) (n : Nat) : Core :=
      { Core.empty with
        prts := ((Core.empty.prts.set 0 part).set 1 { part with joined := true, secs := [] }).set 2 { part with joined := true }
        job := some { job ph with node := n } }
    let s (ph : JobPhase) (now : Nat) : State :=
      { State.reset with cores := ((State.reset.cores.set 1 (m 1 ph 0)).set 127 (m 127 ph 0)).set 2 (m 2 ph 1), fclk := now }
    let t := s .preempting
    (s .running 0).cores.length = 128 ∧ ((s .running 0).core 1).job = some (job .running) ∧ ((s .running 0).core 127).job = some (job .running) ∧
      ((s .running 0).core 2).job = some { job .running with node := 1 } ∧ ((s .running 0).core 3).job = none ∧
      (let q (p : Nat) := (((t 0).core 1).prt p);
        (q 0).started = true ∧ (q 0).joined = false ∧ (q 1).started = true ∧ (q 1).joined = true ∧ (q 1).secs = [] ∧
          (q 2).started = true ∧ (q 2).joined = true ∧ (q 2).secs ≠ [] ∧ 2 < ((t 0).core 1).prts.length) ∧
      ((t 0).core 1).job = some (job .preempting) ∧ (t 0).sched.tpre = 20 ∧ (t 32000).now.toNat = 20000 ∧
      (t 31999).now.toNat < 20000 := by decide +kernel
/-! ### An image can be written -/

theorem flatMap_le {α β : Type} (l : List α) (f : α → List β) (n : Nat) (h : ∀ x ∈ l, (f x).length ≤ n) :
    (l.flatMap f).length ≤ l.length * n := by
  induction l with
  | nil => simp
  | cons x l ih =>
    have h1 := h x (by simp)
    have h2 := ih fun y hy => h y (by simp [hy])
    simp only [List.flatMap_cons, List.length_append, List.length_cons]
    rw [Nat.add_mul]
    omega

theorem padTo_le (n : Nat) (bs : List Byte) : (padTo n bs).length ≤ n := by
  simp only [padTo, List.length_take]
  omega

theorem natBytes_length (n x : Nat) : (natBytes n x).length = n := by simp [natBytes]

theorem dwBytes_length (ws : List Word) : (dwBytes ws).length ≤ ws.length * 8 :=
  flatMap_le _ _ _ fun _ _ => by rw [natBytes_length]

/-- Memory that serves every IA below 2^38. -/
def Flat (m : Memory) : Prop := m.homes = (flat []).homes ∧ m.down = 0

theorem flat_request (m : Memory) (ia : Addr) (kind : AccKind) (n : Nat) (job : BitVec 32) (h : Flat m) (ha : ia.toNat < 2 ^ 38) :
    m.request ia kind n job = (m.charge job n, .go (.loc ia.toNat) false) := by
  have hh : homeOf ia < 32 := by
    have : ia.toNat / 2 ^ 44 < 8 := by omega
    simp only [homeOf, this, if_true]
    omega
  have hm : m.home (homeOf ia) = { Home.reset with ranges := [⟨0, 0xFFFFFFFFF000, 0, 0xB000000000000000, false⟩] } := by
    rw [Memory.home, h.1]
    simp only [flat, List.getD_eq_getElem?_getD, List.getElem?_replicate]
    rw [if_pos (by omega)]
    rfl
  have cov : RangeEntry.covers ⟨0, 0xFFFFFFFFF000, 0, 0xB000000000000000, false⟩ (ia.toNat / 4096) = true := by
    have e1 : fld (0 : Word) 12 36 = 0 := by decide
    have e2 : fld (0xFFFFFFFFF000 : Word) 12 36 = 2 ^ 36 - 1 := by decide
    have e3 : bit (0xB000000000000000 : Word) 63 = true := by decide
    have := ia.isLt
    simp only [RangeEntry.covers, e1, e2, e3]
    simp
    omega
  have x1 : m.xlate ia = (m, .ok ⟨.loc ia.toNat, false, true, true, none⟩) := by
    have e1 : fld (0 : Word) 12 36 = 0 := by decide
    have e4 : fld (0 : Word) 12 52 = 0 := by decide
    unfold Memory.xlate
    simp only [hm, List.find?_cons, cov, RangeEntry.place, hh, if_true, e1, e4, Nat.zero_mul, Nat.zero_add, Nat.sub_zero]
    rw [if_neg (by simp), if_neg (by omega)]
    rfl
  have hr : iaReserved ia = false := by
    simp only [iaReserved, decide_eq_false_iff_not]
    omega
  have full (n : Memory) (hn : n.homes = m.homes) (i : Nat) (hi : i ≤ 1) : n.overfull (homeOf ia) i = false := by
    have : n.home (homeOf ia) = m.home (homeOf ia) := by rw [Memory.home, Memory.home, hn]
    have hz : Home.reset.recs.length = 0 := rfl
    simp only [Memory.overfull, this, hm, hz, decide_eq_false_iff_not]
    omega
  have hf : m.recFull (homeOf ia) = false := by simp only [Memory.recFull, hm]; rfl
  have hs : ∀ x : Xlat, x.page = none → x.owner ia = .ok x := by intro x hx; unfold Xlat.owner; rw [hx]
  have ha : m.answer ia kind n job = (m.charge job n, .go (.loc ia.toNat) false) := by
    unfold Memory.answer
    simp only [x1, hf, Bool.false_and, Bool.false_eq_true, ↓reduceIte]
    cases kind <;> simp [hs, Memory.counted, Xlat.permits, Memory.mustHold, hm, Memory.served, Memory.cut, Memory.setDirty, hh, Home.reset]
  unfold Memory.request
  simp only [hr, hf, ha, Req.recs, full (m.charge job n) rfl 0 (by omega), Bool.false_and, Bool.false_eq_true, ↓reduceIte]

theorem flat_write (m : Memory) (ia : Addr) (n x : Nat) (job : BitVec 32) (h : Flat m) (ha : ia.toNat < 2 ^ 38) :
    ∃ t pl c, m.writeIa ia n x job = (t, .go pl c) ∧ Flat t := by
  have e : m.writeIa ia n x job =
      (((m.charge job n).put (.loc ia.toNat) n x).cleanPieces (.loc ia.toNat) n, .go (.loc ia.toNat) false) := by
    rw [Memory.writeIa, flat_request m ia .wr n job h ha]
  exact ⟨_, _, _, e, h.1, h.2⟩

theorem cutAt_lt (f a n : Nat) : ∀ y ∈ cutAt 128 f a n, y.1 < a + n := by
  induction f generalizing a n with
  | zero => intro y hy; simp [cutAt] at hy
  | succ f ih =>
    intro y hy
    cases n with
    | zero => simp [cutAt] at hy
    | succ n =>
      simp only [cutAt, List.mem_cons] at hy
      rcases hy with rfl | hy
      · simp
      · have := ih _ _ y hy
        omega

theorem flat_writeBytes (m : Memory) (ia : Addr) (n x : Nat) (job : BitVec 32) (h : Flat m) (ha : ia.toNat + n < 2 ^ 38) :
    ∃ t pl c, m.writeBytes ia n x job = (t, .go pl c) ∧ Flat t := by
  unfold Memory.writeBytes
  have hl : ∀ y ∈ cutLines ia.toNat n, y.1 < 2 ^ 38 := by
    intro y hy
    have := cutAt_lt _ _ _ y hy
    omega
  generalize cutLines ia.toNat n = l at hl
  have key : ∀ (l : List (Nat × Nat)), (∀ y ∈ l, y.1 < 2 ^ 38) → ∀ (m : Memory) (pl : Place) (c : Bool), Flat m →
      ∃ t pl' c', l.foldl (fun (acc : Memory × Req) (y : Nat × Nat) =>
        match acc with
        | (m, .go _ _) => m.writeIa (BitVec.ofNat 48 y.1) y.2 (x / 2 ^ (8 * (y.1 - ia.toNat)) % 2 ^ (8 * y.2)) job
        | r => r) (m, .go pl c) = (t, .go pl' c') ∧ Flat t := by
    intro l
    induction l with
    | nil => intro _ m pl c h; exact ⟨m, pl, c, rfl, h⟩
    | cons y l ih =>
      intro hl m pl c h
      have hy := hl y (by simp)
      obtain ⟨t, pl', c', e, ht⟩ := flat_write m (BitVec.ofNat 48 y.1) y.2
        (x / 2 ^ (8 * (y.1 - ia.toNat)) % 2 ^ (8 * y.2)) job h (by rw [BitVec.toNat_ofNat]; omega)
      rw [List.foldl_cons]
      simp only [e]
      exact ih (fun z hz => hl z (by simp [hz])) t pl' c' ht
  exact key l hl m _ _ h

theorem flat_writePieces (job : BitVec 32) (ps : List Piece) (hp : ∀ x ∈ ps, x.1 + x.2.length < 2 ^ 38) :
    ∀ (m : Memory), Flat m → ∃ t, writePieces 0 job ps m = some (t, true) := by
  induction ps with
  | nil => intro m _; exact ⟨m, rfl⟩
  | cons y ps ih =>
    obtain ⟨off, bs⟩ := y
    intro m h
    have hy := hp (off, bs) (by simp)
    simp only at hy
    obtain ⟨t, pl, c, e, ht⟩ := flat_writeBytes m (0 + BitVec.ofNat 48 off) bs.length (bytesNat bs) job h
      (by rw [show (0 : Addr) + BitVec.ofNat 48 off = BitVec.ofNat 48 off from BitVec.zero_add _, BitVec.toNat_ofNat]; omega)
    obtain ⟨u, hu⟩ := ih (fun z hz => hp z (by simp [hz])) t ht
    exact ⟨u, by rw [writePieces, e]; exact hu⟩

/-- The core of the image: its job is stopped, and partition 0 has started. -/
def stopped : Core := { Core.empty with prts := Core.empty.prts.set 0 part, job := some { job .hardStop with ria := 0 } }

/-- A piece that ends below 2^38. -/
def Short (x : Piece) : Prop := x.1 + x.2.length < 2 ^ 38

theorem short_mk (a n : Nat) (bs : List Byte) (h : bs.length ≤ n) (ha : a < 2 ^ 36) (hn : n < 2 ^ 36) : Short (a, bs) := by
  unfold Short
  simp only
  omega

/-- Every piece of that image is short. -/
theorem image_short : ∀ x ∈ imagePieces stopped 1 [7] true [] 0, Short x := by
  have wide (f : Partition → List Slot) (p : Nat) (hf : (f (stopped.prt p)).length ≤ 8) :
      ((f (stopped.prt p)).flatMap (wideBytes p)).length ≤ 8 * 1024 :=
    Nat.le_trans (flatMap_le _ _ 1024 fun _ _ => padTo_le _ _) (Nat.mul_le_mul_right _ hf)
  have twelve (f : Partition → List Slot) (hf : ∀ p, (f (stopped.prt p)).length ≤ 8) :
      ((List.range 12).flatMap fun p => (f (stopped.prt p)).flatMap (wideBytes p)).length ≤ 12 * 8192 :=
    flatMap_le (List.range 12) _ _ fun p _ => wide f p (hf p)
  have prt (P : Partition → Prop) (h0 : P part) (h1 : P .empty) (p : Nat) : P (stopped.prt p) := by
    by_cases hp : p < 12
    · by_cases hz : p = 0
      · subst hz; exact h0
      · have e : stopped.prt p = .empty := by
          obtain ⟨n, rfl⟩ : ∃ n, p = n + 1 := ⟨p - 1, by omega⟩
          show (List.replicate 11 Partition.empty).getD n .empty = .empty
          rw [List.getD_eq_getElem?_getD, List.getElem?_replicate, if_pos (by omega)]
          rfl
        rw [e]; exact h1
    · have e : stopped.prt p = .empty := by
        rw [Core.prt, List.getD_eq_getElem?_getD, List.getElem?_eq_none (by simp [stopped, Core.empty]; omega)]
        rfl
      rw [e]; exact h1
  have area (p : Nat) : ∀ x ∈ areaPieces stopped (ctxOf 1 p) p, p < 12 → Short x := by
    intro x hx hp
    have hs : areaSize p ≤ 0xC8000 := by
      unfold areaSize; split
      · decide
      · split <;> decide
    have hb := padTo_le (areaSize p) (areaBytes stopped (ctxOf 1 p) p)
    have ho : ∀ pos, areaOffset p pos ≤ 0x700000 + pos := by
      intro pos; unfold areaOffset; split
      · omega
      · split <;> omega
    have o1 := ho 0
    have o2 := ho 0x8000
    unfold areaPieces at hx
    simp only at hx
    split at hx
    · simp only [List.mem_singleton] at hx
      subst hx; exact short_mk _ _ _ hb (by omega) (by omega)
    · simp only [List.mem_cons, List.not_mem_nil, or_false] at hx
      rcases hx with rfl | rfl
      · exact short_mk _ 0xC8000 _ (by rw [List.length_take]; omega) (by omega) (by decide)
      · exact short_mk _ 0xC8000 _ (by rw [List.length_drop]; omega) (by omega) (by decide)
  have mac (m : BitVec 3) : (cimBytes (stopped.sh.cim m)).length ≤ 256 + 2 * 73728 := by
    have := padTo_le 256 (dwBytes [(stopped.sh.cim m).cfg, at' 0 (stopped.sh.cim m).p0.fmt.toNat ||| at' 4 (stopped.sh.cim m).p1.fmt.toNat |||
      bitAt 8 (stopped.sh.cim m).act])
    simp only [cimBytes, planeBytes, Cells.bytes, List.length_append, List.length_map, List.length_range]
    omega
  have hof := twelve Partition.ofile fun p => prt (fun q => q.ofile.length ≤ 8) (by decide) (by decide) p
  have hxi := twelve Partition.xi fun p => prt (fun q => q.xi.length ≤ 8) (by decide) (by decide) p
  have reg : (regBytes stopped 0).length ≤ 196608 := by
    simp only [regBytes, List.length_map, List.length_range, regEnd, Nat.le_refl]
  have psn : (regPsnBytes stopped).length ≤ 24576 := by
    simp only [regPsnBytes, List.length_map, List.length_range, regEnd]; omega
  have freq (m : List Host.Cell) : (freqBytes (Cells.bytes m 0 2048)).length ≤ 2048 := by
    simp only [freqBytes, Cells.bytes, List.length_mapIdx, List.length_map, List.length_range, Nat.le_refl]
  have evq : (evqBytes stopped.sh).length ≤ 4096 := by
    have := padTo_le 2048 (stopped.sh.evq.flatMap fun r => natBytes 32 r.nat)
    have e : (natBytes 8 stopped.sh.evqstat.toNat).length = 8 := natBytes_length _ _
    have z : (zeros 1016).length = 1016 := List.length_replicate
    rw [evqBytes, List.length_append, List.length_append, e, z]
    exact Nat.add_le_add_right (Nat.add_le_add_right this 8) 1016 |>.trans (by decide)
  have views : (stopped.prts.flatMap fun q => dwBytes q.views).length ≤ 1000 := by decide +kernel
  have sema : (stopped.sh.sema.flatMap fun x => natBytes 4 (x.val.toNat + (if x.ovf then 65536 else 0))).length ≤ 1024 := by decide +kernel
  have pcb : ((List.range 12).flatMap fun p => pcbBytes stopped p).length ≤ 5000 := by decide +kernel
  have fly : (padTo 16 (natBytes 4 stopped.xfly.length) ++ stopped.xfly.flatMap exchangeBytes).length ≤ 16 := by decide +kernel
  have head : (imageHeader stopped [7] true ([] : List Nat).length).length ≤ 256 := padTo_le _ _
  intro x hx
  rw [imagePieces] at hx
  simp only [List.mem_append, List.mem_cons, List.not_mem_nil, or_false, List.zipIdx_nil, List.map_nil, List.mem_flatMap,
    List.mem_map, List.mem_range] at hx
  rcases hx with ((hx | hx) | hx) | hx
  · rcases hx with hx | hx | hx | hx | hx | hx | hx | hx <;> rw [hx]
    · exact short_mk _ _ _ head (by decide) (by decide)
    · exact short_mk _ _ _ views (by decide) (by decide)
    · exact short_mk _ _ _ sema (by decide) (by decide)
    · exact short_mk _ _ _ pcb (by decide) (by decide)
    · exact short_mk _ _ _ evq (by decide) (by decide)
    · exact short_mk _ _ _ hof (by decide) (by decide)
    · exact short_mk _ _ _ reg (by decide) (by decide)
    · exact short_mk _ _ _ psn (by decide) (by decide)
  · obtain ⟨p, hp, hx⟩ := hx
    exact area p x hx hp
  · obtain ⟨m, hm, rfl⟩ := hx
    have h8 : (ctxOf 1 0).macroCount = 8 := by decide
    exact short_mk _ _ _ (mac (BitVec.ofNat 3 m)) (by omega) (by decide)
  · rcases hx with hx | hx | hx | hx <;> rw [hx]
    · exact short_mk _ _ _ (freq _) (by decide) (by decide)
    · exact short_mk _ _ _ (freq _) (by decide) (by decide)
    · exact short_mk _ _ _ hxi (by decide) (by decide)
    · exact short_mk _ _ _ fly (by decide) (by decide)
/-! ### Witnesses: the bytes that engines move -/

/-- An FTB entry that maps the VAs below 2^38 to the IAs of the same number. -/
def ioEntry : FtbEntry := ⟨0, 0x3FFFFFF000, 0, 0xB800000000000000⟩

/-- Core 1 with one operation over flat memory. -/
def engine (o : EngineOp) (cells : List Host.Cell) (f : Core → Core) : State :=
  let s := turn 1 11 (fun c => f { c with
    ops := [o], opId := 6, paceAge := List.replicate 16 65535, sh := { c.sh with ftb := c.sh.ftb.set 0 ioEntry } }) id
  { s with mem := flat cells }

/-- A read and a write of bytes of one line by an engine of core k that memory serves. -/
def engReads (s : State) (k : Nat) (m : Memory) (va n : Nat) (P : Memory → Nat → Bool) : Bool :=
  match ftbLookup (s.core k).sh.ftb (BitVec.ofNat 48 va) .rd with
  | .ok ia _ => !(s.core k).ftbReload && decide (0 < n) && decide (va % 128 + n ≤ 128) &&
      goes (m.request ia .rd n (s.core k).jobId) fun m pl => !m.poisoned pl n && P m (m.get pl n)
  | _ => false
def engWrites (s : State) (m : Memory) (va n : Nat) : Bool :=
  match ftbLookup (s.core 1).sh.ftb (BitVec.ofNat 48 va) .wr with
  | .ok ia _ => decide (0 < n) && decide (va % 128 + n ≤ 128) && goes (m.request ia .wr n (s.core 1).jobId) fun _ _ => true
  | _ => false

/-- The premises on an operation that runs. -/
def runs (s : State) (o : EngineOp) : Bool :=
  (s.core 1).op? 5 == some o && o.id == 5 && o.phase == .running && o.status == 0 && opInOrder (s.core 1) o && o.left.isNone && o.parent.isNone &&
    !(s.core 1).ftbReload && decide (1 < s.cores.length)

/-- The premises on an operation that starts. -/
def starts (s : State) (o : EngineOp) (eng : Nat) : Bool :=
  (s.core 1).startable 1 eng == some o && (s.core 1).ops.find? (fun x => x.id == o.id) == some o && !o.malformed 1 (s.core 1).sh &&
    (o.outOfRange (s.core 1).sh).isNone && o.left.isNone && !(s.core 1).ftbReload && decide (1 < s.cores.length)

/-- EngineOperations: copies of 32 bytes between two kinds, and of several runs of 32 bytes that overlap. -/
theorem witness_copy :
    let blk (sk dk n n1 n2 : Nat) (st : Int) : Nat := 256 + sk * 2 ^ 62 + (512 + dk * 2 ^ 62) * 2 ^ 64 + (n + n1 * 2 ^ 32 + n2 * 2 ^ 48) * 2 ^ 128 +
      (BitVec.ofInt 32 st).toNat * (2 ^ 32 + 1) * (2 ^ 192 + 2 ^ 256)
    let one (sk dk : Nat) : Bool :=
      let o := op (.copy 0) (blk sk dk 32 0 0 0) .running
      let s := engine o [(300, 9)] id
      let h := (s.core 1).sh
      let puts (m : Memory) : Bool := dk != 0 || engWrites s m 512 32
      runs s o && fld (o.dw 2) 32 32 == 0 && (if sk = 0 then engReads s 1 s.mem 256 32 fun m _ => puts m else puts s.mem) && !csPoisoned h 256 32 &&
        (List.range 32).all fun i => Cells.byte h.regPsn (256 + i) == 0
    let more (d : Fin 3) (sk dk n1 n2 : Nat) (st : Int) : Bool :=
      let o := op (.copy d) (blk sk dk 32 n1 n2 st) .running
      let s := engine o [] id
      runs s o && (s.core 1).sh.csPsn.isEmpty && (s.core 1).sh.regPsn.isEmpty &&
        (List.range (max n1 1)).all fun i => (List.range (max n2 1)).all fun j =>
          let a : Int := 256 + i * st + j * st
          decide (0 ≤ a) && decide (a % 128 + 32 ≤ 128) && decide ((a + 256) % 128 + 32 ≤ 128)
    [0, 1, 2].all (fun sk => [0, 1, 2].all (one sk)) = true ∧ more 1 1 2 3 0 (-32) = true ∧ more 1 2 1 4 0 16 = true ∧
      more 1 1 2 4 0 32 = true ∧ more 2 1 2 2 2 32 = true ∧ more 2 2 1 2 3 32 = true := by decide +kernel

/-- EngineOperations: a gather of two elements, the second of which is another, and a scatter of one. -/
theorem witness_gather :
    let blk (n : Nat) : Nat := 256 + n * 2 ^ 96 + (512 + 8 * 2 ^ 32) * 2 ^ 128 + 16 * 2 ^ 192
    let o : EngineOp := { op .gath (blk 2) .running with sampled := natBytes 8 (3 + 5 * 2 ^ 32) }
    let p : EngineOp := { op .scat (blk 1) .running with sampled := natBytes 4 3 }
    let s := engine o [(304, 9)] id
    let t := engine p [] id
    runs s o = true ∧ fld (o.dw 1) 32 32 = 2 ∧ fld (o.dw 2) 32 32 = 8 ∧
      engReads s 1 s.mem (256 + 3 * 16) 8 (fun m x => x == 9 && engReads s 1 m (256 + 5 * 16) 8 fun _ _ => true) = true ∧
      runs t p = true ∧ engWrites t t.mem (256 + 3 * 16) 8 = true ∧ (t.core 1).sh.regPsn = [] := by decide +kernel

/-- EngineOperations: the walk of a position in the root, of an invalid node, and with a malformed handle. -/
theorem witness_awalk :
    let o := op .awalk (256 + 2 ^ 96 + 512 * 2 ^ 128) .running
    let s (l : List Host.Cell) : State := engine o l id
    let root : List Host.Cell := [(257, 4), (262, 16)]
    let at64 (x i : Nat) : Word := BitVec.ofNat 64 (x / 2 ^ (64 * i))
    let good (hd : Nat) : Bool := fld (at64 hd 0) 48 4 == 0 && fld (at64 hd 0) 58 6 == 0 && decide (1 ≤ fld (at64 hd 0) 52 6) && decide (fld (at64 hd 0) 52 6 ≤ 32)
    let gets (m : Memory) (a n : Nat) (P : Memory → Nat → Bool) : Bool :=
      !iaReserved (BitVec.ofNat 48 a) && goes (m.request (BitVec.ofNat 48 a) .rd n 0) fun m pl => !m.poisoned pl n && P m (m.get pl n)
    let walks (l : List Host.Cell) (P : Memory → Nat → Bool) : Bool :=
      runs (s l) o && fld (o.dw 1) 32 32 == 1 && engReads (s l) 1 (s l).mem (fld (o.dw 0) 0 48) 16 P
    walks [] (fun _ hd => !good hd) = true ∧
      walks root (fun m hd => good hd && fld (at64 hd 0) 0 48 == 1024 && gets m 1024 64 fun _ nd => !(at64 nd 1).getLsbD 6) = true ∧
      walks (root ++ [(1024, 100), (1032, 0x40), (1073, 8)]) (fun m hd => good hd && gets m 1024 64 fun m nd =>
        (at64 nd 1).getLsbD 6 && fld (at64 nd 0) 32 32 == 0 && decide (0 < fld (at64 nd 0) 0 32) && fld (at64 nd 6) 0 48 == 2048 && gets m 2048 8 fun _ _ => true) = true := by
  decide +kernel

/-- EngineOperations: a collective that starts, one released, and a reduction and a broadcast of two members. -/
theorem witness_collective :
    let blk (e : Nat) : Nat := 4096 + 4 * 2 ^ 96 + 256 * 2 ^ 64 + e * 2 ^ 128
    let member (r : Nat) : Option Job := some { job .running with desc := [BitVec.ofNat 64 (7 + 2 ^ 52 + r * 2 ^ 58)] }
    let one (c : CmdOp) (e : Nat) : Bool :=
      let o := op c (blk e) .queued
      let s := engine o [] fun c => { c with job := member 0 }
      starts s o 2 && (s.core 1).job == member 0 && engWrites s s.mem 4224 (4 * if e % 16 = 0xB then 2 else 4) && (s.core 1).sh.regPsn.isEmpty
    let two (c : CmdOp) (e : Nat) : Bool :=
      let o := op c (blk e) .running
      let s := engine o [] fun c => { c with job := member 0 }
      let d := s.core 1
      let t : State := { s with cores := s.cores.set 2 { d with job := member 1 } }
      let z := if e % 16 = 0xB then 2 else 4
      let rd (k : Nat) (m : Memory) (r : Nat) (P : Memory → Bool) : Bool := engReads t k m (4224 + 128 * r) (4 * z) fun m _ => P m
      runs t o && t.gangCores 1 == [(1, 0), (2, 1)] && descSize ((member 0).getD (job .running)).desc == 2 && d.collPeer 1 o == some o &&
        (t.core 2).collPeer 2 o == some o && (t.core 2).op? 5 == some o && (t.collForm 1 o).isSome && decide (2 < t.cores.length) &&
        if c = .cred then rd 1 t.mem 0 fun m => rd 1 m 1 fun m => rd 2 m 0 fun m => rd 2 m 1 fun _ => true
        else decide (fld (o.dw 2) 8 6 < 2) && rd 1 t.mem (fld (o.dw 2) 8 6) fun m => rd 2 m (fld (o.dw 2) 8 6) fun _ => true
    let r : EngineOp := { op .cred (blk 5) .released with outs := [1, 2, 3] }
    let s := engine r [] id
    one .cred 5 = true ∧ one .cred 0x2B = true ∧ one .cbc 0x109 = true ∧ two .cred 0x05 = true ∧ two .cred 0x16 = true ∧ two .cred 0x2B = true ∧
      two .cred 0x09 = true ∧ two .cbc 0x105 = true ∧ two .cbc 0x00B = true ∧
      (s.core 1).op? 5 = some r ∧ opInOrder (s.core 1) r = true ∧ r.status = 0 ∧ r.left = none ∧ r.parent = none := by decide +kernel

/-- EngineOperations: a fill whose line translates and one whose line is denied, an evict and a wback that start; and each as it
completes, of a slot that backs a dirty line, a clean one, and none. -/
theorem witness_tag_engine :
    let s (c : CmdOp) (ph : OpPhase) (e : TagEntry) : State := engine (op c 256 ph) [(256, 7)] fun c => { c with sh := { c.sh with tags := if e = .zero then [] else [(9, e)] } }
    let slot (st : State) : TagEntry := tagGet (st.core 1).sh.tags 9
    let denied := engine (op .fill 256 .queued) [] fun c => { c with sh := { c.sh with ftb := c.sh.ftb.set 0 { ioEntry with attr := 0x9800000000000000 } } }
    let dirty : TagEntry := ⟨true, false, true, true, 0, true⟩
    let filling : EngineOp := { op .fill 256 .running with ia := 256 }
    let f := engine filling [(256, 7)] id
    starts (s .fill .queued .zero) (op .fill 256 .queued) 8 = true ∧
      ftbLookup ((s .fill .queued .zero).core 1).sh.ftb (BitVec.ofNat 48 (fld ((op .fill 256 .queued).dw 0) 7 41 * 128)) .rd = .ok 256 0 ∧
      starts denied (op .fill 256 .queued) 8 = true ∧ ftbLookup (denied.core 1).sh.ftb 256 .rd = .fault stFperm ∧
      starts (s .evict .queued .zero) (op .evict 256 .queued) 8 = true ∧ starts (s .wback .queued .zero) (op .wback 256 .queued) 8 = true ∧
      (runs f filling = true ∧ goes (f.mem.request 256 .rd 128 0) (fun m pl => !m.poisoned pl 128) = true) ∧
      [CmdOp.evict, .wback].all (fun c => runs (s c .running dirty) (op c 256 .running) && slot (s c .running dirty) == dirty &&
        goes ((s c .running dirty).mem.request 0 .wr 128 0) (fun _ _ => true) &&
        runs (s c .running { dirty with dirty := false }) (op c 256 .running) && runs (s c .running .zero) (op c 256 .running)) = true := by decide +kernel
/-- The state of an engine of core 1 whose accesses below 2^38 are all served. -/
structure Io (s : State) : Prop where
  mem : Flat s.mem
  ftb : ∃ l, (s.core 1).sh.ftb = ioEntry :: l
  free : (s.core 1).ftbReload = false
  has : 1 < s.cores.length

theorem io_xlate {s : State} (h : Io s) (va : Addr) (kind : AccKind) (hv : va.toNat < 2 ^ 38) : s.engXlate 1 va kind = .ok s va := by
  obtain ⟨l, hl⟩ := h.ftb
  have e1 : fld (0 : Word) 12 36 = 0 := by decide
  have e2 : fld (0x3FFFFFF000 : Word) 12 36 = 2 ^ 26 - 1 := by decide
  have e3 : bit (0xB800000000000000 : Word) 63 = true := by decide
  have cov : ioEntry.covers (va.toNat / 4096) = true := by
    simp only [FtbEntry.covers, ioEntry, e1, e2, e3]
    simp
    omega
  have den : ioEntry.denies kind = false := by cases kind <;> decide
  have em : ioEntry.map va = va := by
    apply BitVec.eq_of_toNat_eq
    simp only [FtbEntry.map, ioEntry, e1, BitVec.toNat_ofNat]
    omega
  have hr : iaReserved va = false := by
    simp only [iaReserved, decide_eq_false_iff_not]
    omega
  have lk : ∃ p, ftbLookup (s.core 1).sh.ftb va kind = .ok va p := by
    refine ⟨BitVec.ofNat 2 (fld ioEntry.attr 57 2), ?_⟩
    rw [hl, ftbLookup, List.find?_cons, cov]
    simp only [den, em, hr, Bool.false_eq_true, ↓reduceIte]
  obtain ⟨p, hp⟩ := lk
  unfold State.engXlate
  simp [h.free, hp]

/-- Core 1 may change but for its FTB. -/
theorem io_modCore {s : State} {m : Memory} {f : Core → Core} (h : Io s) (hm : Flat m) (hs : ∀ c, (f c).sh = c.sh)
    (hf : ∀ c, (f c).ftbReload = c.ftbReload) : Io (({ s with mem := m } : State).modCore 1 f) := by
  have e : ((({ s with mem := m } : State).modCore 1 f).core 1) = f (s.core 1) := core_modCore_same h.has f
  exact ⟨hm, by rw [e, hs]; exact h.ftb, by rw [e, hf]; exact h.free, by simpa [State.modCore, State.setCore] using h.has⟩

theorem noteOwn_kept (c : Core) (line : Nat) (pl : Place) (ca : Bool) :
    ((c.l1Drop line).noteOwn pl ca).sh = c.sh ∧ ((c.l1Drop line).noteOwn pl ca).ftbReload = c.ftbReload := by
  unfold Core.noteOwn
  split <;> exact ⟨rfl, rfl⟩

/-- One line: a write, an update, and the asking of its home. -/
theorem io_line {s : State} (h : Io s) (va : Addr) (n : Nat) (hv : va.toNat < 2 ^ 38) :
    (∀ bs : Flagged, ∃ t, s.engPut 1 va bs = .ok t () ∧ Io t) ∧ (∀ f, ∃ t, s.engUpdate 1 va n f = .ok t () ∧ Io t) ∧
      ∃ t, s.engAskLine 1 va n = .ok t () ∧ Io t := by
  refine ⟨fun bs => ?_, fun f => ?_, ?_⟩
  · obtain ⟨t, pl, ca, e, ht⟩ := flat_write s.mem va bs.length (bytesNat (bs.map Prod.fst)) (s.core 1).jobId h.mem hv
    unfold State.engPut
    simp only [io_xlate h va .wr hv, EngAns.bind, e]
    refine ⟨_, rfl, io_modCore h ?_ (fun c => (noteOwn_kept c _ pl ca).1) fun c => (noteOwn_kept c _ pl ca).2⟩
    refine List.foldlRecOn _ _ (motive := Flat) ht fun m hm y _ => ?_
    split
    · unfold Memory.poisonPieces
      split <;> exact hm
    · exact hm
  · unfold State.engUpdate
    simp only [io_xlate h va .wr hv, EngAns.bind, flat_request _ _ _ _ _ h.mem hv]
    exact ⟨_, rfl, io_modCore h ⟨h.mem.1, h.mem.2⟩ (fun c => (noteOwn_kept c _ _ _).1) fun c => (noteOwn_kept c _ _ _).2⟩
  · unfold State.engAskLine
    simp only [io_xlate h va .wr hv, EngAns.bind, flat_request _ _ _ _ _ h.mem hv]
    exact ⟨_, rfl, ⟨h.mem.1, h.mem.2⟩, h.ftb, h.free, h.has⟩

/-- Accesses one after another. -/
theorem io_fold {α : Type} (f : State → α → EngAns Unit) (l : List α) (hf : ∀ s, ∀ y ∈ l, Io s → ∃ t, f s y = .ok t () ∧ Io t) :
    ∀ s, Io s → ∃ t, l.foldl (fun (acc : EngAns Unit) y => acc.bind fun s _ => f s y) (.ok s ()) = .ok t () ∧ Io t := by
  induction l with
  | nil => intro s h; exact ⟨s, rfl, h⟩
  | cons y l ih =>
    intro s h
    obtain ⟨t, e, ht⟩ := hf s y (by simp) h
    obtain ⟨u, eu, hu⟩ := ih (fun s z hz => hf s z (by simp [hz])) t ht
    exact ⟨u, by simp only [List.foldl_cons, EngAns.bind, e]; exact eu, hu⟩

theorem cut_short {va n : Nat} (h : va + n < 2 ^ 38) : ∀ y ∈ cutLines va n, (BitVec.ofNat 48 y.1).toNat < 2 ^ 38 := by
  intro y hy
  have := cutAt_lt _ _ _ y hy
  rw [BitVec.toNat_ofNat]
  omega

theorem io_writeLine {s : State} (h : Io s) (va : Addr) (n x : Nat) (hv : va.toNat < 2 ^ 38) : ∃ t, s.engWriteLine 1 va n x = .ok t () ∧ Io t := by
  unfold State.engWriteLine
  generalize (natBytes n x).map (fun b => (b, false)) = bs
  exact (io_line h va n hv).1 bs

theorem io_write {s : State} (h : Io s) (va n x : Nat) (hv : va + n < 2 ^ 38) : ∃ t, s.engWrite 1 va n x = .ok t () ∧ Io t := by
  unfold State.engWrite
  have hl := cut_short hv
  generalize cutLines va n = l at hl
  exact io_fold _ l (fun s y hy hs => io_writeLine hs _ y.2 _ (hl y hy)) s h

theorem io_ask {s : State} (h : Io s) (va n x : Nat) (hv : va + n < 2 ^ 38) : ∃ t, s.engAsk 1 va n x = .ok t () ∧ Io t := by
  unfold State.engAsk
  have hl := cut_short hv
  generalize cutLines va n = l at hl
  exact io_fold _ l (fun s y hy hs => (io_line hs _ y.2 (hl y hy)).2.2) s h

/-- A clean read of memory without poison. -/
theorem io_read {s : State} (h : Io s) (hp : s.mem.psn = []) (va n : Nat) (hv : va + n < 2 ^ 38) :
    ∃ t x, s.engReadClean 1 va n = .ok t x ∧ Io t ∧ t.mem.psn = [] := by
  have line : ∀ s : State, Io s → s.mem.psn = [] → ∀ (a : Addr) (m : Nat), a.toNat < 2 ^ 38 →
      ∃ t x, s.engReadLine 1 a m = .ok t (x, false) ∧ Io t ∧ t.mem.psn = [] := by
    intro s h hp a m ha
    unfold State.engReadLine Memory.readIa
    simp only [io_xlate h a .rd ha, EngAns.bind, flat_request _ _ _ _ _ h.mem ha]
    have e : (s.mem.charge (s.core 1).jobId m).poisoned (.loc a.toNat) m = false := by
      simp [Memory.poisoned, Memory.charge, hp, Cells.anyIn]
    simp only [e]
    exact ⟨_, _, rfl, ⟨⟨h.mem.1, h.mem.2⟩, h.ftb, h.free, h.has⟩, hp⟩
  have key : ∀ (l : List (Nat × Nat)), (∀ y ∈ l, (BitVec.ofNat 48 y.1).toNat < 2 ^ 38) → ∀ (s : State) (x : Nat), Io s → s.mem.psn = [] →
      ∃ t y, l.foldl (fun (acc : EngAns (Nat × Bool)) (z : Nat × Nat) => acc.bind fun s x =>
        (s.engReadLine 1 (BitVec.ofNat 48 z.1) z.2).bind fun s y => .ok s (x.1 + y.1 * 2 ^ (8 * (z.1 - va)), x.2 || y.2)) (.ok s (x, false)) =
          .ok t (y, false) ∧ Io t ∧ t.mem.psn = [] := by
    intro l
    induction l with
    | nil => intro _ s x h hp; exact ⟨s, x, rfl, h, hp⟩
    | cons y l ih =>
      intro hl s x h hp
      obtain ⟨t, z, e, ht, hq⟩ := line s h hp _ y.2 (hl y (by simp))
      obtain ⟨u, w, eu, hu⟩ := ih (fun y hy => hl y (by simp [hy])) t (x + z * 2 ^ (8 * (y.1 - va))) ht hq
      exact ⟨u, w, by simp only [List.foldl_cons, EngAns.bind, e, Bool.or_false]; exact eu, hu⟩
  obtain ⟨t, x, e, ht⟩ := key (cutLines va n) (cut_short hv) s 0 h hp
  refine ⟨t, x, ?_, ht⟩
  have e' : s.engRead 1 va n = .ok t (x, false) := e
  simp [State.engReadClean, e', EngAns.bind]

theorem cutAt_size (z f a n : Nat) (hz : 0 < z) : ∀ y ∈ cutAt z f a n, y.2 ≤ z - y.1 % z := by
  induction f generalizing a n with
  | zero => intro y hy; simp [cutAt] at hy
  | succ f ih =>
    intro y hy
    cases n with
    | zero => simp [cutAt] at hy
    | succ n =>
      simp only [cutAt, List.mem_cons] at hy
      rcases hy with rfl | hy
      · exact Nat.min_le_right _ _
      · exact ih _ _ y hy

/-- A writer that succeeds below 2^38. -/
def Able (put : VaWriter) : Prop := ∀ (s : State) (va n x : Nat), Io s → va + n < 2 ^ 38 → ∃ t, put s 1 va n x = .ok t () ∧ Io t

theorem able_write : Able State.engWrite := fun _ va n x h hv => io_write h va n x hv
theorem able_ask : Able State.engAsk := fun _ va n x h hv => io_ask h va n x hv

theorem io_ring {put : VaWriter} (hp : Able put) {s : State} (h : Io s) (base size off : Nat) (bs : List Byte) (hs : 0 < size)
    (hb : base + size < 2 ^ 38) : ∃ t, s.ringWrite put 1 base size off bs = .ok t () ∧ Io t := by
  refine io_fold (fun s (y : Nat × Nat) => put s 1 (base + y.1 % size) y.2 (bytesNat ((bs.drop (y.1 - off)).take y.2))) _ ?_ s h
  intro s y hy hs'
  have h1 := cutAt_size _ _ _ _ hs y hy
  have h2 := Nat.mod_lt y.1 hs
  exact hp s _ _ _ hs' (by omega)
/-- A session of 16 x 16 samples of 8 bits, an enc that has popped its entries into the ring that a descriptor names, and a
dec. -/
def session : List Byte := natBytes 64 (16 + 16 * 2 ^ 32 + 0x10000 * 2 ^ 128)
def encoding (aux : Nat) : EngineOp :=
  { op .enc (0x4000 + 0x5000 * 2 ^ 64 + aux * 2 ^ 128 + 7 * 2 ^ 192) .running with
    sampled := session, luma := List.replicate 16 0, chroma := List.replicate 8 0 }
def decoding : EngineOp :=
  { op .dec (0x4000 + 0x6000 * 2 ^ 64 + 0x100000 * 2 ^ 128 + (7 + 100 * 2 ^ 32) * 2 ^ 192) .running with sampled := session }
def ringCells (big : Bool) : List Host.Cell := [(0x5002, 0x10)] ++ if big then [(0x500C, 0x10)] else []

theorem io_engine (o : EngineOp) (cells : List Host.Cell) : Io (engine o cells id) :=
  ⟨⟨rfl, rfl⟩, ⟨List.replicate 127 ⟨0, 0, 0, 0⟩, by rfl⟩, by rfl, by rw [engine, turn]; simp [State.reset]⟩

/-- The work of an enc whose reads are answered, in a ring of 2^36 bytes at 0x100000 that is empty. -/
theorem io_encode {s s1 s2 s3 : State} {o : EngineOp} {d q r : Nat} (e1 : s.engReadClean 1 (fld (o.dw 1) 0 48) 32 = .ok s1 d)
    (e2 : (if fld (o.dw 2) 0 48 = 0 then EngAns.ok s1 0 else s1.engReadClean 1 (fld (o.dw 2) 0 48)
        ((sessWidth o.sampled + 63) / 64 * ((sessHeight o.sampled + 63) / 64))) = .ok s2 q)
    (e3 : s2.engReadClean 1 (sessRef o.sampled) (sessRefBytes o.sampled) = .ok s3 r) (i3 : Io s3)
    (b0 : fld (blockDw (natBytes 32 d) 0) 0 48 = 0x100000) (b1 : (blockDw (natBytes 32 d) 1).toNat = 2 ^ 36)
    (b2 : (blockDw (natBytes 32 d) 2).toNat = 0) (b3 : (blockDw (natBytes 32 d) 2 - blockDw (natBytes 32 d) 3).toNat = 0)
    (hr : sessRef o.sampled + sessRefBytes o.sampled < 2 ^ 37) (h1 : fld (o.dw 1) 0 48 < 2 ^ 37) (h0 : fld (o.dw 0) 0 48 < 2 ^ 37)
    (hpx : (sessSamples o.sampled (entryBytes (o.luma ++ o.chroma))).length < 2 ^ 32) : ∃ a v, s.encode State.engAsk 1 o = .ok a v := by
  unfold State.encode
  simp only [e1, EngAns.bind, e2, e3, b0, b1, b2, b3, Nat.zero_add]
  generalize o.encTask _ _ = task
  have hpay := Config.codec.short task _ hpx
  generalize Config.codec.enc task _ = pay at hpay
  have hau : (accessUnit o.fnum (sessIsKey o.sampled o.fnum.toNat) pay).length = 16 + pay.length + (16 - pay.length % 16) % 16 := by
    simp only [accessUnit, List.length_append, natBytes_length, List.length_replicate]
  generalize accessUnit o.fnum (sessIsKey o.sampled o.fnum.toNat) pay = au at hau
  rw [if_neg (by omega)]
  obtain ⟨t4, f4, j4⟩ := io_ring able_ask i3 0x100000 (2 ^ 36) 0 au (by omega) (by omega)
  obtain ⟨t5, f5, j5⟩ := io_ask j4 (sessRef o.sampled) (sessRefBytes o.sampled) (bytesNat ((Config.codec.encRef task
    (sessSamples o.sampled (entryBytes (o.luma ++ o.chroma)))).take (sessRefBytes o.sampled))) (by omega)
  obtain ⟨t6, f6, j6⟩ := io_ask j5 (fld (o.dw 1) 0 48 + 16) 8 (au.length % 2 ^ 64) (by omega)
  obtain ⟨t7, f7, j7⟩ := io_ask j6 (fld (o.dw 0) 0 48 + 24) 8 o.fnum.toNat (by omega)
  simp only [f4, f5, f6, f7]
  exact ⟨_, _, rfl⟩

/-- EngineOperations: an enc, with a QP map and without, into a ring that has no room and one that has room for any payload. -/
theorem witness_enc (aux : Nat) (ha : aux = 0 ∨ aux = 0x8000) (big : Bool) :
    let o := encoding aux
    let s := engine o (ringCells big) id
    runs s o = true ∧ o.op = .enc ∧ o.popping = false ∧ s.codecRetired 1 = false ∧ fld (o.dw 2) 0 48 = aux ∧
      ∃ s1 s2 s3 d q r, s.engReadClean 1 (fld (o.dw 1) 0 48) 32 = .ok s1 d ∧
        (if aux = 0 then s2 = s1 ∧ q = 0 else s1.engReadClean 1 aux 1 = .ok s2 q) ∧
        s2.engReadClean 1 (sessRef session) (sessRefBytes session) = .ok s3 r ∧
        let w (i : Nat) : Word := BitVec.ofNat 64 (d / 2 ^ (64 * i))
        let task := o.encTask (natBytes (sessRefBytes session) r) (if aux = 0 then none else some (natBytes 1 q))
        let px := sessSamples session (entryBytes (o.luma ++ o.chroma))
        let pay := Config.codec.enc task px
        let au := natBytes 8 (pay.length % 2 ^ 32 + o.fnum.toNat * 2 ^ 32) ++ natBytes 8 (if sessIsKey session o.fnum.toNat then 1 else 0) ++ pay ++
          List.replicate ((16 - pay.length % 16) % 16) 0
        let full : Prop := (w 1).toNat < (w 2 - w 3).toNat + au.length
        (big = false → full ∧ ∃ s4, s3.engWrite 1 (fld (o.dw 0) 0 48 + 28) 4 1 = .ok s4 ()) ∧
        (big = true → ¬full ∧ (w 2).toNat % (w 1).toNat + au.length ≤ (w 1).toNat ∧ ∃ a v s4 s5 s6 s7, s.encode State.engAsk 1 o = .ok a v ∧
          s3.engWrite 1 (fld (w 0) 0 48 + (w 2).toNat % (w 1).toNat) au.length (bytesNat au) = .ok s4 () ∧
          s4.engWrite 1 (sessRef session) (sessRefBytes session) (bytesNat ((Config.codec.encRef task px).take (sessRefBytes session))) = .ok s5 () ∧
          s5.engWrite 1 (fld (o.dw 1) 0 48 + 16) 8 (((w 2).toNat + au.length) % 2 ^ 64) = .ok s6 () ∧
          s6.engWrite 1 (fld (o.dw 0) 0 48 + 24) 8 o.fnum.toNat = .ok s7 ()) := by
  intro o s
  have hd1 : fld (o.dw 1) 0 48 = 0x5000 := by rcases ha with rfl | rfl <;> decide +kernel
  have hd0 : fld (o.dw 0) 0 48 = 0x4000 := by rcases ha with rfl | rfl <;> decide +kernel
  have hd2 : fld (o.dw 2) 0 48 = aux := by rcases ha with rfl | rfl <;> decide +kernel
  have hr : sessRef session = 0x10000 := by decide +kernel
  have hz : sessRefBytes session = 768 := by decide +kernel
  have hq : (sessWidth session + 63) / 64 * ((sessHeight session + 63) / 64) = 1 := by decide +kernel
  have hpx : (sessSamples session (entryBytes (o.luma ++ o.chroma))).length < 2 ^ 32 := by
    rcases ha with rfl | rfl <;> decide +kernel
  have hax : aux ≤ 0x8000 := by omega
  have io : Io s := io_engine _ _
  have psn : s.mem.psn = [] := rfl
  obtain ⟨s1, d, e1, i1, p1⟩ := io_read io psn (fld (o.dw 1) 0 48) 32 (by omega)
  have hdv : d = 0x100000 + (if big then 2 ^ 36 else 0) * 2 ^ 64 := by
    have : (match s.engReadClean 1 (fld (o.dw 1) 0 48) 32 with | .ok _ d => d | _ => 0) = 0x100000 + (if big then 2 ^ 36 else 0) * 2 ^ 64 := by
      rcases ha with rfl | rfl <;> cases big <;> decide +kernel
    rwa [e1] at this
  obtain ⟨s2, q, e2, i2, p2⟩ : ∃ s2 q, (if aux = 0 then s2 = s1 ∧ q = 0 else s1.engReadClean 1 aux 1 = .ok s2 q) ∧ Io s2 ∧ s2.mem.psn = [] := by
    by_cases h : aux = 0
    · exact ⟨s1, 0, by simp [h], i1, p1⟩
    · obtain ⟨t, x, e, h2⟩ := io_read i1 p1 aux 1 (by omega)
      exact ⟨t, x, by rw [if_neg h]; exact e, h2⟩
  obtain ⟨s3, r, e3, i3, p3⟩ := io_read i2 p2 (sessRef session) (sessRefBytes session) (by omega)
  refine ⟨by rcases ha with rfl | rfl <;> cases big <;> decide +kernel, rfl, by rcases ha with rfl | rfl <;> decide +kernel, rfl, hd2,
    s1, s2, s3, d, q, r, e1, e2, e3, ?_⟩
  intro w task px pay au full
  have hpay : pay.length < 2 ^ 32 := Config.codec.short task px hpx
  have hau : au.length = 16 + pay.length + (16 - pay.length % 16) % 16 := by
    simp only [au, List.length_append, natBytes_length, List.length_replicate]
  have ds : d = if big then 0x100000 + 2 ^ 36 * 2 ^ 64 else 0x100000 := by rw [hdv]; cases big <;> rfl
  have w0 : fld (w 0) 0 48 = 0x100000 := by simp only [w, ds]; cases big <;> decide
  have w1 : (w 1).toNat = if big then 2 ^ 36 else 0 := by simp only [w, ds]; cases big <;> decide
  have w2 : w 2 = 0 := by simp only [w, ds]; cases big <;> decide
  have w3 : w 3 = 0 := by simp only [w, ds]; cases big <;> decide
  have used : (w 2 - w 3).toNat = 0 := by rw [w2, w3]; rfl
  have w2n : (w 2).toNat = 0 := by rw [w2]; rfl
  have hfull : full ↔ (w 1).toNat < au.length := by simp only [full, used, Nat.zero_add]
  constructor
  · intro hb
    subst hb
    refine ⟨hfull.2 (by rw [w1]; simp; omega), ?_⟩
    obtain ⟨t, e, _⟩ := io_write i3 (fld (o.dw 0) 0 48 + 28) 4 1 (by omega)
    exact ⟨t, e⟩
  · intro hb
    subst hb
    have w1' : (w 1).toNat = 2 ^ 36 := w1
    have nf : ¬full := by rw [hfull]; omega
    obtain ⟨s4, e4, i4⟩ := io_write i3 (fld (w 0) 0 48 + (w 2).toNat % (w 1).toNat) au.length (bytesNat au) (by rw [w2n, Nat.zero_mod]; omega)
    obtain ⟨s5, e5, i5⟩ := io_write i4 (sessRef session) (sessRefBytes session) (bytesNat ((Config.codec.encRef task px).take (sessRefBytes session))) (by omega)
    obtain ⟨s6, e6, i6⟩ := io_write i5 (fld (o.dw 1) 0 48 + 16) 8 (((w 2).toNat + au.length) % 2 ^ 64) (by omega)
    obtain ⟨s7, e7, i7⟩ := io_write i6 (fld (o.dw 0) 0 48 + 24) 8 o.fnum.toNat (by omega)
    have ds' : d = 0x100000 + 2 ^ 36 * 2 ^ 64 := ds
    have e2' : (if fld (o.dw 2) 0 48 = 0 then EngAns.ok s1 0 else s1.engReadClean 1 (fld (o.dw 2) 0 48)
        ((sessWidth o.sampled + 63) / 64 * ((sessHeight o.sampled + 63) / 64))) = .ok s2 q := by
      rw [hd2, show (sessWidth o.sampled + 63) / 64 * ((sessHeight o.sampled + 63) / 64) = 1 from hq]
      by_cases h : aux = 0
      · rw [if_pos h] at e2 ⊢; rw [e2.1, e2.2]
      · rw [if_neg h] at e2 ⊢; exact e2
    obtain ⟨a, v, henc⟩ := io_encode e1 e2' e3 i3 (by rw [ds']; decide) (by rw [ds']; decide) (by rw [ds']; decide) (by rw [ds']; decide)
      (show sessRef o.sampled + sessRefBytes o.sampled < 2 ^ 37 by rw [show o.sampled = session from rfl, hr, hz]; decide)
      (by rw [hd1]; decide) (by rw [hd0]; decide) hpx
    exact ⟨nf, by rw [w2n, Nat.zero_mod]; omega, a, v, s4, s5, s6, s7, henc, e4, e5, e6, e7⟩

/-- EngineOperations: a dec, whatever the codec makes of its input: one of the two clauses applies. -/
theorem witness_dec :
    let o := decoding
    let s := engine o [] id
    let ref (r : Nat) := natBytes (sessRefBytes session) r
    runs s o = true ∧ o.op = .dec ∧ s.codecRetired 1 = false ∧
      ∃ s1 s2 x r, s.engReadClean 1 (fld (o.dw 1) 0 48) (fld (o.dw 3) 32 32) = .ok s1 x ∧
        s1.engReadClean 1 (sessRef session) (sessRefBytes session) = .ok s2 r ∧
        let inp := natBytes (fld (o.dw 3) 32 32) x
        let n := sessWidth session * sessSample session
        let rows := sessHeight session + sessHeight session / 2
        let next := bytesNat ((Config.codec.decRef (sessProf session) (sessWidth session) (sessHeight session) (ref r) inp).take (sessRefBytes session))
        match Config.codec.dec (sessProf session) (sessWidth session) (sessHeight session) (ref r) inp with
        | none => ∃ s3, s2.decScrap 1 o = .ok s3 ()
        | some px => ∃ (ts : Nat → State) (a1 a2 w1 w2 : State), ts 0 = s2 ∧
            (∀ i < rows, (ts i).engWrite 1 (fld (o.dw 2) 0 48 + i * sessPitch session) n (bytesNat ((px.drop (i * n)).take n)) = .ok (ts (i + 1)) ()) ∧
            (ts rows).engAsk 1 (sessRef session) (sessRefBytes session) next = .ok a1 () ∧ a1.engAsk 1 (fld (o.dw 0) 0 48 + 24) 4 o.fnum.toNat = .ok a2 () ∧
            (ts rows).engWrite 1 (sessRef session) (sessRefBytes session) next = .ok w1 () ∧ w1.engWrite 1 (fld (o.dw 0) 0 48 + 24) 4 o.fnum.toNat = .ok w2 () := by
  intro o s ref
  have hd : fld (o.dw 0) 0 48 = 0x4000 ∧ fld (o.dw 1) 0 48 = 0x6000 ∧ fld (o.dw 2) 0 48 = 0x100000 ∧ fld (o.dw 3) 32 32 = 100 := by decide +kernel
  have hr : sessRef session = 0x10000 ∧ sessRefBytes session = 768 ∧ sessPitch session = 128 ∧ sessPicture session = 3072 := by decide +kernel
  have hn : sessWidth session * sessSample session = 16 ∧ sessHeight session + sessHeight session / 2 = 24 := by decide +kernel
  have io : Io s := io_engine _ _
  obtain ⟨s1, x, e1, i1, p1⟩ := io_read io rfl (fld (o.dw 1) 0 48) (fld (o.dw 3) 32 32) (by omega)
  obtain ⟨s2, r, e2, i2, p2⟩ := io_read i1 p1 (sessRef session) (sessRefBytes session) (by omega)
  refine ⟨by decide +kernel, rfl, rfl, s1, s2, x, r, e1, e2, ?_⟩
  intro inp n rows next
  split
  · have hl := cut_short (va := fld (o.dw 2) 0 48) (n := sessPicture session) (by omega)
    have i3 : Io { s2 with free := s2.free + 2 } := ⟨i2.mem, i2.ftb, i2.free, i2.has⟩
    unfold State.decScrap
    obtain ⟨t, e, _⟩ := io_fold (fun t (y : Nat × Nat) => t.engUpdate 1 (BitVec.ofNat 48 y.1) y.2 fun i x =>
      if (Config.freeByte s2.free (y.1 - fld (o.dw 2) 0 48 + i)).getLsbD 0 then Config.freeByte (s2.free + 1) (y.1 - fld (o.dw 2) 0 48 + i) else x)
      _ (fun s y hy hs => (io_line hs _ y.2 (hl y hy)).2.1 _) _ i3
    exact ⟨t, e⟩
  · rename_i px _
    let f (i : Nat) (t : State) : EngAns Unit :=
      t.engWrite 1 (fld (o.dw 2) 0 48 + i * sessPitch session) n (bytesNat ((px.drop (i * n)).take n))
    let ts (i : Nat) : State := Nat.rec s2 (fun i t => match f i t with | .ok u _ => u | _ => t) i
    have step : ∀ i, i < rows → Io (ts i) → f i (ts i) = .ok (ts (i + 1)) () ∧ Io (ts (i + 1)) := by
      intro i hi h
      obtain ⟨u, e, hu⟩ := io_write h (fld (o.dw 2) 0 48 + i * sessPitch session) n (bytesNat ((px.drop (i * n)).take n)) (by
        have : i * sessPitch session ≤ 24 * 128 := by rw [hr.2.2.1]; exact Nat.mul_le_mul_right _ (by omega)
        omega)
      have e' : ts (i + 1) = u := by
        show (match f i (ts i) with | .ok u _ => u | _ => ts i) = u
        rw [show f i (ts i) = .ok u () from e]
      rw [e']
      exact ⟨e, hu⟩
    have all : ∀ i, i ≤ rows → Io (ts i) := by
      intro i
      induction i with
      | zero => intro _; exact i2
      | succ i ih => intro hi; exact (step i hi (ih (by omega))).2
    obtain ⟨a1, g1, j1⟩ := io_ask (all rows (Nat.le_refl _)) (sessRef session) (sessRefBytes session) next (by omega)
    obtain ⟨a2, g2, _⟩ := io_ask j1 (fld (o.dw 0) 0 48 + 24) 4 o.fnum.toNat (by omega)
    obtain ⟨w1, g3, j3⟩ := io_write (all rows (Nat.le_refl _)) (sessRef session) (sessRefBytes session) next (by omega)
    obtain ⟨w2, g4, _⟩ := io_write j3 (fld (o.dw 0) 0 48 + 24) 4 o.fnum.toNat (by omega)
    exact ⟨ts, a1, a2, w1, w2, rfl, fun i hi => (step i hi (all i (Nat.le_of_lt hi))).1, g1, g2, g3, g4⟩
/-! ### Witnesses: jobs -/

/-- The bytes of doublewords at an LA that are not zero. -/
def words (la : Nat) (ws : List Word) : List Host.Cell :=
  ((dwBytes ws).zipIdx.filter fun x => x.1 != 0).map fun x => (la + x.2, x.1)

/-- A node that runs on n cores, before node 1. -/
def node (n : Nat) : NodeInst := ⟨List.replicate 8 0, [1], 0, .running, 0, false, [], [], n, false⟩

/-- A graph of two nodes, of which the second waits for the first. -/
def graph (n : Nat) : GraphInst :=
  ⟨3, none, 0, 0, 0, 0, 0, 0, none, [], 0, false, false, false, 0, 0, [node n, { node 0 with preds := 1, phase := .waiting, succ := [] }]⟩

/-- Core 1 with the job of node 0, made by f, and n members of that node. -/
def jobs (n : Nat) (j : Job) (f : Core → Core) : State :=
  let s := turn 1 0 (fun c => f { c with job := some j }) id
  { s with mem := flat [], sched := { s.sched with graphs := [graph n] } }

/-- A read by IA that is answered changes nothing but memory. -/
theorem fetch_ok (s t : State) (ia n : Nat) (b : List Byte) (h : s.fetchIa ia n = .ok t b) : t = { s with mem := t.mem } := by
  unfold State.fetchIa at h
  split at h <;> cases h
  rfl

/-- The tile records of a node without tile operands change nothing but memory. -/
theorem nodeSys_plain (s t : State) (i n : Nat) (x : GraphInst) (y : NodeInst) (sys : Bool) (hg : s.graph? i = some x) (hn : x.nodes[n]? = some y)
    (hc : fld (y.recd.getD 4 0) 32 16 = 0) (h : s.nodeSys i n = .ok t sys) : t = { s with mem := t.mem } := by
  rw [State.nodeSys, hg] at h
  simp only [Option.bind, hn, Option.map, State.tileRecs, hc] at h
  generalize e : s.fetchIa (fld s.sched.slotbase 0 48 + 64 * x.slot) 8 = r at h
  cases r with
  | ok u b =>
    cases h
    exact fetch_ok _ _ _ _ _ e
  | fault u st f => cases h
  | wait => cases h

/-- An answer that changes nothing but memory. -/
def MemOnly {α : Type} (s : State) (a : EngAns α) : Prop :=
  match a with
  | .ok t _ | .fault t _ _ => t = { s with mem := t.mem }
  | .wait => True

theorem memOnly_bind {α β : Type} (s : State) (a : EngAns α) (f : State → α → EngAns β) (ha : MemOnly s a)
    (hf : ∀ t x, t = { s with mem := t.mem } → MemOnly s (f t x)) : MemOnly s (a.bind f) := by
  cases a with
  | ok t x => exact hf t x ha
  | fault t st v => exact ha
  | wait => trivial

theorem memOnly_fetch (s t : State) (ia n : Nat) (h : t = { s with mem := t.mem }) : MemOnly s (t.fetchIa ia n) := by
  unfold State.fetchIa
  split
  · rw [h]; rfl
  · rw [h]; rfl
  · trivial

theorem memOnly_windows (s t : State) (win : List FtbEntry) (va n : Nat) (h : t = { s with mem := t.mem }) : MemOnly s (t.readWindows win va n) := by
  unfold State.readWindows
  refine List.foldlRecOn _ _ (motive := MemOnly s) h fun acc ha x _ => ?_
  refine memOnly_bind _ _ _ ha fun t bs ht => ?_
  split
  · exact memOnly_bind _ _ _ (memOnly_fetch _ _ _ _ ht) fun _ _ h => h
  · exact ht
  · exact ht

theorem wrote_ok (s v : State) (r : Memory × Req) (h : s.wrote r = some v) : v = { s with mem := v.mem } := by
  obtain ⟨m, a⟩ := r
  cases a <;> cases h <;> rfl

/-- The relocation records of a job change nothing but memory when they are read. -/
theorem reloc_read_ok (s v u : State) (j : Job) (es : List FtbEntry) (hv : v = { s with mem := v.mem }) (h : v.readReloc j = .ok u es) :
    u = { s with mem := u.mem } := by
  unfold State.readReloc at h
  generalize hr : v.readWindows (j.reloc.map fun e => e.loaded true) (fld (j.desc.getD 5 0) 0 48) 512 = r at h
  have hm : MemOnly s r := hr ▸ memOnly_windows _ _ _ _ _ hv
  cases r with
  | ok t b => cases h; exact hm
  | fault _ _ _ => cases h
  | wait => cases h

/-- The relocation records of a job change nothing but memory when they are written and read. -/
theorem reloc_ok (s v u : State) (j : Job) (es : List FtbEntry) (h1 : s.writeReloc j = some v) (h2 : v.readReloc j = .ok u es) :
    u = { s with mem := u.mem } := reloc_read_ok _ _ _ _ _ (wrote_ok _ _ _ h1) h2

/-- A job whose launch is to end: of descriptor DW0, DW1, DW8, with its Rucksack at IA 0, and the first 64 KiB of VA at IA 0 as
an attribute permits them. -/
def launching (d0 d1 d8 attr : Word) : Job :=
  { job .launching with
    desc := [d0, d1, 0, 0, 0, BitVec.ofNat 64 relocVa, 0x8E0000000000, 0, d8] ++ List.replicate 15 0
    ria := 0
    reloc := [⟨0, 0xF000, 0, attr⟩] ++ List.replicate 13 ⟨0, 0, 0, 0⟩ ++ [⟨0x8E0000000000, 0x8E00007FF000, 0, 0xB800000000000000⟩, ⟨0, 0, 0, 0⟩] }

/-- ErrorEvents: a reload of a job whose records are read, and one that a home holds. -/
theorem witness_reload :
    let j := launching 7 0 0 0
    let s := jobs 1 j fun c => { c with ftbReload := true }
    let held : State := { s with mem := { Memory.reset with
      homes := List.replicate 36 { Home.reset with ranges := [⟨0, 0xFFFFFFFFF000, 0, 0xB000000000000000, true⟩] } } }
    let waits (s : State) : Bool := (s.core 1).job == some j && (s.core 1).ftbReload && match s.readReloc j with | .wait => true | _ => false
    ((s.core 1).job = some j ∧ (s.core 1).ftbReload = true ∧ (s.core 1).sh.ftb.length = 128 ∧ (match s.readReloc j with | .ok _ _ => true | _ => false) = true ∧
      waits held = true) ∧ ∀ u es, s.readReloc j = .ok u es → u.cores = s.cores := by
  have key (s u : State) (j : Job) (es : List FtbEntry) (h : s.readReloc j = .ok u es) : u.cores = s.cores := by
    rw [reloc_read_ok s s u j es rfl h]
  exact ⟨by decide +kernel, fun u es h => key _ u _ es h⟩

/-- JobEvents: a job whose partition has joined, of a node of two members and of one; one that goes on; an image to be
written; a launch that succeeds, and one that a denied read rejects. -/
theorem witness_job :
    let j (ph : JobPhase) (d : Word) : Job := { job ph with desc := [d] }
    let joined (c : Core) : Core := { c with prts := c.prts.set 0 { part with joined := true } }
    let done (n : Nat) : State := jobs n (j .running 0x100000007) joined
    let open' : State := jobs 1 (j .running 0x100000007) id
    let x (attr : Word) : Job := launching 0x100000007 0 0x0006000000000000 attr
    let launch (attr : Word) : State := jobs 2 (x attr) id
    let answers (attr : Word) (ok : Bool) : Bool :=
      match (launch attr).launchMember 1 with
      | .ok s => ok && decide (1 < s.cores.length) && (s.core 1).job == some (x attr) && !(s.dev.coreret.getD 1 false)
      | .reject s n => !ok && n == 3 && decide (1 < s.cores.length) && (s.core 1).job == some (x attr) && (s.graph? 3).isSome
      | .wait => false
    let ready (n : Nat) : Bool :=
      let s := done n
      (s.core 1).drained && (s.core 1).job == some (j .running 0x100000007) && s.graph? 3 == some (graph n) && (graph n).nodes[0]? == some (node n) &&
        (match s.nodeSys 3 0 with | .ok _ b => !b | _ => false) && !(node n).isFin && !(node n).isStepEnd && (node n).saved.isEmpty
    ready 2 = true ∧ ready 1 = true ∧ ((graph 1).nodes[1]?.map NodeInst.over) = some false ∧ (open'.core 1).drained = false ∧
      answers 0xB800000000000000 true = true ∧ answers 0x9800000000000000 false = true ∧
      (launch 0xB800000000000000).gangOf 1 = [1] ∧ 1 < (done 1).cores.length := by decide +kernel

/-- JobEvents: a launch that ends on a core that has been retired. -/
theorem witness_retired_launch :
    let j := launching 0x100000007 0 0x0006000000000000 0xB800000000000000
    let s := (jobs 2 j id).modDev fun d => { d with coreret := d.coreret.set 1 true }
    s.gangOf 1 = [1] ∧ (match s.launchMember 1 with
      | .ok t => decide (1 < t.cores.length) && (t.core 1).job == some j && t.dev.coreret.getD 1 false && !t.dev.fwhalt
      | _ => false) = true := by decide +kernel

/-- JobEvents: a fresh launch of a job of partition 0, whose relocation records, stream and views are read. -/
theorem witness_fresh :
    let j := launching 0x100000007 0 0x0006000000000000 0xB800000000000000
    let s := jobs 2 j id
    let d := j.desc.getD 8 0
    let pinned (u : State) (es : List FtbEntry) : State := u.modCore 1 fun d => { d with sh := { d.sh with ftb :=
      ((List.range 128).map fun i => if i < 16 then (es.getD i ⟨0, 0, 0, 0⟩).loaded true else ⟨0, 0, 0, 0⟩) } }
    s.gangOf 1 = [1] ∧ (j.desc.getD 1 0).getLsbD 63 = false ∧ ((List.range 12).all fun i => (descMask j.desc).getLsbD i == decide (i = 0)) = true ∧
      (s.core 1).job = some j ∧ fld ((node 2).recd.getD 4 0) 32 16 = 0 ∧
      ((s.writeReloc j).any fun v => match v.readReloc j with
        | .ok s0 es => es == j.reloc && (match (pinned s0 es).engReadClean 1 (fld (j.desc.getD 2 0) 0 48 + fld d 0 32) (4 * fld d 48 16) with
          | .ok s2 _ => (s2.core 1).job == some j && (match s2.engReadClean 1 (fld (j.desc.getD 3 0) 0 48) 64 with
            | .ok s3 _ => (s3.core 1).job == some j && s3.has 1 0 && s3.sched == s.sched && !(s3.dev.coreret.getD 1 false) &&
              (match s3.fetchIa (fld s.sched.slotbase 0 48 + 64 * (graph 2).slot) 8 with | .ok _ _ => true | _ => false)
            | _ => false)
          | _ => false)
        | _ => false) = true := by decide +kernel

/-- JobEvents: an image that is due and can be written. -/
theorem witness_image :
    let s : State := { jobs 1 { job .hardStop with ria := 0 } id with cores := (jobs 1 (job .hardStop) id).cores.set 1 stopped }
    (s.core 1).saveDue = true ∧ (∀ p < 12, ((s.core 1).prt p).mops = []) ∧ fld ((s.core 1).descDw 7) 0 48 = 0 ∧
      ∃ m, writePieces 0 7 (imagePieces stopped 1 [7] true [] 0) s.mem = some (m, true) :=
  ⟨by decide +kernel, by decide +kernel, by decide +kernel, flat_writePieces 7 _ image_short _ ⟨rfl, rfl⟩⟩

/-- The saved job of a resumed launch, and the core that restores it, with the header of its image as given. -/
def restored (header : List Word) : SavedJob × Job × State :=
  let j := launching 7 0x8000000000000000 0 0
  let sv : SavedJob := ⟨j.desc, 0, j.reloc, [], [], 3, [], 0⟩
  let s := jobs 2 j id
  (sv, j, { s with
    mem := flat (words 0 header),
    sched := { s.sched with graphs := [{ graph 2 with nodes := [{ node 2 with saved := [sv] }] }] } })

/-- The records of a job, once they have been written, are read, and what holds then. -/
def relocates (s : State) (j : Job) (P : State → Bool) : Bool :=
  (s.writeReloc j).any fun v => match v.readReloc j with | .ok u _ => P u | _ => false

/-- JobEvents: a resumed launch whose image is not its own. -/
theorem witness_bad_image :
    let (sv, j, s) := restored []
    (s.core 1).job = some j ∧ s.gangOf 1 = [1] ∧ (j.desc.getD 1 0).getLsbD 63 = true ∧ s.savedOf j = some sv ∧
      relocates s j (fun u => match sv.image (ctxOf 1 0).macroCount u.mem with | .bad _ => true | _ => false) = true ∧ 0 < s.dev.flog.length := by
  decide +kernel

/-- Memory that serves every IA below 2^38, none of it poisoned. -/
def Clean (m : Memory) : Prop := Flat m ∧ m.psn = []

theorem clean_request (m : Memory) (ia : Addr) (n : Nat) (job : BitVec 32) (h : Clean m) (ha : ia.toNat < 2 ^ 38) :
    ∃ t x, m.readIa ia n job = (t, .ok x false) ∧ Clean t := by
  obtain ⟨hf, hp⟩ := h
  have hc : (m.charge job n).poisoned (.loc ia.toNat) n = false := by
    have e : (m.charge job n).psn = [] := hp
    unfold Memory.poisoned
    rw [e]
    split
    · rfl
    · simp [Cells.anyIn]
  have e : m.readIa ia n job = (m.charge job n, .ok ((m.charge job n).get (.loc ia.toNat) n) false) := by
    rw [Memory.readIa, flat_request m ia .rd n job hf ha]
    simp only [hc]
  exact ⟨_, _, e, ⟨hf.1, hf.2⟩, hp⟩

theorem clean_readBytes (m : Memory) (ia : Addr) (n : Nat) (job : BitVec 32) (h : Clean m) (ha : ia.toNat + n < 2 ^ 38) :
    ∃ t x, m.readBytes ia n job = (t, .ok x false) ∧ Clean t := by
  unfold Memory.readBytes
  have hl : ∀ y ∈ cutLines ia.toNat n, y.1 < 2 ^ 38 := by
    intro y hy
    have := cutAt_lt _ _ _ y hy
    omega
  generalize cutLines ia.toNat n = l at hl
  have key : ∀ (l : List (Nat × Nat)), (∀ y ∈ l, y.1 < 2 ^ 38) → ∀ (m : Memory) (v : Nat), Clean m →
      ∃ t x, l.foldl (fun (acc : Memory × Acc) (y : Nat × Nat) =>
        match acc with
        | (m, .ok v p) =>
          match m.readIa (BitVec.ofNat 48 y.1) y.2 job with
          | (m, .ok z q) => (m, .ok (v + z * 2 ^ (8 * (y.1 - ia.toNat))) (p || q))
          | r => r
        | r => r) (m, .ok v false) = (t, .ok x false) ∧ Clean t := by
    intro l
    induction l with
    | nil => intro _ m v h; exact ⟨m, v, rfl, h⟩
    | cons y l ih =>
      intro hl m v h
      have hy := hl y (by simp)
      obtain ⟨t, x, e, ht⟩ := clean_request m (BitVec.ofNat 48 y.1) y.2 job h (by rw [BitVec.toNat_ofNat]; omega)
      rw [List.foldl_cons]
      simp only [e, Bool.or_self]
      exact ih (fun z hz => hl z (by simp [hz])) t _ ht
  exact key l hl m _ h

theorem clean_readPiece (job : BitVec 32) (m : Memory) (off n : Nat) (h : Clean m) (ha : off + n < 2 ^ 38) :
    ∃ t bs, readPiece 0 job m off n = .ok t bs ∧ Clean t := by
  obtain ⟨t, x, e, ht⟩ := clean_readBytes m (0 + BitVec.ofNat 48 off) n job h
    (by rw [show (0 : Addr) + BitVec.ofNat 48 off = BitVec.ofNat 48 off from BitVec.zero_add _, BitVec.toNat_ofNat]; omega)
  exact ⟨t, _, by rw [readPiece, e], ht⟩

theorem clean_readPieces (job : BitVec 32) (ps : List (Nat × Nat)) (hp : ∀ x ∈ ps, x.1 + x.2 < 2 ^ 38) :
    ∀ (m : Memory), Clean m → ∃ t bs, readPieces 0 job m ps = .ok t bs ∧ Clean t := by
  induction ps with
  | nil => intro m h; exact ⟨m, [], rfl, h⟩
  | cons y ps ih =>
    obtain ⟨off, n⟩ := y
    intro m h
    obtain ⟨t, b, e, ht⟩ := clean_readPiece job m off n h (hp (off, n) (by simp))
    obtain ⟨u, bs, e', hu⟩ := ih (fun z hz => hp z (by simp [hz])) t ht
    exact ⟨u, b :: bs, by rw [readPieces, e]; show (readPieces 0 job t ps).bind _ = _; rw [e']; rfl, hu⟩

theorem readAns_bind {α β : Type} (a : ReadAns α) (f : Memory → α → ReadAns β) (P : Memory → Prop) (ha : ∃ t x, a = .ok t x ∧ P t)
    (hf : ∀ t x, P t → ∃ u y, f t x = .ok u y ∧ P u) : ∃ u y, a.bind f = .ok u y ∧ P u := by
  obtain ⟨t, x, rfl, ht⟩ := ha
  exact hf t x ht

/-- An image at IA 0 of clean memory can be read. -/
theorem clean_readImage (job : BitVec 32) (nm : Nat) (hn : nm ≤ 8) (m : Memory) (h : Clean m) :
    ∃ t im, readImage 0 job nm m = .ok t im ∧ Clean t := by
  have rd : ∀ (off n : Nat) (m : Memory), off < 2 ^ 36 → n < 2 ^ 36 → Clean m → ∃ t bs, readPiece 0 job m off n = .ok t bs ∧ Clean t :=
    fun off n m ho hn h => clean_readPiece job m off n h (by omega)
  have rs : ∀ (ps : List (Nat × Nat)) (m : Memory), (∀ x ∈ ps, x.1 + x.2 < 2 ^ 38) → Clean m →
      ∃ t bs, readPieces 0 job m ps = .ok t bs ∧ Clean t := fun ps m hp h => clean_readPieces job ps hp m h
  have cs : cimSize < 2 ^ 36 := by decide
  unfold readImage
  generalize readPiece 0 job = r1 at rd ⊢
  generalize readPieces 0 job = r2 at rs ⊢
  refine readAns_bind _ _ Clean (rd _ _ _ (by decide) (by decide) h) fun m low h => ?_
  refine readAns_bind _ _ Clean (rs _ _ (by decide) h) fun m _ h => ?_
  refine readAns_bind _ _ Clean (rs _ _ (by decide) h) fun m _ h => ?_
  refine readAns_bind _ _ Clean (rd _ _ _ (by decide) (by decide) h) fun m _ h => ?_
  refine readAns_bind _ _ Clean (rd _ _ _ (by decide) (by decide) h) fun m _ h => ?_
  refine readAns_bind _ _ Clean (rd _ _ _ (by decide) (by omega) h) fun m _ h => ?_
  refine readAns_bind _ _ Clean (rs _ _ ?_ h) fun m _ h => ?_
  · intro x hx
    obtain ⟨i, hi, rfl⟩ := List.mem_map.1 hx
    have := List.mem_range.1 hi
    simp only
    omega
  refine readAns_bind _ _ Clean (rd _ _ _ (by decide) (by decide) h) fun m _ h => ?_
  refine readAns_bind _ _ Clean (rd _ _ _ (by decide) (by decide) h) fun m _ h => ?_
  refine readAns_bind _ _ Clean (rd _ _ _ (by decide) (by decide) h) fun m _ h => ?_
  refine readAns_bind _ _ Clean (rd _ _ _ (by decide) (by omega) h) fun m _ h => ?_
  exact ⟨m, _, rfl, h⟩

/-- JobEvents: a resumed launch of a job of no partition whose image passes. -/
theorem witness_restored :
    let r := restored [0x000000014B525341, 7]
    let sv := r.1
    let j := r.2.1
    let s := r.2.2
    ((s.core 1).job = some j ∧ s.gangOf 1 = [1] ∧ (j.desc.getD 1 0).getLsbD 63 = true ∧ s.savedOf j = some sv ∧ 1 < s.cores.length ∧
        s.dev.coreret.getD 1 false = false) ∧
      ∃ v u es m im, s.writeReloc j = some v ∧ v.readReloc j = .ok u es ∧ u = { s with mem := u.mem } ∧
        sv.image (ctxOf 1 0).macroCount u.mem = .ok m im ∧ ∀ t : State, (t.core 1).job = some j → t.startPrts 1 false = .ok t () := by
  intro r sv j s
  refine ⟨by decide +kernel, ?_⟩
  have hk : relocates s j (fun u => decide (u.mem.homes = (flat []).homes ∧ u.mem.down = 0 ∧ u.mem.psn = []) &&
      match readPiece 0 7 u.mem 0 256 with | .ok _ h => headerOk h sv.desc | _ => false) = true := by decide +kernel
  unfold relocates at hk
  cases hv : s.writeReloc j with
  | none => rw [hv] at hk; cases hk
  | some v =>
    rw [hv, Option.any_some] at hk
    cases hu : v.readReloc j with
    | fault _ _ _ => rw [hu] at hk; cases hk
    | wait => rw [hu] at hk; cases hk
    | ok u es =>
      rw [hu] at hk
      simp only [Bool.and_eq_true, decide_eq_true_eq] at hk
      obtain ⟨⟨h1, h2, h3⟩, hh⟩ := hk
      have hc : Clean u.mem := ⟨⟨h1, h2⟩, h3⟩
      obtain ⟨t, h, e, ht⟩ := clean_readPiece 7 u.mem 0 256 hc (by decide)
      obtain ⟨m, im, e', -⟩ := clean_readImage 7 8 (Nat.le_refl 8) t ht
      rw [e] at hh
      have hs : ((List.range 12).filter fun p => (descMask j.desc).getLsbD p) = [] := by decide +kernel
      refine ⟨v, u, es, m, im, rfl, hu, reloc_ok _ _ _ _ _ hv hu, ?_, fun t ht => ?_⟩
      · show (readPiece 0 7 u.mem 0 256).bind _ = _
        rw [e]
        show (if headerOk h sv.desc = true then readImage 0 7 8 t else .bad t) = _
        rw [if_pos hh, e']
      · rw [State.startPrts, ht]
        show List.foldl _ _ ((List.range 12).filter fun p => (descMask j.desc).getLsbD p) = _
        rw [hs]
        rfl
/-! ### Witnesses: replies of the retry ring, and errors at homes -/

/-- PatchActs: a reply to an entry of a load, of a gath element and of a walk. -/
theorem witness_patch_reply :
    let o := op .patch (7 + 0x1000 * 2 ^ 64 + 0x2000 * 2 ^ 128) .queued
    let s (kind code : Nat) : State :=
      let s := turn 1 11 (fun c => { c with job := some (job .running), ringValid := 1 }) fun q =>
        { q with trap := some ⟨6, 0, 0, 3⟩, units := q.units.map fun r => { r with res := ⟨3, true, false⟩ } }
      { s with
        cores := s.cores.set 0 { Core.empty with
          ops := [o], paceAge := List.replicate 16 65535, sh := { Core.empty.sh with ftb := Core.empty.sh.ftb.set 0 ioEntry } }
        mem := flat (words 0x1000 [BitVec.ofNat 64 (2 ^ 63 + kind * 2 ^ 60 + 11 * 2 ^ 56 + code * 2 ^ 50 + 7), 0, 0, 0, BitVec.ofNat 64 (512 + 16 * 2 ^ 32), 3]) }
    let ok (kind code n : Nat) : Bool :=
      let s := s kind code
      s.patchHead == some o && o.forked && (s.core 0).paced 7 && fld (o.dw 0) 62 2 == 0 && !patchStray o.block && o.left.isNone && o.parent.isNone &&
        s.has 1 11 && (s.core 1).job == some (job .running) && !s.restoring 7 && (match s.whereIs 7 with | .live j => j == 1 | _ => false) &&
        ((s.core 1).prt 11).trap == some ⟨6, 0, 0, 3⟩ && (o.dw 0).setWidth 32 == descJob (job .running).desc && ((s.core 1).prt 11).units.length == 25 &&
        match s.mem.devRead (fld (o.dw 1) 0 48) 64 with
        | (m, .ok y false) =>
          let dw (i : Nat) : Word := BitVec.ofNat 64 (y / 2 ^ (64 * i))
          (dw 0).getLsbD 63 && (dw 0).setWidth 32 == descJob (job .running).desc && fld (dw 0) 56 4 == 11 && fld (dw 0) 60 3 == kind &&
            ((ctxOf 1 11).unitOf (BitVec.ofNat 6 (fld (dw 0) 50 6))).isSome && min (fld (dw 4) 32 32) (196608 - fld (dw 4) 0 18) == 16 &&
            match ({ s.modCore 0 (fun c => { c with paceAge := c.paceAge.set 7 0 }) with mem := m } : State).engReadClean 0 (fld (o.dw 2) 0 48) n with
            | .ok s1 _ => goes (s1.mem.devWrite (fld (o.dw 1) 0 48) 8 (fld (dw 0) 0 63)) fun _ _ => true
            | _ => false
        | _ => false
    ok 1 0x10 128 = true ∧ ok 3 0x10 16 = true ∧ ok 4 0x12 24 = true := by decide +kernel

/-- ErrorEvents: an error of each structure of a core and of a home, at the last address of each, and a corrected one at a home
whose count meets its threshold. -/
theorem witness_struck :
    let s := g 2
    let fl : State := { g 2 with mem := flat [], dev := { (g 2).dev with fwhalt := true } }
    let llc (d : Bool) : State := { s with mem := { s.mem with llc := [⟨256, d, .loc 256⟩] } }
    let tlb : State := { s with mem := { s.mem with
      homes := s.mem.homes.set 35 { Home.reset with ranges := Home.reset.ranges.set 31 ⟨0, 0, 0, 0x8000000000000000, false⟩, pages := [⟨5, 0, 0, 0, 0, 0⟩] } } }
    let n (code : Nat) : State := { s with dev := { s.dev with cecnt := s.dev.cecnt.set code 1023 } }
    let meets (s : State) (code : Nat) : Bool :=
      s.dev.cecnt.getD code 0 + 1 == s.dev.cethr.getD code 1024 && s.dev.cecnt.getD code 0 != 0xFFFFFFFF && s.dev.cecnt.length == 12
    let room (s : State) (h : Nat) : Bool := decide (h < s.mem.homes.length) && decide ((s.mem.home h).recs.length < 16)
    [1, 2, 5, 8, 9, 0x0B].all (fun c => meets (n c) c) = true ∧ (n 8).eccWaits ⟨8, 0, 0, 0, 0⟩ = false ∧ (n 8).eccWaits ⟨0x0B, 0, 0, 0, 0⟩ = false ∧
      s.has 1 2 = true ∧ 196607 < 196608 ∧ 1048575 < 1048576 ∧ 99 < ((s.core 1).prt 2).slen ∧
      ((s.core 1).prts.length = 12 ∧ (s.dev.coreErrs.filter fun e => e.1 == 1).length < 2) ∧
      (homeOf 0x12F = 2 ∧ room (llc true) 2 = true ∧ (llc true).mem.llc.find? (fun x => x.line == 0x12F / 128 * 128) = some ⟨256, true, .loc 256⟩ ∧
        (llc false).mem.llc.find? (fun x => x.line == 0x12F / 128 * 128) = some ⟨256, false, .loc 256⟩) ∧
      (room fl 2 = true ∧ fl.dev.fwhalt = true ∧ fl.mem.placeOf 256 = some (.loc 256)) ∧
      (room tlb 35 = true ∧ (tlb.mem.home 35).pages[0]?.isSome = true ∧ ((tlb.mem.home 35).ranges[31]?.map fun w => w.dw3.getLsbD 63) = some true) := by
  decide +kernel

/-- ErrorEvents: an LLC tag, in whichever home its record is made. -/
theorem witness_struck_tag :
    let s : State := { g 2 with mem := { (g 2).mem with llc := [⟨256, true, .loc 256⟩, ⟨384, false, .loc 384⟩] } }
    s.eccWaits ⟨9, 1, 2, 0, llcSlice 256⟩ = false ∧ (∀ x ∈ s.mem.llc, x.line % 128 = 0) := by
  intro s
  have key : ∀ i, (s.mem.home i).recs = [] := by
    intro i
    have e : s.mem.homes = List.replicate 36 .reset := rfl
    rw [Memory.home, e]
    by_cases h : i < 36
    · rw [List.getD_eq_getElem?_getD, List.getElem?_replicate, if_pos h]; rfl
    · rw [List.getD_eq_getElem?_getD, List.getElem?_eq_none (by simp; omega)]; rfl
  exact ⟨by simp [State.eccWaits, key], by decide +kernel⟩
/-! ### Witnesses: rings, frames, turns, messages -/

/-- The part with an entry in ring 0, a resident slot 0 of one template of one node, and more structures in memory. -/
def ringed (e : List Word) (nbuf : Nat) (more : List Host.Cell) : State :=
  { State.reset with
    mem := flat (words 0x10000 e ++ words 0x20000 [0x8001000000030000 + at' 52 nbuf, 0x1000, 0x100] ++
      words 0x30100 [0x200, 0x400] ++ words 0x30200 [1, 0, 0, 0, 0, 0, 0, 0, 0x3000000000000] ++ more),
    sched := { State.reset.sched with rings := State.reset.sched.rings.set 0 ⟨0x10000, 4, 1, 0, 0, false⟩, slotbase := 0x20000 } }

/-- What holds of an entry that is read at the head of ring 0. -/
def heads (s : State) (P : State → List Word → Bool) : Bool :=
  match s.headEntry 0 with
  | some (t, e) => decide (0 < t.sched.rings.length) && P t e
  | none => false

/-- Stream 0 in a state. -/
def streamed (s : State) (st : Nat) (f : Scheduler → Scheduler) : State :=
  { s with sched := f { s.sched with streams := s.sched.streams.set 0 ⟨at' 62 st :: List.replicate 15 0, none, false⟩ } }

/-- An instance of stream 0 of one node. -/
def frame (fnum : BitVec 32) : GraphInst := { graph 0 with stream := some 0, fnum := fnum }

/-- RingCommands: doorbells, and each opcode with the streams and commands that its clause names. -/
theorem witness_rings :
    let no (opc : Nat) : List Word := [at' 56 opc + 9, 0]
    let s := ringed (no 0) 0 []
    let accepts (s : State) (P : State → List Word → Bool) (opc : Nat) : Bool := heads s fun t e => entryOpc e == opc && t.entryCode 0 e == 0 && P t e
    let quiet (e : List Word) : Bool := fld (e.getD 1 0) 0 48 == 0 && !bit (e.getD 0 0) 55
    let cmd (s : State) : State := { s with sched := { s.sched with cmds := [⟨4, 0, no 1, false⟩] } }
    ((s.ring 0).tail - (s.ring 0).head).toNat = 1 ∧ 2 ^ (s.ring 0).log2n.toNat = 16 ∧ ((17 : BitVec 32) - (s.ring 0).head).toNat = 17 ∧
      accepts s (fun _ e => quiet e) 0 = true ∧ heads (ringed (no 6) 0 []) (fun t e => entryOpc e == 6 && quiet e && t.entryCode 0 e == 1) = true ∧
      accepts (ringed (no 5) 0 []) (fun t e => quiet e && t.sched.cmds.isEmpty) 5 = true ∧
      accepts (cmd (ringed (no 5) 0 [])) (fun t _ => t.sched.cmds == [⟨4, 0, no 1, false⟩]) 5 = true ∧
      accepts (streamed (ringed (no 3) 0 []) 1 fun c => { c with graphs := [frame 0] }) (fun t _ => (t.stream 0).state == 1 &&
        decide (0 < t.sched.streams.length) && (t.stream 0).dw.length == 16 && t.sched.graphs.any fun h => h.stream == some 0) 3 = true ∧
      accepts (streamed (ringed (no 4) 0 []) 1 id) (fun t e => quiet e && (t.stream 0).state == 1 && decide (0 < t.sched.streams.length) &&
        (t.stream 0).dw.length == 16) 4 = true := by decide +kernel

/-- RingCommands: an INVOKE of template 0. -/
theorem witness_invoke :
    heads (ringed [0x0100000000000009] 0 []) (fun t e => entryOpc e == 1 && t.entryCode 0 e == 0 &&
      (match t.resident (fld (e.getD 2 0) 0 4) (fld (e.getD 3 0) 0 48) with
        | .ok u (rec, _) => decide (fld (e.getD 2 0) 4 3 < slotTemplates rec) &&
          (match u.buildNodes rec (fld (e.getD 2 0) 4 3) with
            | .ok v ns => ns.length == 1 && decide (0 < v.sched.rings.length)
            | _ => false)
        | _ => false)) = true := by decide +kernel

/-- The image of a stream, and its ladder, its buffer records and the structures at the heads of its buffers. -/
def opening : State :=
  ringed [0x0200000000000009, 0, 0, 0x40000] 4
    (words 0x40000 [0, 1000, 8333333, 8333333, 0x50000, 0x60000, 0x0123, 0] ++ words 0x50000 [0x0001000100010001, 1, 1] ++
      words 0x60000 [0x100000, 0x20000, 0x200000, 0x20000, 0x300000, 0x20000, 0x400000, 0x20000] ++ words 0x100000 [2] ++
      words 0x200000 [0x810000000000, 0x10000] ++ words 0x300000 [0x1000000010, 0, 0x820000000000] ++ words 0x400000 [at' 52 1])

/-- RingCommands: a SOPEN whose image passes every check. -/
theorem witness_open :
    heads opening (fun t e => entryOpc e == 2 && t.entryCode 0 e == 0 && fld (e.getD 1 0) 0 48 == 0 && !bit (e.getD 0 0) 55 &&
      (t.stream 0).state == 0 && decide (0 < t.sched.streams.length) &&
      (match t.readDws (fld (e.getD 3 0) 0 48) 16 with
        | .ok u im => match u.checkOpen 0 im with
          | some (v, .inr c) => decide (c < 16) && v.sched.streams.length == t.sched.streams.length && decide (0 < v.sched.rings.length)
          | _ => false
        | _ => false)) = true := by decide +kernel

/-- A stream that is due, with rungs n + 1, over a ladder of two rungs, of which DW0 of the second is given, and the nodes of a second template. -/
def dueStream (n : Nat) (lower : Word) (f : Scheduler → Scheduler) : State :=
  let nodes : List Word := [0, 1, 2, 255].flatMap fun z => at' 42 z :: List.replicate 7 0
  let s := ringed [0] 0 (words 0x30400 (4 :: List.replicate 7 0 ++ nodes) ++ words 0x50000 [0x0001000100010001, 1, 1, 0, lower, 1, 1])
  let dw : List Word := [at' 62 1 + at' 49 n, 0, 8333333, 8333333, 0x50000] ++ List.replicate 11 0
  { s with sched := f { s.sched with streams := s.sched.streams.set 0 ⟨dw, none, false⟩ } }

/-- The stream with a frame on a rung whose deadline is given, at the boundary after its node 0. -/
def bounded (n : Nat) (lower deadline : Word) (floored : Bool) : State :=
  dueStream n lower fun c =>
    { c with graphs := [{ graph 0 with stream := some 0, deadline := deadline, floored := floored }], boundaries := [(3, 0)] }

/-- StreamFrames: a frame that is due, and one that is not; boundaries with slack and with none, before a drop to other latents
and at the floor, for the first time and again. -/
theorem witness_frames :
    let s := dueStream 1 0 id
    let t0 := s.stream 0
    let at' (n : Nat) (deadline : Word) (neg floored : Bool) : Bool :=
      let s := bounded n 0x0002000200010001 deadline floored
      let b : State := { s with sched := { s.sched with boundaries := [] } }
      let t0 := s.stream 0
      t0.dw.length == 16 && decide (0 < s.sched.streams.length) && t0.rung == 0 && t0.nrm1 == n && (b.graph? 3).any (fun g => g.stream == some 0 &&
          g.rung == 0 && g.floored == floored && g.deadline == deadline && g.nodes.any fun x => !x.over) &&
        (match b.rung? t0.ladder 0 with
          | .ok s1 ws =>
            let r := rungOf ws
            let slack : Int := (deadline.toNat : Int) - s.now.toNat - (((r.steps : Int) - (nodeStep (node 0).recd + 1)) * r.cstep + r.cfin)
            s1.sched == b.sched && s1.fclk == s.fclk && (decide (slack < 0) == neg) && decide (-1 ≤ slack) && decide (slack ≤ 0) &&
              (match s1.rung? t0.ladder 1 with
                | .ok s2 v => s2.sched == b.sched && (rungOf v).latw != r.latw
                | _ => false)
          | _ => false)
    (s.releaseDue 0 = true ∧ t0.dw.length = 16 ∧ (dueStream 1 0 fun c => { c with streams := [] }).releaseDue 0 = false ∧
      (match s.startRung t0 with
        | .ok s1 rung => rung == 0 && (match s1.rung? t0.ladder rung with
          | .ok s4 _ => (match s4.resident (fld (t0.at 0) 55 4) (fld (t0.at 5) 0 48) with
            | .ok s2 (rec, _) => (match s2.buildNodes rec rung with | .ok s3 _ => decide (0 < s3.sched.streams.length) | _ => false)
            | _ => false)
          | _ => false)
        | _ => false) = true) ∧
      at' 1 1 false false = true ∧ at' 1 0 true false = true ∧ at' 0 0 true false = true ∧ at' 0 0 true true = true := by decide +kernel

/-- StreamFrames: a drop in the frame, to a template with nodes before, of and after the first step to run, and of no step. -/
theorem witness_drop :
    let s := bounded 1 0x0001000100010001 0 false
    let b : State := { s with sched := { s.sched with boundaries := [] } }
    (match b.rung? (s.stream 0).ladder 0, b.graph? 3 with
      | .ok s1 ws, some g =>
        let b1 := s1.modGraph 3 fun y => { y with steps := 1 }
        let r := rungOf ws
        g.nodes.any NodeInst.active && !g.finalStarted && s1.sched == b.sched &&
          (match b1.rung? (s.stream 0).ladder 1 with
            | .ok s2 v =>
              let r' := rungOf v
              decide ((r'.latw, r'.lath, r'.interp) = (r.latw, r.lath, r.interp)) && (1 * r'.steps + r.steps - 1) / r.steps == 1 &&
                (match s2.slotRec g.slot with
                  | .ok s3 rec => match s3.buildNodes rec 1 with
                    | .ok s4 ns => s4.sched == b1.sched && ns.map (fun x => nodeStep x.recd) == [0, 1, 2, 255] &&
                        ns.all fun x => x.phase == .waiting && x.waits.isEmpty
                    | _ => false
                  | _ => false)
            | _ => false)
      | _, _ => false) = true := by decide +kernel

/-- A node of the ready pool, in a region with budgets, at a time. -/
def pooled (bal : Int) (now : Nat) : State :=
  let n : NodeInst := { node 0 with phase := .ready, succ := [] }
  let g : GraphInst := { graph 0 with nodes := [n] }
  let s := ringed [0] 0 (words 0x30000 [at' 32 1, 0, 0, 0, 0, 0, 0, 0, at' 48 3])
  { s with
    dev := { State.reset.dev with booted := true }, fclk := now,
    sched := { s.sched with
      graphs := [g], lookahead := 0, regions := State.reset.sched.regions.set 0 { State.reset.region 0 with cbud := 100, cbal := bal } } }

/-- DispatcherEvents: a refill that is due, and is not; a turn without a ready node, one that finds no budget and one that dispatches. -/
theorem witness_dispatch :
    let t (s : State) : Bool := s.dev.booted && !s.dev.fwhalt && decide (s.sched.lastTurn.toNat + 2000 ≤ s.now.toNat)
    let d (s : State) : Bool := decide (s.sched.lastPeriod.toNat + 1000 * s.sched.period.toNat ≤ s.now.toNat)
    let s := pooled (-5) 3200
    let u := pooled 5 3200
    d (pooled 0 1600000) = true ∧ d s = false ∧ t (pooled 0 3192) = false ∧ 0 < s.sched.regions.length ∧ 0 < s.dev.flogseq.length ∧
      t { s with sched := { s.sched with graphs := [] } } = true ∧ { s with sched := { s.sched with graphs := [] } }.readyPool = [] ∧
      t s = true ∧ s.readyPool.map Ready.region = [0] ∧ (s.region 0).en = true ∧ (s.region 0).spent ≠ 0 ∧ (s.region 0).refused = false ∧
      (s.region 0).cbal = -5 ∧ t u = true ∧ (u.region 0).spent = 0 ∧
      (match u.readyPool with | [r] => u.canDispatch r && r.region == 0 && (u.dispatch r).any (fun v => (v.core 1).job.any fun j => j.phase == .launching && j.node == 0) | _ => false) = true := by decide +kernel

/-- An instance of one ready node, of an INVOKE in a region. -/
def waits (id region : Nat) (since : Word) : GraphInst :=
  { graph 0 with id := id, region := region, nodes := [{ node 0 with phase := .ready, succ := [], readyAt := since, prefetched := true }] }

/-- Two nodes of two regions at 400 μs, since the times given, and the use of their regions; the cores made by f. -/
def contended (r q : Nat) (sr sq : Word) (ur uq : Int) (f : Core → Core) : State :=
  let s := ringed [0] 0 (words 0x30000 [at' 32 1, 0, 0, 0, 0, 0, 0, 0, at' 48 3])
  let t : State := { s with
    dev := { s.dev with booted := true }, fclk := 640000, cores := s.cores.map f,
    sched := { s.sched with
      graphs := [waits 3 r sr, waits 4 q sq], lookahead := 0,
      regions := s.sched.regions.map fun x => { x with en := true, cbud := 100, cbal := 100 } } }
  (t.modRegion q fun x => { x with cbal := 100 - uq }).modRegion r fun x => { x with cbal := 100 - ur }

/-- DispatcherEvents: nodes of one region and of two, of less, more and equal use; one that has aged behind one that has not. -/
theorem witness_turns :
    let live (s : State) (x : Ready) : Bool := decide (x.region < 8) && (s.region x.region).en && (s.region x.region).spent == 0
    let aged (s : State) (x : Ready) : Bool := decide (x.since.toNat + 1000 * s.sched.grace.toNat ≤ s.now.toNat)
    let two (s : State) (P : Ready → Ready → Bool) : Bool :=
      s.turnDue && match s.readyPool with
        | [r, q] => live s r && live s q && s.canDispatch r && s.canDispatch q && P r q
        | _ => false
    let fresh (r q : Nat) (ur uq : Int) : Bool := two (contended r q 400000 400000 ur uq id) fun x y => let s := contended r q 400000 400000 ur uq id
      !aged s x && !aged s y && x.region == r && y.region == q && (s.region r).use == ur && (s.region q).use == uq &&
        (s.region r).weight == 1 && (s.region q).weight == 1
    fresh 0 0 5 5 = true ∧ fresh 0 1 5 6 = true ∧ fresh 0 1 6 5 = true ∧ fresh 0 1 5 5 = true ∧ fresh 1 0 5 5 = true ∧
      two (contended 0 1 200001 200000 5 6 id) (fun r q => let s := contended 0 1 200001 200000 5 6 id; !aged s r && aged s q) = true := by
  decide +kernel

/-- DispatcherEvents: an aged node that finds every core taken, by jobs of another region and of its own. -/
theorem witness_victims :
    let s (region : Nat) : State := contended 0 1 200000 400000 5 5 fun c => { c with job := some { job .running with desc := [at' 45 region] } }
    let t (region : Nat) : State := let s := s region
      { s with sched := { s.sched with graphs := [waits 3 0 200000] } }
    let stuck (s : State) : Bool := s.turnDue && match s.readyPool with
      | [r] => r.region == 0 && r.size == 1 && !s.canDispatch r && s.coming r == 0 && decide (r.since.toNat + 1000 * s.sched.grace.toNat ≤ s.now.toNat) &&
          (List.range 8).all (fun m => (s.region m).weight != 0) && (s.readyNode r).any fun (g, x) => (s.places g x).contains 1
      | _ => false
    let region (s : State) (k : Nat) : Nat := match (s.core k).job with | some j => descRegion j.desc | none => 0
    stuck (t 1) = true ∧ stuck (t 0) = true ∧ (t 1).cores.length = 128 ∧ region (t 1) 1 = 1 ∧ ∀ k < 128, region (t 0) k = 0 := by
  decide +kernel

theorem memOnly_slot (s : State) (slot : List Word) (off n : Nat) : MemOnly s (s.readSlotArea slot off n) := memOnly_windows _ _ _ _ _ rfl

/-- A slot record and a descriptor template change nothing but memory when they are read. -/
theorem template_ok (s : State) (slot off : Nat) (s1 s2 : State) (sl tp : List Word) (h1 : s.slotRec slot = .ok s1 sl)
    (h2 : s1.descTemplate sl off = .ok s2 tp) : s2 = { s with mem := s2.mem } := by
  have e1 : s1 = { s with mem := s1.mem } := by
    have h : MemOnly s (s.slotRec slot) := memOnly_bind _ _ _ (memOnly_fetch _ _ _ _ rfl) fun _ _ h => h
    rw [h1] at h
    exact h
  have e2 : s2 = { s1 with mem := s2.mem } := by
    have h := memOnly_slot s1 sl off 192
    unfold State.descTemplate at h2
    split at h2
    · cases h2
    · rename_i e; rw [e] at h; cases h2; exact h
    · rename_i e; rw [e] at h; cases h2; exact h
  rw [e2, e1]

/-- DispatcherEvents: a node of one member takes the first free core. -/
theorem witness_template :
    let s := pooled 5 3200
    (match s.readyPool with
      | [r] => (s.readyNode r).any fun (g, x) =>
          x.phase == .ready && nodeSize x.recd == 1 && (s.freeFor r).head? == some 1 && r.size == 1 && decide (1 < s.cores.length) && g.stream == none &&
            !s.misfit g x && (match s.slotRec g.slot with
              | .ok s1 sl => fld (sl.getD 0 0) 62 2 == 2 && (match s1.descTemplate sl (fld (x.recd.getD 0 0) 0 32) with
                | .ok _ tp => descCheck (fillDesc tp s.sched.nextJob 0 1 g.region g.slot (nodeKind x.recd) none 0) false == 0
                | _ => false)
              | _ => false)
      | _ => false) = true := by decide +kernel

/-- InterruptEvents: vectors with messages that are due and that are not, of a function that is enabled and of one that is not,
unmasked, masked, and with a pending bit. -/
theorem witness_messages :
    let s (n : Nat) (en masked pba : Bool) (t : Nat) : State :=
      { State.reset with
        fclk := t
        sched := { State.reset.sched with
          msixEn := List.replicate 8 en, vectors := State.reset.sched.vectors.set 0 ⟨16, 64, n, 0⟩
          tables := State.reset.sched.tables.modify 0 fun l => l.set 0 ⟨0, 0, masked, pba⟩ } }
    let due (s : State) : Bool := decide (0 < (s.vector 0).pending) && decide ((s.vector 0).oldest.toNat + 1000 * (s.vector 0).time.toNat ≤ s.now.toNat)
    let u := s 1 true false false 102400
    let f := u.msixEntry 0
    (0 < u.sched.vectors.length ∧ f = (0, 0) ∧ 0 < u.sched.tables.length ∧ 0 < (u.sched.tables.getD 0 []).length ∧ due u = true ∧
      u.sched.msixEn.getD 0 false = true ∧ (u.entry 0 0).masked = false ∧ due (s 1 true true false 102400) = true ∧
      ((s 1 true true false 102400).entry 0 0).masked = true ∧ due (s 1 false false false 102400) = true ∧
      (s 1 false false false 102400).sched.msixEn.getD 0 false = false ∧ due (s 1 true false false 102392) = false ∧
      due (s 0 true false false 102400) = false ∧ ((s 0 true true true 0).entry 0 0).pba = true ∧ ((s 0 true true false 0).entry 0 0).pba = false) ∧
      ∀ a, u.mem.shut 0 a = false ∧ (s 0 true true true 0).mem.shut 0 a = false := by
  refine ⟨by decide +kernel, fun a => ⟨?_, ?_⟩⟩ <;> exact Memory.shut_secure _ _ _ rfl

/-- InterruptEvents: the completion of a NOP entry that meets COUNT, one that does not, and one of TIME 0; and writes that lower
COUNT and TIME to what is pending, and one that does not. -/
theorem witness_counted :
    let s (z : MsixVec) (masked : Bool) : State :=
      let s := ringed [at' 55 1 + 9, 0] 0 []
      { s with
        fclk := 102400
        sched := { s.sched with
          msixEn := List.replicate 8 true, vectors := s.sched.vectors.set 0 z
          tables := s.sched.tables.modify 0 fun l => l.set 0 ⟨0, 0, masked, false⟩ } }
    let nop (z : MsixVec) : Bool := heads (s z false) fun t e => entryOpc e == 0 && t.entryCode 0 e == 0 && fld (e.getD 1 0) 0 48 == 0 &&
      (e.getD 0 0).getLsbD 55 && fld (e.getD 0 0) 44 11 == 0 && decide (0 < t.sched.vectors.length) && t.vector 0 == z && t.msixEntry 0 == (0, 0) &&
      t.sched.msixEn.getD 0 false && !(t.entry 0 0).masked && t.mem.insecure.getD 0 0 == 0
    let met (x : Word) : Bool := let u := s ⟨16, 64, 3, 0⟩ true
      decide (0 < (u.vector 0).pending) && (decide (max 1 (fld x 16 8) ≤ (u.vector 0).pending) ||
        decide ((u.vector 0).oldest.toNat + 1000 * min 1000 (fld x 0 10) ≤ u.now.toNat) || min 1000 (fld x 0 10) == 0)
    nop ⟨16, 64, 14, 0⟩ = true ∧ nop ⟨16, 64, 15, 0⟩ = true ∧ nop ⟨16, 0, 0, 0⟩ = true ∧ nop ⟨1, 64, 0, 0⟩ = true ∧
      met (at' 16 3 + 100) = true ∧ met (at' 16 4 + 100) = false ∧ met (at' 16 16 + 64) = true ∧ met (at' 16 16 + 65) = false ∧ met (at' 16 16) = true := by
  decide +kernel

/-! ### Witnesses: homes, power, links -/

/-- A request of two bytes at IA 300. -/
def asks (k : AccKind) : HomeReq := ⟨k, 300, [1, 2], 0⟩

/-- Memory of one Cairn page, that is MOVING, at IA 0. -/
def moving : Memory :=
  let page : PageEntry := ⟨0, at' 63 1 + at' 39 1 + at' 7 1 + at' 6 1 + at' 5 1 + at' 4 1, 0, 0, at' 58 1, 0⟩
  let home : Home := { Home.reset with cairnbase := 0x1000, pages := [page] }
  { Memory.reset with gddr := words 0x1000 [at' 58 1], homes := List.replicate 36 home }

/-- A port is open to every address when its link is up, none of its IDE streams is Insecure, and the part has booted or it is port 0. -/
theorem open_secure (s : State) (p a : Nat) (h : s.mem.insecure.getD p 0 = 0)
    (ho : (decide (p < 4) && !s.mem.down.getLsbD p && (p == 0 || s.dev.booted)) = true) : s.portOpen p a = true := by
  rw [State.portOpen, Memory.shut_secure _ _ _ h, ho]

/-- HomeEvents: requests that are granted, one that is held, ones that wait, one that proceeds; range entries; a host's requests. -/
theorem witness_home :
    let s : State := { State.reset with mem := flat [(300, 9)] }
    let w : State := { State.reset with mem := moving }
    let held : HeldReq := ⟨.rd, 300, [1, 2], 0, none⟩
    let h : State := { s with mem := { s.mem with homes := s.mem.homes.set 0 { s.mem.home 0 with held := [held] } } }
    let full : State := { s with mem := s.mem.modHome (homeOf 300) fun y => { y with recs := List.replicate 16 ⟨0, 0, 0, 0⟩ } }
    let crowded : State := { w with mem := w.mem.modHome (homeOf 300) fun y => { y with held := List.replicate 64 held } }
    ((asks .wr).ia.toNat % 128 + 2 ≤ 128 ∧ iaReserved 300 = false ∧
      goes (s.mem.request 300 .wr 2 0) (fun _ _ => true) = true ∧ goes (s.mem.request 300 .rd 2 0) (fun m pl => !m.poisoned pl 2) = true ∧
      (w.mem.request 300 .wr 2 0).2 = .wait ∧ w.mem.isMoving 300 = true ∧ homeOf 300 < w.mem.homes.length ∧ (w.mem.home (homeOf 300)).held.length < 64 ∧
      (h.mem.home 0).held = [held] ∧ h.mem.isMoving 300 = false ∧
      goes ((h.mem.modHome 0 fun y => { y with held := [] }).request 300 .rd 2 0) (fun m _ => decide ((m.home 0).held = []) && decide (0 < m.homes.length)) = true ∧
      (full.mem.request 300 .wr 2 0).2 = .wait ∧ full.mem.isMoving 300 = false ∧ (crowded.mem.request 300 .wr 2 0).2 = .wait ∧
      64 ≤ (crowded.mem.home (homeOf 300)).held.length ∧
      s.mem.homes.length = 36 ∧ (s.mem.home 35).ranges[0]? = some ⟨0, 0xFFFFFFFFF000, 0, 0xB000000000000000, false⟩) ∧
      ∀ a, s.portOpen 0 a = true ∧ ({ s with dev := { s.dev with booted := true } } : State).portOpen 3 a = true :=
  ⟨by decide +kernel, fun a => ⟨open_secure _ _ _ rfl rfl, open_secure _ _ _ rfl rfl⟩⟩

/-- HomeEvents: a request that comes to be held, counted in its Cairn entry, and one of a home with records for no more; a read,
a write and an atomic that proceed, two that proceed in order, and ones that stay. -/
theorem witness_held :
    let w : State := { State.reset with mem := moving }
    let full : State := { w with mem := w.mem.modHome (homeOf 300) fun y => { y with recs := List.replicate 16 ⟨0, 0, 0, 0⟩ } }
    let req (k : AccKind) : HeldReq := ⟨k, 300, [1, 2], 0, none⟩
    let holding (m : Memory) (l : List HeldReq) : Memory := { m with homes := m.homes.set 2 { m.home 2 with held := l } }
    let opened (y : Memory) : Memory := { y.modHome 2 (fun z => { z with held := [] }) with proceeds := some 2 }
    let free (m : Memory) : Bool := decide ((m.home 2).held = []) && decide (2 < m.homes.length)
    let proceeds (k : AccKind) : Bool :=
      let m := holding (flat []) [req k]
      decide ((m.home 2).held = [req k]) && !m.isMoving 300 && goes ((opened m).request 300 k 2 0) fun m _ => free m
    let two (k j : AccKind) : Bool :=
      let m := holding (flat []) [req k, { req j with data := [7] }]
      !m.isMoving 300 && match (opened m).serve k 300 [1, 2] 0 with
        | some m1 =>
          let mid := ({ m1 with proceeds := none } : Memory).modHome 2 fun y => { y with held := [{ req j with data := [7] }] }
          free m1 && !mid.isMoving 300 && (match (opened mid).serve j 300 [7] 0 with | some m2 => free m2 | none => false)
        | none => false
    homeOf 300 = 2 ∧ (w.mem.request 300 .wr 2 0).2 = .wait ∧ w.mem.isMoving 300 = true ∧ w.mem.recFull 2 = false ∧ w.mem.proceeds = none ∧
      (match w.mem.xlate 300 with
        | (m1, .ok z) => (match z.page with | some q => fld (m1.laDw (m1.cairnLa 2 q.pte + 16)) 48 16 == 0 | none => false)
        | _ => false) = true ∧
      full.mem.recFull 2 = true ∧ full.mem.isMoving 300 = true ∧ (full.mem.request 300 .wr 2 0).2 = .wait ∧
      proceeds .rd = true ∧ proceeds .wr = true ∧ proceeds .at = true ∧ two .wr .rd = true ∧ two .wr .wr = true ∧
      (holding moving [req .wr, req .at]).isMoving 300 = true ∧ ((holding moving [req .wr, req .at]).home 2).held = [req .wr, req .at] := by decide +kernel

/-- PowerSensorEvents: requests in progress and not, out of range and in it, of clusters and of VMIN; a sample; readings. -/
theorem witness_power :
    let pend (b : Bool) : State := { State.reset with clusters := State.reset.clusters.set 15 { Cluster.reset 15 with pend := b } }
    let req (r : PowerReq) : State := { State.reset with dev := { State.reset.dev with power := [r] } }
    let bad (x : Word) : Bool := decide (32 < fld x 0 6) || decide ((x.extractLsb' 8 8).toInt < -30) || decide (30 < (x.extractLsb' 8 8).toInt)
    let z : Sensor := ⟨false, 0, 400, 0, 0, 0, 8⟩
    let sensor (z : Sensor) (l : List Sensor) : State :=
      { State.reset with clusters := State.reset.clusters.set 15 { Cluster.reset 15 with sens := z :: l } }
    let ex (z : Sensor) : Sensor := { z with excl := true }
    (pend true).clusters.length = 16 ∧ ((pend true).cluster 15).pend = true ∧ ((pend false).cluster 15).pend = false ∧
      (req (.cluster 15 33)).dev.power = [.cluster 15 33] ∧ bad 33 = true ∧ bad 0x1E20 = false ∧ bad 0x1F20 = true ∧ bad 0xE220 = false ∧
      bad 0xE120 = true ∧ (req (.cluster 15 32)).dev.minclu = 0 ∧ (req (.vmin 679)).dev.power = [.vmin 679] ∧ State.reset.dev.vpend = false ∧
      fld 679 0 10 = 679 ∧ fld 680 0 10 = 680 ∧ fld 900 0 10 = 900 ∧ fld 901 0 10 = 901 ∧
      ({ State.reset with fclk := 16000 } : State).now.toNat = 10000 ∧ ({ State.reset with fclk := 15999 } : State).now.toNat < 10000 ∧
      State.reset.sched.lastRatio = 0 ∧ ((sensor z [ex z]).cluster 15).sens[0]? = some z ∧ z.excl = false ∧
      (-641#16).toInt < -640 ∧ (2400 : Int) < (2401#16).toInt ∧ (-640#16).toInt = -640 ∧ (2400#16).toInt = 2400 ∧
      ((sensor z [ex z]).cluster 15).sens[1]? = some (ex z) ∧
      ((sensor { z with same := 9999, moved := 256 } [z]).cluster 15).sens[0]? = some { z with same := 9999, moved := 256 } := by
  decide +kernel

theorem top_ge (f : Nat → Nat) (n : Nat) (es : List Nat) : n ≤ (((es.map f).foldl max n + 4) / 5 * 5) + 0 := by
  have h : n ≤ (es.map f).foldl max n := by
    induction es generalizing n with
    | nil => simp
    | cons a es ih => exact Nat.le_trans (Nat.le_max_left n (f a)) (ih _)
  omega

/-- PowerSensorEvents: with VMIN beyond 900 every request of a cluster is refused, whatever the trim table holds. -/
theorem witness_ceiling :
    let s : State := { State.reset with dev := { State.reset.dev with vmin := 1023, power := [.cluster 0 0] } }
    900 < ((((List.range 16).filter fun e => e != 0).map fun e => Config.vmin (s.dev.record.getD []) e (s.cluster e).fstep.toNat (s.cluster e).bias.toInt).foldl max
      (max s.dev.vmin.toNat (Config.vmin (s.dev.record.getD []) 0 0 0)) + 4) / 5 * 5 := by
  intro s
  have := top_ge (fun e => Config.vmin (s.dev.record.getD []) e (s.cluster e).fstep.toNat (s.cluster e).bias.toInt) (max s.dev.vmin.toNat (Config.vmin (s.dev.record.getD []) 0 0 0))
    ((List.range 16).filter fun e => e != 0)
  have h : s.dev.vmin.toNat = 1023 := rfl
  omega

theorem top_le (f : Nat → Nat) (n : Nat) (es : List Nat) (hn : n ≤ 900) (hf : ∀ e ∈ es, f e ≤ 900) : ((es.map f).foldl max n + 4) / 5 * 5 ≤ 900 := by
  have h : (es.map f).foldl max n ≤ 900 := by
    induction es generalizing n with
    | nil => simpa using hn
    | cons a es ih => exact ih _ (Nat.max_le.mpr ⟨hn, hf a (by simp)⟩) fun e he => hf e (by simp [he])
  omega

/-- PowerSensorEvents: a request for what cluster 0 has already is served, whatever the trims are (log 15). -/
theorem witness_served :
    let b := Config.biasTrim [] 0
    let x : Word := 24 ||| b.setWidth 64 <<< 8
    let s : State := { State.reset with dev := { State.reset.dev with power := [.cluster 0 x] } }
    (fld x 0 6 = 24 ∧ x.extractLsb' 8 8 = b ∧ -30 ≤ b.toInt ∧ b.toInt ≤ 30 ∧ s.dev.minclu = 0 ∧ s.dev.record = none) ∧
    ((((List.range 16).filter fun e => e != 0).map fun e => Config.vmin (s.dev.record.getD []) e (s.cluster e).fstep.toNat (s.cluster e).bias.toInt).foldl max
      (max s.dev.vmin.toNat (Config.vmin (s.dev.record.getD []) 0 24 b.toInt)) + 4) / 5 * 5 ≤ 900 := by
  intro b x s
  have le (c : Nat) : Config.vmin [] c 24 (Config.biasTrim [] c).toInt ≤ 900 :=
    Nat.le_trans (Config.trims.boots [] c) (Config.trims.vddRange []).2
  have low : ∀ i : Fin 256, fld (24#64 ||| (BitVec.ofFin (w := 8) i).setWidth 64 <<< 8) 0 6 = 24 ∧
      (24#64 ||| (BitVec.ofFin (w := 8) i).setWidth 64 <<< 8).extractLsb' 8 8 = BitVec.ofFin i := by decide +kernel
  refine ⟨⟨(low b.toFin).1, (low b.toFin).2, (Config.trims.biasRange [] 0).1, (Config.trims.biasRange [] 0).2, rfl, rfl⟩, top_le _ _ _ (Nat.max_le.mpr ⟨by decide, le 0⟩) ?_⟩
  intro e he
  have : e < 16 := by simp at he; omega
  interval_cases e <;> exact le _

/-- LinkEvents: ports that narrow, whose width changes, that go down and come back, and IDE streams; requests that are answered. -/
theorem witness_link :
    let s : State := { State.reset with dev := { State.reset.dev with meas := [1, 2, 3, 4] } }
    let d : State := { s with mem := { s.mem with down := 9 } }
    let failed : State := { s with dev := { s.dev with bootst := 3, meas := [] } }
    (failed.dev.bootst ≠ 0 ∧ failed.mem.insecure = State.reset.mem.insecure ∧ s.dev.bootst = 0 ∧ s.dev.ports.length = 4 ∧ s.dev.flogseq.length = 8 ∧ (s.port 3).maxw = 4 ∧ s.mem.insecure.length = 4 ∧ s.mem.down.getLsbD 3 = false ∧
      d.mem.down.getLsbD 3 = true ∧ d.mem.down.getLsbD 0 = true ∧ s.mem.down.getLsbD 0 = false ∧ (s.port 3).root = false ∧ s.dev.meas[4 - 1]? = some 4) ∧
      s.mem.shut 0 0 = false ∧ d.mem.shut 0 0 = true :=
  ⟨by decide +kernel, Memory.shut_secure _ _ _ rfl, by rw [Memory.shut_secure _ _ _ rfl]; rfl⟩

/-- LinkEvents: a codec engine without work, with open streams and without, one of them with a frame, and one that decodes. -/
theorem witness_codec_failure :
    let o : EngineOp := { op .dec 0 .running with id := 4 }
    let s (ops : List EngineOp) (n : Nat) : State :=
      { streamed State.reset n fun c => { c with graphs := [frame 0] } with cores := State.reset.cores.set 7 { Core.empty with ops := ops } }
    let idle (s : State) : Bool := (s.core 7).ops.all fun e => cmdEngine e.op != 5 || e.phase != .running
    15 < (s [] 0).clusters.length ∧ (s [] 0).sched.streams.all (fun t => t.state != 1) = true ∧ idle (s [] 1) = true ∧
      ((s [] 1).stream 0).state = 1 ∧ ((s [] 1).stream 0).fclu = 0 ∧ ((s [] 1).stream 0).closer = none ∧ ((s [] 1).stream 0).region = 0 ∧
      ((s [] 1).sched.streams.drop 1).all (fun t => t.state != 1) = true ∧ ((s [] 1).sched.graphs.any fun g => g.stream == some 0) = true ∧
      (((s [o] 0).core 7).ops.find? fun e => cmdEngine e.op == 5) = some o ∧ ((s [o] 0).core 7).op? o.id = some o ∧ o.phase = .running ∧ o.op = .dec ∧
      o.status = 0 ∧ o.left = none ∧ o.parent = none ∧ (s [o] 0).opRegion 7 o < 8 ∧ (s [o] 0).dev.flog.length = 8 := by decide +kernel

/-- BootEvent: a flash with nothing in it, with an image, and with both objects. -/
theorem witness_boot :
    let s (i r : Option (List Byte)) : State := { State.reset with dev := { State.reset.dev with image := i, record := r } }
    (s none none).dev.image = none ∧ (s (some [1]) none).dev.record = none ∧ (s (some [1]) (some [2])).dev.image = some [1] ∧
      (s (some [1]) (some [2])).dev.record = some [2] := by decide +kernel

/-- RegisterWindows: a part that serves its host, one with VFs, one whose firmware runs, and one whose boot failed; a count that
rises and one that does not; an MSI-X entry of a VF with a message pending and one without. -/
theorem witness_windows :
    let s (b : Bool) (n : BitVec 8) : State := { State.reset with dev := { State.reset.dev with booted := b, bootst := n } }
    let v : State := { s false 0 with sched := { (s false 0).sched with numVfs := 7 } }
    let m : State := { v with sched := { v.sched with
      msixEn := List.replicate 8 true, tables := v.sched.tables.modify 7 fun l => l.set 255 ⟨0, 0, true, true⟩ } }
    let e (n : Nat) : BitVec 32 := ((s true 0).dev.kverr.getD n ⟨0, 0⟩).count
    ((s false 0).dev.bootst = 0 ∧ (s true 0).dev.booted = true ∧ (s true 0).dev.fwhalt = false ∧ (7 : Nat) < (s true 0).sched.regions.length ∧
      (s false 0).sched.numVfs = 0 ∧ v.sched.numVfs = 7 ∧ (s false 3).dev.bootst ≠ 0 ∧ (s true 0).dev.kverr.length = 1024 ∧
      (e 1023 < (1 : Word).setWidth 32) ∧ ¬(e 1023 < (0 : Word).setWidth 32) ∧ (s true 0).dev.flog.length = 8) ∧
      ((v.sched.rings.length = 8 ∧ v.sched.tables.length = 8 ∧ (v.sched.tables.getD 0 []).length = 2048 ∧ (v.sched.tables.getD 7 []).length = 256 ∧
          (v.entry 7 255).pba = false ∧ (m.entry 7 255).pba = true ∧ m.sched.msixEn.getD 7 false = true) ∧
        let f := s true 0
        f.clusters.length = 16 ∧ f.dev.ports.length = 4 ∧ f.dev.cethr.length = 12 ∧ f.dev.cecnt.length = 12 ∧ f.dev.flogseq.length = 8 ∧
          f.dev.coreret.length = 128 ∧ (f.cluster 15).sens.length = 4 ∧ (1 : Word).getLsbD 32 = false) ∧
      (s false 0).portOpen 0 = true ∧ v.portOpen 0 = true ∧ (s false 3).portOpen 0 = true ∧ m.mem.shut 0 (m.entry 7 255).addr.toNat = false :=
  ⟨by decide +kernel, by decide +kernel, open_secure _ _ _ rfl rfl, open_secure _ _ _ rfl rfl, open_secure _ _ _ rfl rfl, Memory.shut_secure _ _ _ rfl⟩

/-- R283, R303, R400: what registers of BAR0 read after reset: SCHCFG, SQCFG of ring 7, and THR of structure 0x0B. -/
theorem test_window_reads :
    State.reset.barRead (barReg 0 0x008) = 0x001000C8000003E8 ∧ State.reset.barRead (barReg 0 0x11C8) = 4 ∧
      State.reset.barRead (barReg 0 0x20158) = 0x0000040000000000 := by decide +kernel

/-- R307, R312: the first byte of the coalescing register of device vector 256 of VF 1 is TIME's. -/
theorem test_window_byte :
    ({ State.reset with sched := { State.reset.sched with numVfs := 1 } } : State).barBytes 1 0x4000 3 = [64, 0, 16] := by decide +kernel

/-! ### Witnesses: frames, traps, rejections, steps -/

/-- An instruction answers a next state. -/
def nexts (i : Instr) (s : State) : Bool :=
  match exec i s with
  | .next _ => true
  | _ => false

/-- WordsKeepOutside and GroupFrame: a word and a header that answer, and the premises on the state. -/
theorem witness_words :
    let i : Instr := .ixAdd false .w p0 i5
    nexts i (g 1) = true ∧ i.group.isSome = true ∧ (g 1).phase = .prt 1 1 ∧ (g 1).has 1 1 = true ∧ nexts (.sectionHeader 40 4 0x200) (g 1) = true ∧
      (2 : Nat) ≠ cluOf 1 := by decide +kernel

/-- EventFrame: each event answers. -/
theorem witness_event_frame :
    let y : Party := .partition 1 1
    ([.sectionRetire 1 1, .resultLands 1 1, .exchangeLands 1, .transferDelayEnds 1 1, .mxAcceptIntervalEnds 1 3, .rahHelperSpawn 1,
      .rahHelperDies 1, .hardPreempt 1, .copyfFollowOn 1 2, .mqSourcesReleased 1 2, .lockGroupForms 1, .probeTokenSend y, .sqDoorbell 2 1,
      .sqstatWrite 2 1, .budgetRefill, .msixCoalesceTimeout 2, .msixCoalesceWrite 2 1, .msixVectorUnmask 2, .sriovNumvfsWrite 2,
      .cpreqWrite 2 1, .vminWrite 1, .powerControllerRequestDone, .sratioSample, .sensorRead 2 3 9, .boardControllerTelemetry 1 2 3,
      .flitReplay 2, .laneFault 2 1, .l0pWidthChange 2 1, .ideIntegrityFail 2 1, .ideKm 2 1 true, .getMeasurements .smbus 2, .doeRequest 2 .spdm,
      .homeInvalidate 2 none, .homeRegisterWrite 2 (.hptbase 1), .linkDown 2, .portReset 2, .memRecordPosted 2, .trapRecordPosted 1,
      .preemptRequest 1, .queueEntryVisible 2 3, .probeTokenReturn 2] : List Instr).all (fun i => nexts i (g 1)) = true := by decide +kernel

/-- A group that writes entry 0 of view 0. -/
def toMain : Group := oneMove p0 i5 (.main 0 0)

/-- TrapTaken and BoundTraps: a group that meets a cause, on a user core, and on the firmware core without a vector,
with one, and with a record of the same partition. -/
theorem witness_trap_taken :
    let trap (s : State) (k p : Nat) : Bool := decide (s.phase = .prt k p) && s.has k p && s.canIssue k p && !(s.core k).held p &&
      (firstCause ((s.env k p).verdict toMain).causes).any fun x => x.kind.code == 0x0D
    let f (v : Word) (r : Word) : State := let y := { (fw 11).fw with fwtvec := v, rec0 := r }; { fw 11 with fw := y, fw0 := y }
    Instr.group (.mmWord toMain) = some toMain ∧ trap (g 11) 1 11 = true ∧ (f 0 0).fw0.fwtvec = 0 ∧ trap (f 0 0) 0 11 = true ∧
      trap (f 0x100 0) 0 11 = true ∧ (f 0x100 0).fw0.fwtvec ≠ 0 ∧ fld (f 0x100 0).fw0.rec0 60 4 ≠ 0xF ∧ trap (f 0x100 (at' 60 15 + at' 56 11)) 0 11 = true ∧
      fld (at' 60 15 + at' 56 11) 60 4 = 0xF ∧ fld (at' 60 15 + at' 56 11) 56 4 = 11 := by decide +kernel

/-- TrapCauses: each cause at a boundary of what raises it. -/
theorem witness_trap_causes :
    let runs (s : State) (k p : Nat) (sr : Src) (ds : Dst) : Bool :=
      s.wordReady k p (oneMove p0 sr ds) && !((s.core k).prt p).predPoison 0 && ((s.core k).prt p).holds p0
    let user (p : Nat) (f : Core → Core) (h : Partition → Partition) : State := turn 1 p f h
    let looping := user 1 id fun q => { q with loop := ⟨true, 9, 2, 2, 9, 1, 1, 3, 0⟩ }
    let locked := turn 7 1 (fun c => { c with locked := 2, lockGo := true }) id
    let mem := user 11 (fun c => { c with locked := 2048, lockGo := true }) id
    let psn := user 1 id fun q => { q with predPsn := 8, ofile := q.ofile.set 2 ⟨7, true, false⟩ }
    let sw := user 1 id fun q => { q with swtrap := some 9 }
    let far := user 1 id fun q => { q with left := 0, far := some 0x2000 }
    let bad : BitVec 96 := 0x800000000000000000000000
    let word (x : BitVec 96) (slen left : Nat) : State := user 1 id fun q =>
      { q with left := left, slen := slen, store := [x.extractLsb' 0 32, x.extractLsb' 32 32, x.extractLsb' 64 32] ++ List.replicate 97 0 }
    let stream (s : State) : Bool := s.streams 1 1 && !(s.core 1).held 1 && ((s.core 1).prt 1).left != 0 && ((s.core 1).prt 1).pc == 0
    (Instr.group (.mmWord ⟨.idle 0, none⟩) = some ⟨.idle 0, none⟩ ∧ (g 1).atTurn 1 1 = true ∧ Group.wf (ctxOf 1 1) ⟨.idle 0, none⟩ = false) ∧
      (runs looping 1 1 (.imm 1) (.trig (.brJmp 0)) = true ∧ ((looping.core 1).prt 1).loop.active = true) ∧
      ([0x400, 0xFFF].all fun (l : BitVec 12) => runs (g 1) 1 1 (.creg l) .sink && runs (g 1) 1 1 (.imm 1) (.creg l)) = true ∧
      ((locked.core 7).isLocked 1 = true ∧ (hqAt (locked.env 7 1).hq (hqIndex 7 0)).visible = 0 ∧ runs locked 7 1 (.hq 0) .sink = true) ∧
      ((mem.core 1).isLocked 11 = true ∧ isGlobal (.gmSt false .l) = true ∧ runs mem 1 11 (.imm 1) (.trig (.gmSt false .l)) = true) ∧
      (psn.wordReady 1 1 (oneMove ⟨3, false⟩ (.imm 1) .sink) = true ∧ ((psn.core 1).prt 1).predPoison 3 = true) ∧
      ([0x000, 0x3FF].all fun (l : BitVec 12) => runs psn 1 1 (.ofile 2) (.creg l) && (psn.env 1 1).readable (.ofile 2) &&
        ((psn.env 1 1).readPlain (.ofile 2)).psn) = true ∧
      firstCause [⟨.poison, 1, 0, 0⟩, ⟨.encode, 0, 0, 0⟩] = some ⟨.encode, 0, 0, 0⟩ ∧
      (stream (word 0 2 1) = true ∧ (((word 0 2 1).core 1).prt 1).slen = 2) ∧
      (stream (word bad 3 1) = true ∧ pairBit bad = false ∧ (match decodeGroup (ctxOf 1 1) bad none with | .error _ => true | .ok _ => false) = true) ∧
      (sw.phase = .prt 1 1 ∧ sw.canIssue 1 1 = true ∧ (sw.core 1).preempting = false ∧ (sw.core 1).held 1 = false ∧
        ((sw.core 1).prt 1).swtrap = some 9 ∧ ((sw.core 1).prt 1).transfer = none) ∧
      (far.streams 1 1 = true ∧ (far.core 1).held 1 = false ∧ ((far.core 1).prt 1).left = 0 ∧ ((far.core 1).prt 1).transfer = none ∧
        ((far.core 1).prt 1).far = some 0x2000) := by
  decide +kernel

/-- BoundTraps: the first index past COUNT, the first entry past the register space, and bases and strides off an
alignment; a read, a write and a long immediate of it; a view register. -/
theorem witness_bound :
    let out (x : Word) (j : Nat) : Bool :=
      let width := match fld x 62 2 with | 0 => 4 | 1 => 8 | 2 => 128 | _ => 1024
      let a := fld x 0 18 + 4 * fld x 26 16 * j
      decide (fld x 42 14 ≤ j) || decide (196608 < a + width) || decide (fld x 0 18 % min width 128 ≠ 0) || decide (4 * fld x 26 16 % min width 128 ≠ 0)
    let view (n base stride w : Nat) : Word := at' 0 base + at' 26 stride + at' 42 n + at' 62 w
    let s := g 1
    let ready (gr : Group) : Bool := s.wordReady 1 1 gr && !((s.core 1).prt 1).predPoison 0 && ((s.core 1).prt 1).holds p0
    out (view 16 0 1 0) 16 = true ∧ out (view 16 0 1 0) 15 = false ∧ out (view 16 196608 1 0) 0 = true ∧ out (view 16 196604 1 0) 0 = false ∧
      out (view 16 2 1 0) 0 = true ∧ out (view 16 0 33 2) 0 = true ∧ out (((s.core 1).prt 1).view 7) 0 = true ∧
      ready (oneMove p0 (.main 7 0) .sink) = true ∧ ready (oneMove p0 i5 (.main 7 8191)) = true ∧
      ready (oneMove p0 (.creg 0x3FF) (.main 7 0)) = true ∧ ready ⟨.ml p0 (.main 7 0) 9, none⟩ = true ∧
      s.ready 1 1 p0 i5 (.creg 0x107) = true := by decide +kernel

/-- RejectedEntries: entries of each opcode that fail a check, with and without a signal word, with an interrupt that
is counted and one that is sent. -/
theorem witness_rejected :
    let e (opc irq ia d2 : Nat) : List Word := [at' 56 opc + at' 55 irq + 9, BitVec.ofNat 64 ia, BitVec.ofNat 64 d2]
    let room (u : State) : Bool := decide (0 < u.sched.rings.length) && decide (0 < u.dev.flog.length) && decide (0 < u.dev.flogseq.length) && decide (0 < u.sched.vectors.length)
    let sig (m : Memory) (ia : Nat) : Bool :=
      match m.devRead ia 8 with
      | (m1, .ok x _) => (match m1.devWrite ia 8 ((x + 2 ^ 64 - 1) % 2 ^ 64) with | (m2, .go _ _) => m2.insecure.getD 0 0 == 0 && !m2.down.getLsbD 0 | _ => false)
      | _ => false
    let takes (s : State) (opc code : Nat) (P : State → List Word → Bool) : Bool :=
      heads s fun u e => entryOpc e == opc && u.entryCode 0 e == code && room u && P u e
    let halted (s : State) : State := { s with dev := { s.dev with fwhalt := true } }
    let open' (m : Word) : State := ringed [0x0200000000000009, 0, 0, 0x40000] 4 (words 0x40000 [m, 1000, 8333333, 8333333])
    let vec (s : State) (v : MsixVec) : State := { s with sched := { s.sched with msixEn := List.replicate 8 true, vectors := s.sched.vectors.set 0 v, tables := [[⟨0, 0, false, false⟩]] } }
    let now := vec (ringed (e 6 1 0 0) 0 []) ⟨16, 0, 0, 0⟩
    (takes (ringed (e 6 0 0 0) 0 []) 6 1 (fun _ e => fld (e.getD 1 0) 0 48 == 0) && takes (ringed (e 0 0 0x70000 0) 0 []) 0 0 (fun _ _ => true) &&
      takes (ringed (e 6 0 0x70000 0) 0 []) 6 1 (fun u _ => sig u.mem 0x70000) && takes (ringed (e 3 0 0 1024) 0 []) 3 2 (fun _ _ => true) &&
      takes (halted (ringed (e 5 0 0 0) 0 [])) 5 8 (fun _ _ => true)) = true ∧
      takes { ringed (e 1 0 0 0) 0 [] with mem := { (ringed (e 1 0 0 0) 0 []).mem with gddr := words 0x10000 (e 1 0 0 0) } } 1 0
        (fun u e => match u.resident (fld (e.getD 2 0) 0 4) (fld (e.getD 3 0) 0 48) with | .fault v _ _ => room v | _ => false) = true ∧
      takes (streamed (ringed (e 2 0 0 0) 0 []) 2 id) 2 0 (fun u _ => (u.stream 0).state != 0) = true ∧
      takes (open' 1) 2 0 (fun u e => (u.stream 0).state == 0 &&
        (match u.readDws (fld (e.getD 3 0) 0 48) 16 with
          | .ok t im => (match t.checkOpen 0 im with | some (v, .inl c) => decide (c < 256) && room v | _ => false)
          | _ => false)) = true ∧
      takes (ringed [0x0200000000000009, 0, 0, 0xE00000000000] 0 []) 2 0 (fun u e => (u.stream 0).state == 0 &&
        (match u.readDws (fld (e.getD 3 0) 0 48) 16 with | .fault v _ _ => room v | _ => false)) = true ∧
      takes (streamed (ringed (e 3 0 0 0) 0 []) 2 id) 3 0 (fun u _ => (u.stream 0).state != 1) = true ∧
      takes (ringed (e 4 0 0 0) 0 []) 4 0 (fun u _ => (u.stream 0).state != 1) = true ∧
      takes (vec (ringed (e 6 1 0 0) 0 []) ⟨16, 64, 14, 0⟩) 6 1 (fun u _ => decide ((u.vector 0).pending + 1 < (u.vector 0).count.toNat) && (u.vector 0).time != 0) = true ∧
      takes (vec (ringed (e 6 1 0 0) 0 []) ⟨16, 64, 15, 0⟩) 6 1 (fun u _ => decide ((u.vector 0).count.toNat ≤ (u.vector 0).pending + 1)) = true ∧
      takes now 6 1 (fun u _ => (u.vector 0).time == 0 && u.sched.msixEn.getD (u.msixEntry 0).1 false && !(u.entry 0 0).masked) = true ∧
      2 ^ (now.ring 0).log2n.toNat < ((17 : BitVec 32) - (now.ring 0).head).toNat := by decide +kernel

/-- StepRunsDecoded: a word, the two words of a pair, and a header, at the PC of a partition that runs. -/
theorem witness_step :
    let at' (ps : List (BitVec 32)) (left : Nat) : State := turn 1 1 id fun q => { q with left := left, store := ps ++ List.replicate 94 0 }
    let runs (s : State) (n : Nat) : Bool := s.streams 1 1 && decide (((s.core 1).prt 1).pc.toNat + n ≤ ((s.core 1).prt 1).slen) &&
      (match decodeParcels (ctxOf 1 1) (((s.core 1).prt 1).ahead n) with | .ok _ => true | .error _ => false)
    let pair (s : State) : Bool := pairBit (((s.core 1).prt 1).wordAt ((s.core 1).prt 1).pc.toNat)
    let w := at' [0x3F000000, 0x3F000000, 0x20492000, 0, 0, 0] 1
    let p := at' [0x00040020, 0x00000125, 0x10492001, 0x01A90000, 0x00100080, 0x00690181] 2
    let h := at' [0x00000000, 0x02500403, 0, 0, 0, 0] 0
    runs w 3 = true ∧ pair w = false ∧ runs p 6 = true ∧ pair p = true ∧ runs h 2 = true ∧ ((h.core 1).prt 1).transfer = none ∧
      ((h.core 1).prt 1).far = none := by decide +kernel

/-- StepKeepsForm: a state in the middle of a run has the form. -/
theorem witness_form : (g 11).Form :=
  ⟨by decide +kernel, by decide +kernel, by decide +kernel, by decide +kernel, by decide +kernel⟩

/-! ### Single steps -/

/-- What holds of the next state. -/
def after (i : Instr) (s : State) (P : State → Bool) : Bool :=
  match exec i s with
  | .next t => P t
  | _ => false

/-- What holds of the result that partition p of core 1 gets from an instruction, with values in its operand file. -/
def gets (i : Instr) (p : Nat) (xs : List Nat) (P : Fly → Bool) : Bool :=
  after i (turn 1 p id fun q => { q with ofile := xs.map fun x => ⟨BitVec.ofNat 8192 x, false, false⟩ }) fun t =>
    match ((t.core 1).prt p).fly with
    | [f] => P f
    | _ => false

/-- The example after R203: 500.0 saturates to 0x7E and raises OF and NX, and the result is due in cycle 4, three cycles after cycle 1. -/
theorem test_convert_saturates :
    gets (.fsCvt .e4m3 .f32 true .rne p0 (.ofile 0)) 1 [0x43FA0000] (fun f =>
      f.res == some ⟨0x7E, false, false⟩ && f.fpf == 0x14 && f.rem == 3) = true := by decide +kernel

/-- R203, the same value with prop: the canonical NaN of E4M3. -/
theorem test_convert_propagates :
    gets (.fsCvt .e4m3 .f32 false .rne p0 (.ofile 0)) 1 [0x43FA0000] (fun f => f.res == some ⟨0x7F, false, false⟩) = true := by decide +kernel

/-- The example before R1: a square root lands at the start of cycle 14, thirteen cycles after cycle 1. -/
theorem test_square_root_latency :
    gets (.fdSqrt .csr p0 (.ofile 0)) 1 [0x40800000] (fun f => f.rem == 13 && f.res.any fun r => r.bits % 2 ^ 32 == 0x40000000) = true := by
  decide +kernel

/-- R82: a product wraps at its width. -/
theorem test_multiply_wraps :
    after (.imdMul true p0 (.imm (-1))) (turn 1 1 id fun q =>
      { q with units := q.units.map fun u => { u with o1 := ⟨0x80000001, false, false⟩ } }) (fun t =>
        ((t.core 1).prt 1).fly.any fun f => f.res.any fun r => r.bits.toNat % 2 ^ 32 == 0x7FFFFFFF) = true := by decide +kernel

/-- R342, R344: a view of COUNT 0 traps with cause 0x0D at the PC of the group, and a record joins the core's. -/
theorem test_trap_record :
    after (.mmWord toMain) (g 11) (fun t => ((t.core 1).prt 11).trap.any (fun x => x.cause == 0x0D && x.pc == 0) &&
      (t.core 1).trapOut.any fun r => fld r.dw0 60 4 == 0xF && fld r.dw0 56 4 == 11 && fld r.dw0 48 8 == 0x0D) = true := by decide +kernel

/-- R404: a doorbell that would overflow its ring leaves TAIL and sets ERR with CODE 0x07. -/
theorem test_doorbell_overflow :
    after (.sqDoorbell 7 17) State.reset (fun t => (t.ring 7).tail == 0 && (t.ring 7).err && (t.ring 7).code == 7) = true := by decide +kernel

/-- R311: at most seven virtual functions. -/
theorem test_seven_functions : after (.sriovNumvfsWrite 9) State.reset (fun t => t.sched.numVfs == 7) = true := by decide +kernel

end Sys2Proof.Tests
end

section
/-! The boot ROM (R28, R315, R415): the two states in which it leaves the part, stopped and entered, which of them a
reset gives, and what each of them holds. -/

namespace Sys2Proof.Machine

/-! ### The two ends of the boot ROM -/

/-- The part when the boot ROM has stopped: nothing but BOOTST and the message to the board controller differs from
what a reset leaves (R415). -/
def State.bootStop (s : State) (n : BitVec 8) : State :=
  { s.afterReset.modDev (fun d => { d with bootst := n }) with out := .bootStatus n :: s.out }

/-- The part when the boot ROM has entered the firmware of an image, under the trims of a module record (R315). -/
def State.bootEnter (s : State) (image record : List Byte) : State :=
  ((s.afterReset.trimmed record).modDev fun d =>
    { d with booted := true, meas := measure image record s.dev.fwconfig }).modCore 0 fun c => c.enterFirmware image

theorem boot_of_check_fails {s : State} (h : bootCheck s.dev.image s.dev.record ≠ 0) :
    s.boot = s.bootStop (BitVec.ofNat 8 (bootCheck s.dev.image s.dev.record)) := if_neg h

theorem boot_of_checks_pass {s : State} {image record : List Byte} (hi : s.dev.image = some image)
    (hr : s.dev.record = some record) (h : bootCheck (some image) (some record) = 0) :
    s.boot = s.bootEnter image record := by
  have hboot : s.boot = s.bootEnter (s.dev.image.getD []) (s.dev.record.getD []) := if_pos (by rw [← hi, ← hr] at h; exact h)
  rw [hboot, hi, hr]
  rfl

theorem exec_reset_eq_boot (s : State) : exec .reset s = .next s.boot := rfl

/-! ### The order of the checks (R415) -/

theorem bootCheck_image_unreadable (record : Option (List Byte)) : bootCheck none record = 1 := rfl

theorem bootCheck_record_unreadable (image : List Byte) : bootCheck (some image) none = 2 := rfl

section
variable {i r : List Byte}

theorem bootCheck_image_ecdsa_fails (hi : Config.ecdsaVerifies i = false) : bootCheck (some i) (some r) = 3 := by
  simp [bootCheck, hi]

theorem bootCheck_image_lms_fails (hi : Config.ecdsaVerifies i = true) (hi' : Config.lmsVerifies i = false) :
    bootCheck (some i) (some r) = 4 := by
  simp [bootCheck, hi, hi']

theorem bootCheck_record_ecdsa_fails (hi : Config.ecdsaVerifies i = true) (hi' : Config.lmsVerifies i = true)
    (hr : Config.ecdsaVerifies r = false) : bootCheck (some i) (some r) = 5 := by
  simp [bootCheck, hi, hi', hr]

theorem bootCheck_record_lms_fails (hi : Config.ecdsaVerifies i = true) (hi' : Config.lmsVerifies i = true)
    (hr : Config.ecdsaVerifies r = true) (hr' : Config.lmsVerifies r = false) : bootCheck (some i) (some r) = 6 := by
  simp [bootCheck, hi, hi', hr, hr']

theorem bootCheck_passes (hi : Config.ecdsaVerifies i = true) (hi' : Config.lmsVerifies i = true)
    (hr : Config.ecdsaVerifies r = true) (hr' : Config.lmsVerifies r = true) : bootCheck (some i) (some r) = 0 := by
  simp [bootCheck, hi, hi', hr, hr']

end

/-! ### What every reset does, whatever the boot ROM finds -/

/-- Fields that a reset sets whether or not the boot ROM enters the firmware (R315; log 55 of GDDR7). -/
def ResetKeeps (s t : State) : Prop :=
  t.sched = State.reset.sched ∧ t.fw = State.reset.fw ∧ t.fclk = 0 ∧ t.phase = .fclk ∧ t.probes = [] ∧ t.mem.gddr = s.mem.gddr ∧
    t.mem.llc = [] ∧ t.mem.homes = State.reset.mem.homes

theorem resetKeeps_boot (s : State) : ResetKeeps s s.boot := by
  unfold State.boot
  extract_lets
  split
  · exact ⟨rfl, rfl, rfl, rfl, rfl, rfl, rfl, rfl⟩
  · exact ⟨rfl, rfl, rfl, rfl, rfl, rfl, rfl, rfl⟩

/-! ### A part that has stopped -/

/-- The boot ROM has stopped with a code and told the board controller; no core and no cluster is past reset (R415). -/
def BootStopped (s t : State) (n : BitVec 8) : Prop :=
  t.dev.booted = false ∧ t.dev.bootst = n ∧ t.dev.meas = [] ∧ t.out = .bootStatus n :: s.out ∧
    t.cores = State.reset.cores ∧ t.clusters = State.reset.clusters

theorem bootStopped_bootStop (s : State) (n : BitVec 8) : BootStopped s (s.bootStop n) n := ⟨rfl, rfl, rfl, rfl, rfl, rfl⟩

/-- A check that fails with code `n` stops the boot with it. -/
theorem bootStopped_boot {s : State} {n : Nat} (h : bootCheck s.dev.image s.dev.record = n) (hn : n ≠ 0) :
    BootStopped s s.boot (BitVec.ofNat 8 n) := by
  subst h
  rw [boot_of_check_fails hn]
  exact bootStopped_bootStop s _

/-! ### A part that has entered the firmware -/

section
variable (s : State) (i r : List Byte)

theorem bootEnter_ports : (s.bootEnter i r).dev.ports =
    (List.replicate 4 ⟨4, 4, 0, 0, false⟩ : List Port).mapIdx fun p y => { y with root := p != 0 && Config.rootPort r p } := rfl

theorem bootEnter_port_root {p : Nat} (hp : p < 4) :
    ((s.bootEnter i r).port p).root = (p != 0 && Config.rootPort r p) := by
  simp [-List.reduceReplicate, State.port, bootEnter_ports, hp]

theorem bootEnter_clusters : (s.bootEnter i r).clusters =
    State.reset.clusters.mapIdx fun c y => { y with bias := Config.biasTrim r c } := rfl

theorem bootEnter_cluster {c : Nat} (hc : c < 16) :
    (s.bootEnter i r).cluster c = { State.reset.cluster c with bias := Config.biasTrim r c } := by
  simp [State.cluster, bootEnter_clusters, State.reset, hc]

theorem bootEnter_core_other {k : Nat} (hk : k ≠ 0) : (s.bootEnter i r).core k = State.reset.core k := core_modCore_ne hk _

theorem bootEnter_core_firmware : (s.bootEnter i r).core 0 = (State.reset.core 0).enterFirmware i :=
  core_modCore_same (by simp [State.modDev, State.trimmed, State.afterReset, State.reset]) _

theorem enterFirmware_prt (c : Core) {p : Nat} (hp : p < 12) : (c.enterFirmware i).prt p = firmwarePrt i p := by
  simp [Core.prt, Core.enterFirmware, hp]

/-- The boot ROM has passed every check: the measurements, the trims and roles of the record, and the firmware core
with the image's streams and FTB (R28, R308, R315, R316; log 15, log 107). -/
def BootEntered (t : State) : Prop :=
  t.dev.booted = true ∧ t.dev.bootst = 0 ∧ t.out = s.out ∧
    t.dev.meas = [Config.sha384 Config.bootRom, Config.sha384 i, Config.sha384 r, Config.sha384 s.dev.fwconfig] ∧
    t.dev.vdd = BitVec.ofNat 10 (Config.vddTrim r) ∧
    (∀ p < 4, (t.port p).root = (p != 0 && Config.rootPort r p)) ∧
    (∀ c < 16, t.cluster c = { State.reset.cluster c with bias := Config.biasTrim r c }) ∧
    (∀ k, k ≠ 0 → t.core k = State.reset.core k) ∧
    (∀ p < 12, (t.core 0).prt p = firmwarePrt i p) ∧ (t.core 0).sh.ftb = firmwareFtb i

theorem bootEntered_bootEnter : BootEntered s i r (s.bootEnter i r) := by
  refine ⟨rfl, rfl, rfl, rfl, rfl, fun p hp => bootEnter_port_root s i r hp, fun c hc => bootEnter_cluster s i r hc,
    fun k hk => bootEnter_core_other s i r hk, fun p hp => ?_, ?_⟩
  · rw [bootEnter_core_firmware, enterFirmware_prt i _ hp]
  · rw [bootEnter_core_firmware]
    rfl

end

/-! ### The obligation -/

/-- Settles O48: the checks one after another in the order of R415, each with the state in which the boot ROM leaves
the part. -/
theorem bootEvent : Obligations.BootEvent := by
  unfold Obligations.BootEvent
  intro s
  obtain ⟨hsched, hfw, hfclk, hphase, hprobes, hgddr, hllc, hhomes⟩ := resetKeeps_boot s
  refine ⟨s.boot, exec_reset_eq_boot s, hsched, hfw, hfclk, hphase, hprobes, hgddr, hllc, hhomes, ?_⟩
  have stops {n : Nat} (h : bootCheck s.dev.image s.dev.record = n) (hn : n ≠ 0) : BootStopped s s.boot (BitVec.ofNat 8 n) :=
    bootStopped_boot h hn
  refine ⟨fun hi => ?noImage, fun i hi hr => ?noRecord, fun i r hi hr => ⟨fun h3 => ?imageEcdsa, fun h3 h4 => ?imageLms,
    fun h3 h4 h5 => ?recordEcdsa, fun h3 h4 h5 h6 => ?recordLms, fun h3 h4 h5 h6 => ?passed⟩⟩
  case noImage => exact stops (n := 1) (by rw [hi, bootCheck_image_unreadable]) (by decide)
  case noRecord => exact stops (n := 2) (by rw [hi, hr, bootCheck_record_unreadable]) (by decide)
  case imageEcdsa => exact stops (n := 3) (by rw [hi, hr, bootCheck_image_ecdsa_fails h3]) (by decide)
  case imageLms => exact stops (n := 4) (by rw [hi, hr, bootCheck_image_lms_fails h3 h4]) (by decide)
  case recordEcdsa => exact stops (n := 5) (by rw [hi, hr, bootCheck_record_ecdsa_fails h3 h4 h5]) (by decide)
  case recordLms => exact stops (n := 6) (by rw [hi, hr, bootCheck_record_lms_fails h3 h4 h5 h6]) (by decide)
  case passed =>
    rw [boot_of_checks_pass hi hr (bootCheck_passes h3 h4 h5 h6)]
    exact bootEntered_bootEnter s i r

end Sys2Proof.Machine
end

section
/-! The end of an issue cycle (R42, R61, R175, R180): which fields of a partition it can change, what it leaves in a
stream outside a loop, and what a group or a word of one move leaves of its core. -/

namespace Sys2Proof.Machine

/-! ### What the stream's end of a cycle can change -/

/-- r is q but for where the stream stands, its loop, transfer, sections and stop, and the predicates that a loop drives. -/
structure StreamOnly (q r : Partition) : Prop where
  same : r = { q with
    pc := r.pc, left := r.left, loop := r.loop, transfer := r.transfer, secs := r.secs, stop := r.stop, idle := r.idle,
    preds := r.preds, predPsn := r.predPsn }
  low : r.preds &&& 0x00FF = q.preds &&& 0x00FF
  idle : q.joined = false → r.idle = q.idle

theorem StreamOnly.refl (q : Partition) : StreamOnly q q := ⟨rfl, rfl, fun _ => rfl⟩

theorem StreamOnly.joined {q r : Partition} (h : StreamOnly q r) : r.joined = q.joined := by rw [h.same]

theorem StreamOnly.trans {q r t : Partition} (h : StreamOnly q r) (g : StreamOnly r t) : StreamOnly q t where
  same := by
    have hr := h.same
    have ht := g.same
    generalize r.pc = a, r.left = b, r.loop = c, r.transfer = d, r.secs = e, r.stop = f, r.idle = i, r.preds = j, r.predPsn = l at hr
    subst hr
    exact ht
  low := g.low.trans h.low
  idle hj := (g.idle (h.joined.trans hj)).trans (h.idle hj)

/-- The engine drives none of p0 to p7 (R180). -/
theorem loopPreds_low (j nst s : Nat) : loopPreds j nst s &&& 0x00FF = 0 := by
  have hd : ∀ (l : List Nat) (acc : Nat), acc % 256 = 0 →
      (l.foldl (fun acc i => if i < s ∧ i ≤ j ∧ j - i < nst then acc + 2 ^ (8 + i) else acc) acc) % 256 = 0 := by
    intro l
    induction l with
    | nil => exact fun _ h => h
    | cons i l ih =>
      intro acc h
      refine ih _ ?_
      have hp : (acc + 2 ^ (8 + i)) % 256 = 0 := by rw [Nat.pow_add]; omega
      show (if _ then _ else acc) % 256 = 0
      split_ifs
      · exact hp
      · exact h
  apply BitVec.eq_of_toNat_eq
  rw [loopPreds, BitVec.toNat_and, BitVec.toNat_ofNat, show (BitVec.toNat (0x00FF : BitVec 16)) = 2 ^ 8 - 1 from rfl,
    Nat.and_two_pow_sub_one_eq_mod, Nat.mod_mod_of_dvd _ (by decide)]
  exact hd (List.range 8) 0 rfl

theorem streamOnly_drivePreds (q : Partition) : StreamOnly q q.drivePreds := by
  refine ⟨rfl, ?_, fun _ => rfl⟩
  simp only [Partition.drivePreds, BitVec.and_or_distrib_right, BitVec.and_assoc, loopPreds_low]
  simp

theorem streamOnly_endSection (q : Partition) : StreamOnly q q.endSection := ⟨rfl, rfl, fun _ => rfl⟩

theorem streamOnly_endPass (q : Partition) : StreamOnly q q.endPass := by
  simp only [Partition.endPass]
  split_ifs
  · exact .refl q
  · refine .trans ?_ (streamOnly_drivePreds _)
    exact ⟨rfl, rfl, fun _ => rfl⟩
  · exact ⟨rfl, rfl, fun _ => rfl⟩

theorem streamOnly_stopLoop (q : Partition) (n : Nat) : StreamOnly q (q.stopLoop n) := by
  simp only [Partition.stopLoop]
  split_ifs <;> exact ⟨rfl, rfl, fun _ => rfl⟩

theorem streamOnly_preemptLoop (q : Partition) (was : Bool) : StreamOnly q (q.preemptLoop was) := by
  unfold Partition.preemptLoop
  split_ifs
  · exact StreamOnly.trans (r := { q with loop := { q.loop with nst := 0 } }) ⟨rfl, rfl, fun _ => rfl⟩ (streamOnly_stopLoop _ _)
  · exact streamOnly_stopLoop _ _
  · exact .refl q

/-- The stream n words on, its loop and its transfer counted, before the loop engine and the section see it. -/
def Partition.stepped (q : Partition) (n : Nat) (was : Bool) : Partition :=
  { q with
    pc := q.pc + BitVec.ofNat 13 (3 * n), left := q.left - n,
    loop := if was then { q.loop with issued := q.loop.issued + n } else q.loop,
    transfer := q.transfer.map fun t => { t with delay := t.delay - 1 } }

/-- The section closes with a join, and where its last word has issued and nothing of it is still to pass. -/
def Partition.closeStream (q : Partition) : Partition :=
  if q.joined then ({ q with loop := LoopState.zero, transfer := none, idle := 0 } : Partition).endSection
  else if q.left = 0 ∧ q.idle = 0 ∧ q.transfer = none then q.endSection
  else q

theorem endStream_eq (q : Partition) (n : Nat) (was pre : Bool) : q.endStream n was pre =
    (if pre then (q.stepped n was).endPass.preemptLoop ((q.stepped n was).loop.active && (was || n == 0))
      else (q.stepped n was).endPass).closeStream := rfl

theorem streamOnly_closeStream (q : Partition) : StreamOnly q q.closeStream := by
  unfold Partition.closeStream
  split_ifs with hj
  · refine StreamOnly.trans (r := { q with loop := LoopState.zero, transfer := none, idle := 0 })
      ⟨rfl, rfl, fun h => ?_⟩ (streamOnly_endSection _)
    rw [hj] at h
    cases h
  · exact streamOnly_endSection q
  · exact .refl q

theorem streamOnly_endStream (q : Partition) (n : Nat) (was pre : Bool) : StreamOnly q (q.endStream n was pre) := by
  have h : StreamOnly q (q.stepped n was).endPass :=
    StreamOnly.trans (r := q.stepped n was) ⟨rfl, rfl, fun _ => rfl⟩ (streamOnly_endPass _)
  rw [endStream_eq]
  split_ifs
  · exact (h.trans (streamOnly_preemptLoop _ _)).trans (streamOnly_closeStream _)
  · exact h.trans (streamOnly_closeStream _)

theorem endPass_inactive {q : Partition} (hl : q.loop.active = false) : q.endPass = q := if_pos (.inl hl)

theorem preemptLoop_inactive {q : Partition} (hl : q.loop.active = false) : q.preemptLoop false = q := by
  simp [Partition.preemptLoop, hl]

/-- Outside a loop the stream of a partition is stepped and closed. -/
theorem endStream_outside {q : Partition} (hl : q.loop.active = false) (n : Nat) (pre : Bool) :
    q.endStream n false pre = (q.stepped n false).closeStream := by
  have h : (q.stepped n false).loop.active = false := hl
  rw [endStream_eq, endPass_inactive h, h, Bool.false_and, preemptLoop_inactive h, ite_self]

/-- Outside a loop the stream stands n words on, with its transfer one cycle nearer and its section closed where it ends. -/
theorem endStream_inactive {q : Partition} (hl : q.loop.active = false) (hj : q.joined = false) (n : Nat) (pre : Bool) :
    ∃ secs, q.endStream n false pre = { q with
      pc := q.pc + BitVec.ofNat 13 (3 * n), left := q.left - n, secs := secs,
      transfer := q.transfer.map fun t => { t with delay := t.delay - 1 } } := by
  rw [endStream_outside hl, Partition.closeStream, if_neg (by simp [Partition.stepped, hj])]
  split_ifs
  · exact ⟨_, rfl⟩
  · exact ⟨_, rfl⟩

/-- A stream that has joined has ended: no loop, no transfer, and its section is closed. -/
theorem endStream_joined {q : Partition} (hl : q.loop.active = false) (hj : q.joined = true) (n : Nat) (pre : Bool) :
    (q.endStream n false pre).loop = .zero ∧ (q.endStream n false pre).transfer = none := by
  rw [endStream_outside hl, Partition.closeStream, if_pos (show (q.stepped n false).joined = true from hj)]
  exact ⟨rfl, rfl⟩

/-! ### The partition after its cycle -/

/-- The partition after a cycle in which n words have issued. -/
def Partition.closed (q : Partition) (n : Nat) (was pre : Bool) : Partition :=
  { ((q.countDown).endStream n was pre) with stalled := false, refused := 0, qwait := none, probed := false }

theorem prt_endCycle_same {c : Core} {p : Nat} (h : p < c.prts.length) (n : Nat) (was : Bool) :
    (c.endCycle p n was).prt p = (c.prt p).closed n was c.preempting :=
  prt_modPrt_same (f := fun q => q.closed n was c.preempting) h

@[simp] theorem endCycle_sh (c : Core) (p n : Nat) (was : Bool) : (c.endCycle p n was).sh = c.sh.countIntervals p 0xFF := rfl
@[simp] theorem endCycle_semAdds (c : Core) (p n : Nat) (was : Bool) : (c.endCycle p n was).semAdds = c.semAdds := rfl
@[simp] theorem endCycle_semWrs (c : Core) (p n : Nat) (was : Bool) : (c.endCycle p n was).semWrs = c.semWrs := rfl
@[simp] theorem endCycle_lpend (c : Core) (p n : Nat) (was : Bool) : (c.endCycle p n was).lpend = c.lpend := rfl
@[simp] theorem endCycle_lwait (c : Core) (p n : Nat) (was : Bool) : (c.endCycle p n was).lwait = c.lwait := rfl
@[simp] theorem endCycle_lleave (c : Core) (p n : Nat) (was : Bool) : (c.endCycle p n was).lleave = c.lleave := rfl

@[simp] theorem countIntervals_reg (h : Shared) (p : Nat) (m : BitVec 8) : (h.countIntervals p m).reg = h.reg := rfl
@[simp] theorem countIntervals_evq (h : Shared) (p : Nat) (m : BitVec 8) : (h.countIntervals p m).evq = h.evq := rfl
@[simp] theorem countIntervals_evLost (h : Shared) (p : Nat) (m : BitVec 8) : (h.countIntervals p m).evLost = h.evLost := rfl
@[simp] theorem countIntervals_evOvf (h : Shared) (p : Nat) (m : BitVec 8) : (h.countIntervals p m).evOvf = h.evOvf := rfl
@[simp] theorem countIntervals_ftb (h : Shared) (p : Nat) (m : BitVec 8) : (h.countIntervals p m).ftb = h.ftb := rfl
@[simp] theorem countIntervals_gap (h : Shared) (p : Nat) (m : BitVec 8) : (h.countIntervals p m).gap = h.gap := rfl

section
variable (q : Partition) (n : Nat) (was pre : Bool)

/-- The end of a cycle leaves every field of a partition that it does not name. -/
theorem closed_same : ∃ r, StreamOnly q.countDown r ∧
    q.closed n was pre = { r with stalled := false, refused := 0, qwait := none, probed := false } :=
  ⟨_, streamOnly_endStream q.countDown n was pre, rfl⟩

theorem closed_registers : RegistersKept q (q.closed n was pre) := by
  obtain ⟨r, h, e⟩ := closed_same q n was pre
  rw [e, h.same]
  constructor <;> first | rfl | exact ⟨rfl, rfl⟩ | exact ⟨rfl, rfl, rfl, rfl⟩

@[simp] theorem closed_stalled : (q.closed n was pre).stalled = false := rfl
@[simp] theorem closed_joined : (q.closed n was pre).joined = q.joined := by
  obtain ⟨r, h, e⟩ := closed_same q n was pre; rw [e, h.same]; rfl
@[simp] theorem closed_units : (q.closed n was pre).units = q.units := by
  obtain ⟨r, h, e⟩ := closed_same q n was pre; rw [e, h.same]; rfl
@[simp] theorem closed_ofile : (q.closed n was pre).ofile = q.ofile := (closed_registers q n was pre).ofile
@[simp] theorem closed_views : (q.closed n was pre).views = q.views := (closed_registers q n was pre).views
@[simp] theorem closed_bt : (q.closed n was pre).bt = q.bt := (closed_registers q n was pre).bt
@[simp] theorem closed_rgnPc : (q.closed n was pre).rgnPc = q.rgnPc := (closed_registers q n was pre).rgn.1
@[simp] theorem closed_rgnWrem : (q.closed n was pre).rgnWrem = q.rgnWrem := (closed_registers q n was pre).rgn.2
@[simp] theorem closed_rah : (q.closed n was pre).rah = q.rah := (closed_registers q n was pre).rah
@[simp] theorem closed_rm : (q.closed n was pre).rm = q.rm := by
  obtain ⟨r, h, e⟩ := closed_same q n was pre; rw [e, h.same]; rfl
@[simp] theorem closed_fpf : (q.closed n was pre).fpf = q.fpf := by
  obtain ⟨r, h, e⟩ := closed_same q n was pre; rw [e, h.same]; rfl
@[simp] theorem closed_lcol : (q.closed n was pre).lcol = q.lcol := (closed_registers q n was pre).pstat.1
@[simp] theorem closed_xcol : (q.closed n was pre).xcol = q.xcol := (closed_registers q n was pre).pstat.2
@[simp] theorem closed_padv : (q.closed n was pre).padv = q.padv := (closed_registers q n was pre).pads.1
@[simp] theorem closed_mxpad : (q.closed n was pre).mxpad = q.mxpad := (closed_registers q n was pre).pads.2.1
@[simp] theorem closed_kvpad : (q.closed n was pre).kvpad = q.kvpad := (closed_registers q n was pre).pads.2.2.1
@[simp] theorem closed_kvpos : (q.closed n was pre).kvpos = q.kvpos := (closed_registers q n was pre).pads.2.2.2
@[simp] theorem closed_mops : (q.closed n was pre).mops = q.mops := (closed_registers q n was pre).mops

theorem closed_idle (hj : q.joined = false) : (q.closed n was pre).idle = q.idle := by
  obtain ⟨r, h, e⟩ := closed_same q n was pre
  rw [e]
  exact h.idle hj

theorem closed_low_preds : (q.closed n was pre).preds &&& 0x00FF = q.preds &&& 0x00FF := by
  obtain ⟨r, h, e⟩ := closed_same q n was pre
  rw [e]
  exact h.low

variable {q}

/-- After a join no loop and no transfer is left (R33). -/
theorem closed_join (hl : q.loop.active = false) (hj : q.joined = true) :
    (q.closed n false pre).loop = .zero ∧ (q.closed n false pre).transfer = none :=
  endStream_joined (q := q.countDown) hl hj n pre

/-- Outside a loop a cycle keeps the predicates (R77). -/
theorem closed_preds (hl : q.loop.active = false) (hj : q.joined = false) : (q.closed n false pre).preds = q.preds := by
  obtain ⟨secs, e⟩ := endStream_inactive (q := q.countDown) hl hj n pre
  simp only [Partition.closed, e, prt_countDown_preds]

/-- Outside a loop the stream goes on after a cycle (R42). -/
theorem closed_advances (hl : q.loop.active = false) (hj : q.joined = false) : Advances q (q.closed n false pre) n := by
  obtain ⟨secs, e⟩ := endStream_inactive (q := q.countDown) hl hj n pre
  intro _
  simp only [Partition.closed, e, prt_countDown_pc, prt_countDown_left, and_self]

end

/-! ### The core after a group -/

/-- An environment of partition p of core k whose core has as many partitions. -/
structure Env.Of (e : Env) (s : State) (k p : Nat) : Prop where
  atCore : e.k = k
  atPrt : e.p = p
  prts : e.core.prts.length = (s.core k).prts.length

theorem has_iff {s : State} {k p : Nat} : s.has k p = true ↔ k < s.cores.length ∧ p < (s.core k).prts.length := by
  simp [State.has]

theorem env_of (s : State) (k p : Nat) : (s.env k p).Of s k p := ⟨rfl, rfl, rfl⟩

theorem readSrc_of {e : Env} {s : State} {k p : Nat} (h : e.Of s k p) (src : Src) : (e.readSrc src).1.Of s k p := by
  obtain ⟨a, b, c⟩ := h
  cases src <;> exact ⟨a, b, c⟩

theorem modQ_of {e : Env} {s : State} {k p : Nat} (h : e.Of s k p) (f : Partition → Partition) : (e.modQ f).Of s k p :=
  ⟨h.atCore, h.atPrt, by simpa [Env.modQ, Core.modPrt, Core.setPrt] using h.prts⟩

theorem withCore_of {e : Env} {s : State} {k p : Nat} (h : e.Of s k p) {c : Core} (hc : c.prts = e.core.prts) :
    ({ e with core := c } : Env).Of s k p := ⟨h.atCore, h.atPrt, (congrArg List.length hc).trans h.prts⟩

/-- A read of a source touches nothing of its core. -/
@[simp] theorem readSrc_core (e : Env) (src : Src) : (e.readSrc src).1.core = e.core := by cases src <;> rfl
@[simp] theorem readSrc_q0 (e : Env) (src : Src) : (e.readSrc src).1.q0 = e.q0 := by cases src <;> rfl
@[simp] theorem readSrc_p (e : Env) (src : Src) : (e.readSrc src).1.p = e.p := by cases src <;> rfl
@[simp] theorem readSrc_k (e : Env) (src : Src) : (e.readSrc src).1.k = e.k := by cases src <;> rfl
@[simp] theorem readSrc_fw (e : Env) (src : Src) : (e.readSrc src).1.fw = e.fw := by cases src <;> rfl

theorem q_modQ {e : Env} {s : State} {k p : Nat} (h : e.Of s k p) (hs : s.has k p = true) (f : Partition → Partition) :
    (e.modQ f).q = f e.q := prt_modPrt_same (h.atPrt ▸ h.prts ▸ (has_iff.1 hs).2) f

section
variable {s : State} {k p : Nat} {e : Env} (hs : s.has k p = true) (he : e.Of s k p)
include hs he

/-- The core after a group: what the group has done, and the end of the cycle. -/
theorem core_endGroup (n : Nat) : (s.endGroup k p n e).core k =
    (e.core.modPrt p fun q => { q with idle := 0 }).endCycle p n ((s.core k).prt p).loop.active := by
  obtain ⟨rfl, rfl, -⟩ := he
  exact core_withEnv_same (has_iff.1 hs).1

theorem prt_endGroup (n : Nat) : ((s.endGroup k p n e).core k).prt p =
    ({ e.q with idle := 0 } : Partition).closed n ((s.core k).prt p).loop.active e.core.preempting := by
  have hp : p < e.core.prts.length := he.prts ▸ (has_iff.1 hs).2
  rw [core_endGroup hs he, prt_endCycle_same (by simpa [Core.modPrt, Core.setPrt] using hp), prt_modPrt_same hp, ← he.atPrt]
  rfl

end

theorem endWord_eq (s : State) (k p : Nat) (e : Env) : s.endWord k p e = s.endGroup k p 1 e := rfl

end Sys2Proof.Machine
end

section
/-! Words of one move in a stream that is not in a loop: what their triggers leave of the partition and its core (R57,
R78, R184 to R189). -/

namespace Sys2Proof.Machine

theorem canIssue_iff {s : State} {k p : Nat} : s.canIssue k p = true ↔ ((s.core k).prt p).started = true ∧
    ((s.core k).prt p).joined = false ∧ ((s.core k).prt p).trap = none ∧ ((s.core k).prt p).stop = none ∧
    (s.core k).lwait.getLsbD p = false ∧ (isFwCore k && s.dev.fwhalt) = false := by
  simp only [State.canIssue, Bool.and_eq_true, Bool.not_eq_true', Option.isNone_iff_eq_none, and_assoc]

/-- What is known of a trigger of a calm stream. -/
theorem calm_iff {s : State} {k p : Nat} {g : Guard} {src : Src} {t : Trigger} :
    s.calm k p g src t = true ↔ s.has k p = true ∧ (s.ready k p g src (.trig t) = true ∧ s.inputsClean k p src t = true) ∧
      ((s.core k).prt p).loop.active = false ∧ ((s.core k).prt p).transfer = none ∧ (s.core k).preempting = false := by
  simp [State.calm, State.fires, and_assoc]

theorem joined_of_ready {s : State} {k p : Nat} {g : Guard} {src : Src} {d : Dst} (h : s.ready k p g src d = true) :
    ((s.core k).prt p).joined = false :=
  (canIssue_iff.1 (atTurn_iff.1 (ready_iff.1 h).1).2.1).2.1

/-! ### The state after a move -/

/-- The environment in which the effect of a word of one move takes place: its source has been read. -/
def State.moveEnv (s : State) (k p : Nat) (src : Src) : Env := ((s.env k p).readSrc src).1

@[simp] theorem moveEnv_core (s : State) (k p : Nat) (src : Src) : (s.moveEnv k p src).core = s.core k := readSrc_core _ _
@[simp] theorem moveEnv_q0 (s : State) (k p : Nat) (src : Src) : (s.moveEnv k p src).q0 = (s.core k).prt p := readSrc_q0 _ _
@[simp] theorem moveEnv_p (s : State) (k p : Nat) (src : Src) : (s.moveEnv k p src).p = p := readSrc_p _ _
@[simp] theorem moveEnv_k (s : State) (k p : Nat) (src : Src) : (s.moveEnv k p src).k = k := readSrc_k _ _
@[simp] theorem moveEnv_fw (s : State) (k p : Nat) (src : Src) : (s.moveEnv k p src).fw = s.fw := readSrc_fw _ _
@[simp] theorem moveEnv_q (s : State) (k p : Nat) (src : Src) : (s.moveEnv k p src).q = (s.core k).prt p := readSrc_q _ _

theorem moveEnv_of (s : State) (k p : Nat) (src : Src) : (s.moveEnv k p src).Of s k p := readSrc_of (env_of s k p) src

theorem afterMove_eq (s : State) (k p : Nat) (src : Src) (f : Env → Env) :
    s.afterMove k p src f = s.endGroup k p 1 (f (s.moveEnv k p src)) := rfl

/-- The stream of a partition is where it was, outside a loop. -/
structure SameStream (q r : Partition) : Prop where
  pc : r.pc = q.pc
  left : r.left = q.left
  joined : r.joined = false
  loop : r.loop.active = false

/-- After a group of n words whose effects leave the stream where it was, the stream goes on. -/
theorem advances_endGroup {s : State} {k p : Nat} {e : Env} (hs : s.has k p = true) (he : e.Of s k p)
    (hl : ((s.core k).prt p).loop.active = false) (hq : SameStream ((s.core k).prt p) e.q) (n : Nat) :
    Advances ((s.core k).prt p) (((s.endGroup k p n e).core k).prt p) n := by
  intro _
  rw [prt_endGroup hs he, hl, ← hq.pc, ← hq.left]
  exact closed_advances (q := { e.q with idle := 0 }) n e.core.preempting hq.loop hq.joined hq.loop

/-! ### Triggers of a calm stream -/

/-- A trigger of a calm stream does what it does on clean inputs. -/
theorem exec_calm {i : Instr} {s : State} {k p : Nat} {g : Guard} {src : Src} {t : Trigger} {e : Env}
    (hi : i.group = some (oneMove g src (.trig t))) (h : s.calm k p g src t = true) (hc : Passes s k p g src t)
    (hf : (s.moveEnv k p src).fireClean 1 t (s.datum k p src t.unit) (s.ports k p t.unit) = e) (hl : e.q.loop.active = false) :
    exec i s = .next (s.endGroup k p 1 e) := by
  obtain ⟨-, ⟨hr, hx⟩, -⟩ := calm_iff.1 h
  subst hf
  exact exec_trigger hi hr hx hc (Bool.and_eq_false_iff.2 (.inl hl))

theorem calm_sameStream {s : State} {k p : Nat} {g : Guard} {src : Src} {t : Trigger} (h : s.calm k p g src t = true) :
    SameStream ((s.core k).prt p) ((s.core k).prt p) := by
  obtain ⟨-, ⟨hr, -⟩, hl, -⟩ := calm_iff.1 h
  exact ⟨rfl, rfl, joined_of_ready hr, hl⟩

/-- What a trigger of a calm stream leaves of its partition and its core. -/
theorem calm_leaves {i : Instr} {s : State} {k p : Nat} {g : Guard} {src : Src} {t : Trigger} {e : Env}
    (hi : i.group = some (oneMove g src (.trig t))) (h : s.calm k p g src t = true) (hc : Passes s k p g src t)
    (hf : (s.moveEnv k p src).fireClean 1 t (s.datum k p src t.unit) (s.ports k p t.unit) = e)
    (he : e.Of s k p) (hl : e.q.loop.active = false) :
    ∃ u, exec i s = .next u ∧ u.core k = (e.core.modPrt p fun q => { q with idle := 0 }).endCycle p 1 false ∧
      (u.core k).prt p = ({ e.q with idle := 0 } : Partition).closed 1 false e.core.preempting ∧
      (SameStream ((s.core k).prt p) e.q → Advances ((s.core k).prt p) ((u.core k).prt p) 1) := by
  obtain ⟨hs, -, hq, -⟩ := calm_iff.1 h
  refine ⟨_, exec_calm hi h hc hf hl, ?_, ?_, fun hq' => advances_endGroup hs he hq hq' 1⟩
  · rw [core_endGroup hs he, hq]
  · rw [prt_endGroup hs he, hq]

theorem gmUnit_ne_sy (u : Bool) : (if u then UnitName.gm1 else .gm0) ≠ .sy := by cases u <;> exact nofun

/-- No trigger of sy is an access of memory. -/
theorem trigGmForm_of_sy {t : Trigger} (hu : t.unit = .sy) : trigGmForm t = none := by
  unfold trigGmForm
  split
  case h_8 => cases hu
  all_goals first | rfl | exact absurd hu (gmUnit_ne_sy _)

theorem judgeAccess_of_sy {t : Trigger} (hu : t.unit = .sy) (e : Env) (x : Nat) (r : UnitRegs) (n : Nat) : e.judgeAccess t x r n = .go := by
  unfold Env.judgeAccess
  split
  · exact absurd hu (gmUnit_ne_sy _)
  · rw [trigGmForm_of_sy hu]

theorem mxRefuses_of_sy {t : Trigger} (hu : t.unit = .sy) (e : Env) : e.mxRefuses t = false := by
  unfold Env.mxRefuses
  split <;> first | rfl | cases hu

/-- The checks of a trigger of sy: those of its inputs, and that a join is not in a loop (R368). -/
theorem passes_sy {s : State} {k p : Nat} {g : Guard} {src : Src} {t : Trigger} (hu : t.unit = .sy)
    (hr : (s.env k p).reservedUse t = false)
    (hv : (s.env k p).judgeValue (oneMove g src (.trig t)) ⟨0, 0, g, .move src (.trig t)⟩ t (s.datum k p src t.unit) (s.ports k p t.unit) = .go) :
    Passes s k p g src t where
  glob := by simp [isGlobal, hu]
  legal := hr
  takes := mxRefuses_of_sy hu _
  value := hv
  access _ := ⟨by rw [Env.judgeRoom, trigGmForm_of_sy hu], judgeAccess_of_sy hu _ _ _ _⟩

end Sys2Proof.Machine
end

section
/-! The end of a core's ACLK (R40, R43, R44, R186): what the writes and adds of semaphores leave, the count of the locked
group's step and the members that stay; and the words of sy that read, add to and wait for a semaphore (R184). -/

namespace Sys2Proof.Machine

/-! ### Semaphores at the end of an ACLK (R40) -/

/-- What a list of positions, each changed once, leaves at position m. -/
theorem getD_foldl_set {α : Type} (d : α) (f : Nat → α → α) (m : Nat) {l : List Nat} (hl : l.Nodup) (xs : List α) (hm : m < xs.length) :
    (l.foldl (fun ys n => ys.set n (f n (ys.getD n d))) xs).getD m d = if m ∈ l then f m (xs.getD m d) else xs.getD m d := by
  induction l generalizing xs with
  | nil => rfl
  | cons n l ih =>
    obtain ⟨hn, hl⟩ := List.nodup_cons.1 hl
    rw [List.foldl_cons, ih hl _ (by simpa using hm)]
    by_cases h : m = n
    · subst h
      simp [hn, hm]
    · simp [h, List.getD_eq_getElem?_getD, List.getElem?_set_ne (Ne.symm h)]

/-- The value that the writes of an ACLK leave before its adds. -/
def semaBase (x : Sema) (wrs : List SemaWr) : Int := match wrs.getLast? with | some w => (w.val.toNat : Int) | none => (x.val.toNat : Int)

theorem semaBase_nonneg (x : Sema) (wrs : List SemaWr) : 0 ≤ semaBase x wrs := by
  unfold semaBase
  split <;> exact Int.natCast_nonneg _

/-- The sum of an ACLK is applied once, clamped (R40, log 112). -/
theorem semaApply_eq (x : Sema) (wrs : List SemaWr) (adds : List Int) : semaApply x wrs adds =
    if 65535 < semaBase x wrs + adds.sum then ⟨65535, true⟩
    else if semaBase x wrs + adds.sum < 0 then ⟨0, x.ovf && !(wrs.any fun w => w.clr)⟩
    else ⟨BitVec.ofInt 16 (semaBase x wrs + adds.sum), x.ovf && !(wrs.any fun w => w.clr)⟩ := rfl

theorem semaApply_val (x : Sema) (wrs : List SemaWr) (adds : List Int) :
    ((semaApply x wrs adds).val.toNat : Int) = max 0 (min 65535 (semaBase x wrs + adds.sum)) := by
  rw [semaApply_eq]
  generalize semaBase x wrs + adds.sum = v
  split_ifs with h1 h2
  · rw [min_eq_left h1.le]; rfl
  · rw [min_eq_right (by omega), max_eq_left h2.le]; rfl
  · rw [min_eq_right (not_lt.1 h1), max_eq_right (not_lt.1 h2), BitVec.toNat_ofInt]
    omega

theorem semaApply_ovf (x : Sema) (wrs : List SemaWr) (adds : List Int) :
    (semaApply x wrs adds).ovf = true ↔ 65535 < semaBase x wrs + adds.sum ∨ (x.ovf = true ∧ ∀ w ∈ wrs, w.clr = false) := by
  have ho : (x.ovf && !(wrs.any fun w => w.clr)) = true ↔ x.ovf = true ∧ ∀ w ∈ wrs, w.clr = false := by simp
  rw [semaApply_eq, ← ho]
  split_ifs with h1 h2
  · exact ⟨fun _ => .inl h1, fun _ => rfl⟩
  · exact ⟨.inr, fun h => h.resolve_left h1⟩
  · exact ⟨.inr, fun h => h.resolve_left h1⟩

theorem semaApply_nothing (x : Sema) : semaApply x [] [] = x := by
  have hx := x.val.isLt
  simp only [semaApply, List.getLast?_nil, List.sum_nil, Int.add_zero, List.any_nil, Bool.not_false, Bool.and_true]
  rw [if_neg (by omega), if_neg (by omega), BitVec.ofInt_natCast, BitVec.ofNat_toNat, BitVec.setWidth_eq]

/-- Every semaphore takes the writes and adds of the ACLK that name it. -/
theorem applySemas_semaAt (c : Core) {m : Nat} (hm : m < c.sh.sema.length) :
    c.applySemas.sh.semaAt m = semaApply (c.sh.semaAt m) (c.semWrs.filter fun w => w.n == m)
      ((c.semAdds.filter fun a => a.1 == m).map Prod.snd) := by
  have h := getD_foldl_set ⟨0, false⟩ (fun n x => semaApply x (c.semWrs.filter fun w => w.n == n)
    ((c.semAdds.filter fun a => a.1 == n).map Prod.snd)) m (List.nodup_dedup (c.semAdds.map Prod.fst ++ c.semWrs.map SemaWr.n)) c.sh.sema hm
  refine h.trans ?_
  split_ifs with hn
  · rfl
  · simp only [List.mem_dedup, List.mem_append, List.mem_map, not_or, not_exists, not_and] at hn
    have h1 : (c.semWrs.filter fun w => w.n == m) = [] := List.filter_eq_nil_iff.2 fun w hw => by simpa using hn.2 w hw
    have h2 : (c.semAdds.filter fun a => a.1 == m) = [] := List.filter_eq_nil_iff.2 fun a ha => by simpa using hn.1 a ha
    rw [h1, h2, List.map_nil, semaApply_nothing]
    rfl

/-! ### The end of an ACLK -/

theorem foldl_modTag (ws : List TagWr) (h : Shared) :
    ∃ tags, ws.foldl (fun h w => h.modTag w.slot fun e => e.apply w.op w.entry) h = { h with tags := tags } := by
  induction ws generalizing h with
  | nil => exact ⟨h.tags, rfl⟩
  | cons w ws ih =>
    obtain ⟨tags, e⟩ := ih (h.modTag w.slot fun e => e.apply w.op w.entry)
    exact ⟨tags, e⟩

theorem applyTags_eq (c : Core) : ∃ tags, c.applyTags = { c with sh := { c.sh with tags := tags }, tagWrs := [] } := by
  obtain ⟨tags, e⟩ := foldl_modTag c.tagWrs c.sh
  exact ⟨tags, by rw [Core.applyTags, e]⟩

theorem applyBucket_eq (c : Core) : ∃ ps, c.applyBucket = { c with prts := ps, bktWr := none } := by
  unfold Core.applyBucket
  split
  · exact ⟨_, rfl⟩
  · next h => exact ⟨c.prts, by rw [← h]⟩

/-- The helper's cycle changes nothing but the helper and the prefetches that it makes (R46). -/
theorem helperCycle_eq (c : Core) (fw : Firmware) (k : Nat) : ∃ ps h, c.helperCycle fw k = { c with prefs := ps, helper := h } := by
  unfold Core.helperCycle
  split
  · exact ⟨c.prefs, c.helper, rfl⟩
  · dsimp only
    split_ifs
    · exact ⟨c.prefs, c.helper, rfl⟩
    · exact ⟨_, _, rfl⟩
    · split
      · split_ifs
        · exact ⟨_, _, rfl⟩
        · exact ⟨_, _, rfl⟩
      · exact ⟨_, _, rfl⟩

/-- A core as the end of its ACLK leaves it, but for its tags, padding registers, helper, prefetches and pacing. -/
theorem core_endAclk {s : State} {k : Nat} (hk : k < s.cores.length) : ∃ tags ps pf h pa,
    (s.endAclk k).core k = { ({ (s.core k).applySemas with
        sh := { (s.core k).applySemas.sh with tags := tags }, tagWrs := [], prts := ps, bktWr := none } : Core).endStep with
      prefs := pf, helper := h, paceAge := pa } := by
  obtain ⟨tags, h1⟩ := applyTags_eq (s.core k).applySemas
  obtain ⟨ps, h2⟩ := applyBucket_eq (s.core k).applySemas.applyTags
  obtain ⟨pf, h, h3⟩ := helperCycle_eq (s.core k).applySemas.applyTags.applyBucket.endStep s.fw0 k
  refine ⟨tags, ps, pf, h, (s.core k).applySemas.applyTags.applyBucket.endStep.paceAge.map fun n => min 65535 (n + 1), ?_⟩
  have he : (s.endAclk k).core k = ((s.core k).applySemas.applyTags.applyBucket.endStep.helperCycle s.fw0 k).agePacing :=
    core_modCore_same hk fun c => ((c.applySemas.applyTags.applyBucket.endStep).helperCycle s.fw0 k).agePacing
  rw [he, h3, h2, h1]
  rfl

theorem step_finish {s : State} {k : Nat} (hp : s.phase = .finish k) (hk : k < 128) : step s = .next (s.endAclk k) := by
  simp only [step, hp, hk, ↓reduceIte]

theorem endStep_eq (c : Core) : ∃ xf, c.endStep = { c with
    xfly := xf, sh := { c.sh with scnt := if (c.locked != 0 && c.lockGo) = true then c.sh.scnt + 1 else c.sh.scnt },
    locked := c.locked &&& ~~~c.lleave, lleave := 0, lockGo := false } := by
  refine ⟨(c.countExchanges (c.locked != 0 && c.lockGo)).xfly, ?_⟩
  unfold Core.endStep
  generalize (c.locked != 0 && c.lockGo) = went
  cases went <;> rfl

/-! ### The obligation -/

/-- The signed amount of an add (R184). -/
theorem signed_17 (x : Nat) : signed 17 x = (BitVec.ofNat 17 x).toInt := by
  have : x % 2 ^ 17 < 2 ^ 17 := Nat.mod_lt _ (by decide)
  simp only [signed, BitVec.toInt, BitVec.toNat_ofNat]
  split_ifs <;> omega

/-- A group that meets no cause and must wait stalls its partition (R42). -/
theorem issue_stalls {s : State} {k p : Nat} {g : Group} (hc : s.canIssue k p = true)
    (hn : firstCause ((s.env k p).verdict g).causes = none) (hv : ((s.env k p).verdict g).stalls = true) :
    s.issueGroup k p g = (s.modCore k fun c => c.stall p ((s.env k p).verdict g)).nextTurn k p := by
  unfold State.issueGroup
  simp only [hc, hn, hv, ↓reduceIte, Bool.true_eq_false]

/-- The checks of a trigger of sy on clean inputs are those of their values. -/
theorem dest_sy {s : State} {k p : Nat} {src : Src} {t : Trigger} {g : Group} {it : Item} (hu : t.unit = .sy)
    (hx : s.inputsClean k p src t = true) (hr : (s.env k p).reservedUse t = false) :
    Judge.dest ⟨s.env k p, [], .go⟩ g it (.trig t) (some ((s.env k p).readPlain src)) =
      (s.env k p).judgeValue g it t (s.datum k p src t.unit) (s.ports k p t.unit) := by
  have hq : (s.env k p).q.unit t.unit = s.ports k p t.unit := rfl
  have hpo : Judge.poisoned ⟨s.env k p, [], .go⟩ t.unit (trigUses (s.env k p).sh0 (s.ports k p t.unit) t)
      (some ((s.env k p).readPlain src)) (s.ports k p t.unit) = none :=
    poisoned_clean (firstPoison_bits (Option.isNone_iff_eq_none.1 hx))
  have hun : Judge.unknown ⟨s.env k p, [], .go⟩ t.unit (trigUses (s.env k p).sh0 (s.ports k p t.unit) t) = false := by
    simp [Judge.unknown]
  have hg : isGlobal t = false := by simp [isGlobal, hu]
  have hroom : (s.env k p).judgeRoom t = .go := by rw [Env.judgeRoom, trigGmForm_of_sy hu]
  simp only [Judge.dest, Judge.trigger, hq, hg, hr, Env.judgeMx, mxRefuses_of_sy hu, hpo, hun, encodeIf, Verdict.trapIf_false,
    Bool.and_false, Bool.false_eq_true, ↓reduceIte, Verdict.go_and, Verdict.and_go, Option.isSome_some, Bool.true_or,
    Bool.not_false, Bool.true_and, hroom, judgeAccess_of_sy hu, Option.isNone_none, ite_self]
  rfl

/-- A wait on a semaphore that holds less than the value asked for stalls its partition (R184). -/
theorem exec_semw_stall {s : State} {k p : Nat} {g : Guard} {src : Src} (h : s.calm k p g src .sySemw = true)
    (hv : ((s.core k).sh0.semaAt (s.op1 k p .sy % 256)).val.toNat < s.datum k p src .sy % 65536) :
    exec (.sySemw g src) s = .next ((s.modCore k fun c => c.stall p (.stallIf true)).nextTurn k p) := by
  obtain ⟨-, ⟨hr, hx⟩, -⟩ := calm_iff.1 h
  obtain ⟨hph, hc, -⟩ := atTurn_iff.1 (ready_iff.1 hr).1
  have hj : (s.env k p).verdict (oneMove g src (.trig .sySemw)) = .stallIf true := by
    rw [verdict_one (placed_of_ready hr), dest_sy (t := .sySemw) rfl hx rfl]
    exact congrArg Verdict.stallIf (decide_eq_true hv)
  rw [exec_group rfl, execGroup_turn hph, issue_stalls hc (by rw [hj]; rfl) (by rw [hj]; rfl), hj]

theorem prt_stall_same {c : Core} {p : Nat} (hp : p < c.prts.length) (v : Verdict) (hr : v.refill = none) :
    ((c.stall p v).prt p).pc = (c.prt p).pc ∧ ((c.stall p v).prt p).left = (c.prt p).left ∧ ((c.stall p v).prt p).stalled = true := by
  unfold Core.stall
  simp only [hr]
  split_ifs <;> simp only [prt_modSh, prt_modPrt_same hp, and_self]

/-- Settles O18: each trigger of a semaphore by what it leaves of its cycle, and the end of an ACLK by the one sum that
each semaphore takes. -/
theorem semaphoreTriggers : Obligations.SemaphoreTriggers := by
  unfold Obligations.SemaphoreTriggers
  intro s k p g src c q x n sm rd
  refine ⟨fun h hx => ?wait, fun h hx => ?stall, fun h => ?add, yields_plain rfl rfl rfl, fun hph hk hlen => ?finish⟩
  case wait =>
    have hq := moveEnv_q s k p src
    have hpass : Passes s k p g src .sySemw := passes_sy rfl rfl (congrArg Verdict.stallIf (decide_eq_false (Nat.not_lt.2 hx)))
    obtain ⟨u, hu, hcore, hprt, hadv⟩ := calm_leaves (i := .sySemw g src) (e := s.moveEnv k p src) rfl h hpass rfl (moveEnv_of s k p src)
      (hq ▸ (calm_sameStream h).loop)
    refine ⟨u, hu, hadv (hq ▸ calm_sameStream h), by rw [hprt]; rfl, ?_⟩
    rw [hcore, endCycle_semAdds, core_modPrt_semAdds, moveEnv_core]
  case stall =>
    obtain ⟨hk, hp⟩ := has_iff.1 (calm_iff.1 h).1
    refine ⟨_, exec_semw_stall h hx, ?_⟩
    rw [nextTurn_core, core_modCore_same hk]
    exact prt_stall_same hp _ rfl
  case add =>
    have hq := moveEnv_q s k p src
    have hpass : Passes s k p g src .sySema := passes_sy rfl rfl rfl
    obtain ⟨u, hu, hcore, -, hadv⟩ := calm_leaves (i := .sySema g src)
      (e := { s.moveEnv k p src with core := (s.moveEnv k p src).core.semAdd n (signed 17 x) }) rfl h hpass rfl
      (withCore_of (moveEnv_of s k p src) rfl) (by exact hq ▸ (calm_sameStream h).loop)
    refine ⟨u, hu, hadv (by exact hq ▸ calm_sameStream h), ?_⟩
    rw [hcore, endCycle_semAdds, core_modPrt_semAdds, ← signed_17]
    simp only [Core.semAdd, moveEnv_core]
    rfl
  case finish =>
    refine ⟨_, step_finish hph hk, ?_⟩
    obtain ⟨tags, ps, pf, hlp, pa, e⟩ := core_endAclk hlen
    obtain ⟨xf, e'⟩ := endStep_eq { c.applySemas with sh := { c.applySemas.sh with tags := tags }, tagWrs := [], prts := ps, bktWr := none }
    rw [e, e']
    refine ⟨rfl, rfl, fun m hm => ?_⟩
    have hz := applySemas_semaAt c hm
    exact ⟨(congrArg (fun y => (y.val.toNat : Int)) hz).trans (semaApply_val _ _ _),
      (iff_of_eq (congrArg (fun y => y.ovf = true) hz)).trans (semaApply_ovf _ _ _)⟩

end Sys2Proof.Machine
end

section
/-! The other triggers of sy (R33, R44, R185 to R189, R267, R353). -/

namespace Sys2Proof.Machine

section
variable {s : State} {k p : Nat} {g : Guard} {src : Src} {i : Instr} {t : Trigger}

/-- A trigger of sy that records something in its partition: the partition is left as the record has it, its cycle ended. -/
theorem calm_records {f : Partition → Partition}
    (hi : i.group = some (oneMove g src (.trig t))) (h : s.calm k p g src t = true) (hc : Passes s k p g src t)
    (hf : (s.moveEnv k p src).fireClean 1 t (s.datum k p src t.unit) (s.ports k p t.unit) = (s.moveEnv k p src).modQ f)
    (hq : SameStream ((s.core k).prt p) (f ((s.core k).prt p))) :
    ∃ u, exec i s = .next u ∧
      (u.core k).prt p = ({ f ((s.core k).prt p) with idle := 0 } : Partition).closed 1 false (s.core k).preempting ∧
      Advances ((s.core k).prt p) ((u.core k).prt p) 1 := by
  have hs := (calm_iff.1 h).1
  have hm := moveEnv_of s k p src
  have he : ((s.moveEnv k p src).modQ f).q = f ((s.core k).prt p) := by rw [q_modQ hm hs, moveEnv_q]
  obtain ⟨u, hu, -, hp, ha⟩ := calm_leaves hi h hc hf (modQ_of hm f) (by rw [he]; exact hq.loop)
  refine ⟨u, hu, ?_, ha (by rw [he]; exact hq)⟩
  rw [hp, he]
  simp only [Env.modQ, moveEnv_core]
  rfl

/-- The queue entry of a mark (R267). -/
def Env.markOp (e : Env) (sc : Scope) : MemOp :=
  ⟨e.core.seq, .mark sc, .sy, 0, 0, false, 0, 0, 0, 0, 0, 0, 0, false, e.q0.secNo - 1, false, false⟩

theorem mark_of {e : Env} (h : e.Of s k p) (sc : Scope) : (e.mark sc).Of s k p :=
  withCore_of (modQ_of h fun q => { q with mops := q.mops ++ [e.markOp sc] }) rfl

theorem mark_q {e : Env} (h : e.Of s k p) (hs : s.has k p = true) (sc : Scope) :
    (e.mark sc).q = { e.q with mops := e.q.mops ++ [e.markOp sc] } :=
  q_modQ h hs fun q => { q with mops := q.mops ++ [e.markOp sc] }

/-- A mark enters the queues of its partition (R267). -/
theorem calm_mark {sc : Scope} (hi : i.group = some (oneMove g src (.trig (.syMark sc)))) (h : s.calm k p g src (.syMark sc) = true) :
    ∃ u, exec i s = .next u ∧ ∃ o, ((u.core k).prt p).mops = ((s.core k).prt p).mops ++ [o] ∧ o.kind = .mark sc ∧
      o.id = (s.core k).seq ∧ Advances ((s.core k).prt p) ((u.core k).prt p) 1 := by
  have hm := moveEnv_of s k p src
  have hq := mark_q hm (calm_iff.1 h).1 sc
  rw [moveEnv_q] at hq
  have hsame := calm_sameStream h
  obtain ⟨u, hu, -, hp, ha⟩ := calm_leaves (e := (s.moveEnv k p src).mark sc) hi h (passes_sy rfl rfl rfl) rfl (mark_of hm sc)
    (by rw [hq]; exact hsame.loop)
  refine ⟨u, hu, (s.moveEnv k p src).markOp sc, ?_, rfl, congrArg Core.seq (moveEnv_core s k p src),
    ha (by rw [hq]; exact ⟨rfl, rfl, hsame.joined, hsame.loop⟩)⟩
  rw [hp, closed_mops, hq]

/-- A partition that leaves the locked group is to leave it at the end of the step, and nothing else (R44, R186). -/
theorem leaveLock_eq (e : Env) : e.leaveLock =
    { e with core := { e.core with lleave := if e.core.isLocked e.p then putBit e.core.lleave e.p true else e.core.lleave } } := by
  unfold Env.leaveLock
  split_ifs <;> rfl

/-- A join: the partition issues no more, and leaves the locked group (R33, R186). -/
def Env.join (e : Env) : Env := (e.modQ fun q => { q with joined := true }).leaveLock

theorem join_of {e : Env} (h : e.Of s k p) : e.join.Of s k p := by
  rw [Env.join, leaveLock_eq]
  exact withCore_of (modQ_of h _) rfl

theorem join_q {e : Env} (h : e.Of s k p) (hs : s.has k p = true) : e.join.q = { e.q with joined := true } := by
  rw [Env.join, leaveLock_eq]
  exact q_modQ h hs fun q => { q with joined := true }

theorem join_lleave (e : Env) : e.join.core.lleave = if e.core.isLocked e.p then putBit e.core.lleave e.p true else e.core.lleave := by
  rw [Env.join, leaveLock_eq]
  rfl

/-- A lock that names its own partition meets nothing, with no group formed and no other mask pending (R186, R374). -/
theorem judgeValue_lock {x : Nat} {w : Group} {it : Item} {r : UnitRegs} (hm : (BitVec.ofNat 12 x).getLsbD p = true)
    (hl : (s.core k).locked = 0) (hp : (s.core k).lpend = 0 ∨ (s.core k).lpend = BitVec.ofNat 12 x) :
    (s.env k p).judgeValue w it .syLock x r = .go := by
  have h1 : (s.env k p).locked = false := by
    show (s.core k).locked.getLsbD p = false
    rw [hl]
    exact BitVec.getLsbD_zero
  have h2 : ((s.core k).lpend != 0 && (s.core k).lpend != BitVec.ofNat 12 x) = false := by
    rcases hp with h | h <;> simp [h]
  have h3 : (!(BitVec.ofNat 12 x).getLsbD p || (s.env k p).locked) = false := by rw [hm, h1]; rfl
  show (if (!(BitVec.ofNat 12 x).getLsbD p || (s.env k p).locked) = true then _ else
    if (s.core k).locked ≠ 0 then _ else encodeIf ((s.core k).lpend != 0 && (s.core k).lpend != BitVec.ofNat 12 x) _ _) = Verdict.go
  rw [h3, if_neg Bool.false_ne_true, if_neg (not_not_intro hl), h2]
  rfl

/-- The event that a partition takes from the queue of its core (R189). -/
theorem exec_evt (hb : s.datum k p src .sy / 32 % 8192 * 32 < 196608) (h : s.fires k p g src .syEvt = true) :
    exec (.syEvt g src) s = .next (s.afterMove k p src fun e => e.takeEvent (s.datum k p src .sy)) := by
  simp only [State.fires, Bool.and_eq_true] at h
  have hv : decide (196608 ≤ s.datum k p src .sy / 32 % 8192 * 32) = false := decide_eq_false (Nat.not_le.2 hb)
  have hpass : Passes s k p g src .syEvt := passes_sy rfl rfl (by
    show Verdict.trapIf (decide (196608 ≤ s.datum k p src .sy / 32 % 8192 * 32)) .bound 0 _ _ = .go
    rw [hv]
    rfl)
  have hl : ∀ e : Env, (e.takeEvent (s.datum k p src .sy)).q.loop.active = e.q.loop.active := by
    intro e
    unfold Env.takeEvent
    split
    · rw [launch_loop]
    · rw [launch_loop]; rfl
  refine (exec_trigger rfl h.1 h.2 hpass ?_).trans rfl
  refine Bool.and_eq_false_iff.2 ?_
  have := hl (s.moveEnv k p src)
  rw [moveEnv_q] at this
  cases hc : ((s.core k).prt p).loop.active
  · exact .inl (this.trans hc)
  · exact .inr rfl

end

theorem putBit_getLsbD {w k : Nat} (x : BitVec w) (h : k < w) : (putBit x k true).getLsbD k = true := by
  simp [putBit, h]

/-- Settles O19: what each trigger of sy leaves of its partition and its core at the end of its cycle. -/
theorem synchronisationTriggers : Obligations.SynchronisationTriggers := by
  unfold Obligations.SynchronisationTriggers
  intro s k p g src c q x m done mark
  have hq := moveEnv_q s k p src
  refine ⟨fun h => ?join, fun h hm hlk hpd hp => ?lock, fun h hp => ?unlock, fun h => ?rgn, fun h => ?rah, fun h => ?chk,
    calm_mark rfl, calm_mark rfl, calm_mark rfl, calm_mark rfl, calm_mark rfl, fun y ys hy hb h => ?event, fun hy hb h => ?none⟩
  case join =>
    have hm := moveEnv_of s k p src
    have hj := join_q hm (calm_iff.1 h).1
    have hloop := (calm_sameStream h).loop
    rw [hq] at hj
    obtain ⟨u, hu, hc, hr, -⟩ := calm_leaves (i := .syJoin g src) (e := (s.moveEnv k p src).join) rfl h (passes_sy rfl hloop rfl) rfl
      (join_of hm) (by rw [hj]; exact hloop)
    obtain ⟨hz, ht⟩ := closed_join (q := { q with joined := true, idle := 0 }) 1 (s.moveEnv k p src).join.core.preempting hloop rfl
    rw [hj] at hr
    refine ⟨u, hu, by rw [hr, closed_joined], by rw [hr]; exact hz, by rw [hr]; exact ht, fun hk => ?_⟩
    rw [hc, endCycle_lleave, core_modPrt_lleave, join_lleave, moveEnv_core, moveEnv_p, if_pos hk]
    exact putBit_getLsbD _ (BitVec.lt_of_getLsbD hk)
  case lock =>
    obtain ⟨u, hu, hc, -, ha⟩ := calm_leaves (i := .syLock g src) (e := (s.moveEnv k p src).lock m) rfl h
      (passes_sy rfl rfl (judgeValue_lock hm hlk hpd)) rfl
      (withCore_of (moveEnv_of s k p src) rfl) (by exact hq ▸ (calm_sameStream h).loop)
    refine ⟨u, hu, ?_, ?_, ha (by exact hq ▸ calm_sameStream h)⟩
    · rw [hc, endCycle_lpend, core_modPrt_lpend]
      simp only [Env.lock, moveEnv_core]
      split_ifs with h0
      · rfl
      · exact hpd.resolve_left h0
    · rw [hc, endCycle_lwait, core_modPrt_lwait]
      exact (congrArg (fun i => BitVec.getLsbD (putBit (s.moveEnv k p src).core.lwait i true) p) (moveEnv_p s k p src)).trans
        (putBit_getLsbD _ hp)
  case unlock =>
    have he : (s.moveEnv k p src).leaveLock.Of s k p := by rw [leaveLock_eq]; exact withCore_of (moveEnv_of s k p src) rfl
    have hl : (s.moveEnv k p src).leaveLock.q = q := by rw [leaveLock_eq]; exact hq
    obtain ⟨u, hu, hc, -, ha⟩ := calm_leaves (i := .syUnlock g src) (e := (s.moveEnv k p src).leaveLock) rfl h (passes_sy rfl rfl rfl) rfl
      he (by rw [hl]; exact (calm_sameStream h).loop)
    refine ⟨u, hu, ha (by rw [hl]; exact calm_sameStream h), ?_⟩
    rw [hc, endCycle_lleave, core_modPrt_lleave, leaveLock_eq, moveEnv_core, moveEnv_p]
    split_ifs
    · exact putBit_getLsbD _ hp
    · rfl
  case rgn =>
    obtain ⟨u, hu, hr, ha⟩ := calm_records (i := .syRgn g src)
      (f := fun r => { r with rgnPc := q.pc, rgnWrem := BitVec.ofNat 9 q.left, rgnSec := q.secNo - 1 }) rfl h (passes_sy rfl rfl rfl)
      (by simp only [Env.fireClean, Env.result, Env.fireOther, moveEnv_q0]; rfl)
      ⟨rfl, rfl, (calm_sameStream h).joined, (calm_sameStream h).loop⟩
    refine ⟨u, hu, ?_, ?_, ha⟩
    · rw [hr, closed_rgnPc]
    · rw [hr, closed_rgnWrem]
  case rah =>
    obtain ⟨u, hu, hr, ha⟩ := calm_records (i := .syRah g src) (f := fun r => { r with rah := BitVec.ofNat 13 (x / 4) }) rfl h
      (passes_sy rfl rfl rfl) rfl ⟨rfl, rfl, (calm_sameStream h).joined, (calm_sameStream h).loop⟩
    exact ⟨u, hu, by rw [hr, closed_rah], ha⟩
  case chk =>
    obtain ⟨u, hu, -, hr, ha⟩ := calm_leaves (i := .syChk g src) (e := s.moveEnv k p src) rfl h
      (passes_sy rfl rfl rfl) rfl (moveEnv_of s k p src) (hq ▸ (calm_sameStream h).loop)
    exact ⟨u, hu, by rw [hr, closed_units, hq], ha (hq ▸ calm_sameStream h)⟩
  case event =>
    rw [exec_evt hb h, afterMove_eq, afterMove_eq, Env.takeEvent, moveEnv_core, show (s.core k).sh.evq = y :: ys from hy]
  case none => rw [exec_evt hb h, afterMove_eq, afterMove_eq, Env.takeEvent, moveEnv_core, show (s.core k).sh.evq = [] from hy]

end Sys2Proof.Machine
end

section
/-! Writes of control registers (R40, R71, R79 to R81, R93, R94, R101, R136, R187, R188, R354, R362, R363): what the
write of a number changes, and the word of one move that makes it. -/

namespace Sys2Proof.Machine

/-! ### Fields of a written word -/

theorem ofNat_fld (x : Word) (lo len : Nat) : BitVec.ofNat len (fld x lo len) = x.extractLsb' lo len := by
  apply BitVec.eq_of_toNat_eq
  rw [BitVec.toNat_ofNat, fld, Nat.mod_mod, BitVec.extractLsb'_toNat, Nat.shiftRight_eq_div_pow]

theorem ofNat_fld_zero (x : Word) (len : Nat) : BitVec.ofNat len (fld x 0 len) = x.setWidth len := by
  apply BitVec.eq_of_toNat_eq
  rw [BitVec.toNat_ofNat, fld, Nat.mod_mod, Nat.pow_zero, Nat.div_one, BitVec.toNat_setWidth]

theorem and_padvMask (x : Word) : x &&& padvMask = x := BitVec.and_allOnes

/-! ### What a write changes -/

/-- What holds of the value of every number of a partition's or core's own registers, and of the value of any other, holds of
the value that a number selects (R80). -/
theorem creg_select {α : Type} {P : α → Prop} {a b c d e f g h j z : α} (i : Nat) (ha : P a) (hb : P b) (hc : P c) (hd : P d) (he : P e)
    (hf : P f) (hg : P g) (hh : P h) (hj : P j) (hz : P z) :
    P (match i with
      | 0x10C => a | 0x10D => b | 0x10E => c | 0x10F => d | 0x120 => e | 0x121 => f | 0x122 => g | 0x123 => h | 0x140 => j | _ => z) := by
  split <;> assumption

/-- A number that is none of those selects what is left. -/
theorem creg_select_none {α : Type} {a b c d e f g h j z : α} {i : Nat} (hi : i < 0x10C ∨ (0x10F < i ∧ i < 0x120) ∨ (0x123 < i ∧ i ≠ 0x140)) :
    (match (generalizing := false) i with
      | 0x10C => a | 0x10D => b | 0x10E => c | 0x10F => d | 0x120 => e | 0x121 => f | 0x122 => g | 0x123 => h | 0x140 => j | _ => z) = z := by
  split <;> first | omega | rfl

/-- r is e with registers of its partition changed and nothing of where its stream stands, or with its partitions as they
are. -/
def Env.WritesRegs (e r : Env) : Prop :=
  (∃ f : Partition → Partition, r = e.modQ f ∧
    ∀ q, (f q).pc = q.pc ∧ (f q).left = q.left ∧ (f q).joined = q.joined ∧ (f q).loop = q.loop) ∨
  ∃ c fw, r = { e with core := c, fw := fw } ∧ c.prts = e.core.prts

theorem Env.WritesRegs.core {e : Env} {c : Core} {fw : Firmware} (h : c.prts = e.core.prts) : e.WritesRegs { e with core := c, fw := fw } :=
  .inr ⟨c, fw, rfl, h⟩

theorem cregWrite_regs (e : Env) (i : Nat) (x : Word) : e.WritesRegs (e.cregWrite i x) := by
  have same : e.WritesRegs e := .core rfl
  have mods (f : Partition → Partition) (h : ∀ q, (f q).pc = q.pc ∧ (f q).left = q.left ∧ (f q).joined = q.joined ∧ (f q).loop = q.loop) :
      e.WritesRegs (e.modQ f) := .inl ⟨f, rfl, h⟩
  have shared (f : Shared → Shared) : e.WritesRegs (e.modSh f) := Env.WritesRegs.core (c := e.core.modSh f) (fw := e.fw) rfl
  unfold Env.cregWrite
  dsimp only
  split_ifs
  · exact Env.WritesRegs.core (c := { e.core with semWrs := _ }) (fw := e.fw) rfl
  · exact mods _ fun _ => ⟨rfl, rfl, rfl, rfl⟩
  · exact mods _ fun _ => ⟨rfl, rfl, rfl, rfl⟩
  · exact shared _
  · exact same
  · exact Env.WritesRegs.core (c := e.core) rfl
  · exact same
  · exact shared _
  · exact same
  · refine creg_select i ?_ ?_ ?_ ?_ ?_ ?_ ?_ ?_ (shared _) same <;> exact mods _ fun _ => ⟨rfl, rfl, rfl, rfl⟩
  · refine creg_select i ?_ ?_ ?_ ?_ ?_ ?_ ?_ ?_ same same <;> exact mods _ fun _ => ⟨rfl, rfl, rfl, rfl⟩

section
variable {s : State} {k p : Nat} {e : Env}

theorem cregWrite_of (h : e.Of s k p) (i : Nat) (x : Word) : (e.cregWrite i x).Of s k p := by
  obtain ⟨f, he, -⟩ | ⟨c, fw, he, hc⟩ := cregWrite_regs e i x
  · rw [he]; exact modQ_of h f
  · rw [he]; exact ⟨h.atCore, h.atPrt, (congrArg List.length hc).trans h.prts⟩

theorem q_cregWrite (h : e.Of s k p) (hs : s.has k p = true) (i : Nat) (x : Word) :
    ((e.cregWrite i x).q.pc = e.q.pc ∧ (e.cregWrite i x).q.left = e.q.left ∧ (e.cregWrite i x).q.joined = e.q.joined ∧
      (e.cregWrite i x).q.loop = e.q.loop) := by
  obtain ⟨f, he, hf⟩ | ⟨c, fw, he, hc⟩ := cregWrite_regs e i x
  · rw [he, q_modQ h hs]
    exact hf e.q
  · have : (e.cregWrite i x).q = e.q := by rw [he]; simp only [Env.q, Core.prt, hc]
    rw [this]
    exact ⟨rfl, rfl, rfl, rfl⟩

end

/-- A number that no write changes: read-only, or not assigned (R79). -/
theorem cregWrite_unassigned {i : Nat} (e : Env) (x : Word)
    (h : (0x110 ≤ i ∧ i ≤ 0x11F) ∨ (0x124 ≤ i ∧ i ≤ 0x12F) ∨ i = 0x137 ∨ (0x13A ≤ i ∧ i ≤ 0x13F) ∨ (0x141 ≤ i ∧ i ≤ 0x1FF)) :
    e.cregWrite i x = e := by
  unfold Env.cregWrite
  dsimp only
  split_ifs <;> first | omega | rfl | exact creg_select_none (i := i) (by omega)

/-- Pacing and the FTB are written by firmware only (R101, R318). -/
theorem cregWrite_user {i : Nat} {e : Env} (x : Word) (hk : isFwCore e.k = false)
    (h : (0x130 ≤ i ∧ i ≤ 0x13F) ∨ (0x200 ≤ i ∧ i ≤ 0x3FF)) : e.cregWrite i x = e := by
  unfold Env.cregWrite
  simp only [hk, Bool.false_eq_true, ↓reduceIte, false_and]
  split_ifs <;> first | omega | rfl

/-- A number from 0x400 on that no rule names, or read-only, keeps what it has (log 16). -/
theorem fwWrite_ignored {i : Nat} (f : Firmware) (x : Word) (h : i = 0x402 ∨ (0x405 ≤ i ∧ i ≤ 0x407) ∨ i = 0x40B ∨ 0x410 ≤ i) :
    fwWrite f i x = f := by
  unfold fwWrite
  split <;> first | omega | rfl

theorem cregWrite_firmware {i : Nat} {e : Env} (x : Word) (hk : isFwCore e.k = true) (h : 0x400 ≤ i) :
    e.cregWrite i x = { e with fw := fwWrite e.fw i x } := by
  unfold Env.cregWrite
  rw [if_neg (by omega), if_neg (by omega), if_neg (by omega), if_neg (by omega), if_pos h, if_pos hk]

theorem cregWrite_gap {i : Nat} {e : Env} (x : Word) (hk : isFwCore e.k = true) (h : 0x130 ≤ i) (h' : i < 0x13A) (hn : i ≠ 0x137) :
    e.cregWrite i x = e.modSh fun h => { h with gap := h.gap.set (i - 0x130) (x.setWidth 16) } := by
  unfold Env.cregWrite
  rw [if_neg (by omega), if_neg (by omega), if_neg (by omega), if_neg (by omega), if_neg (by omega), if_pos (by omega),
    if_pos ⟨hk, by omega, by omega⟩, ofNat_fld_zero]

theorem cregWrite_ftb {i : Nat} {e : Env} (x : Word) (hk : isFwCore e.k = true) (h : 0x200 ≤ i) (h' : i < 0x400) :
    e.cregWrite i x = e.modSh fun h => { h with
      ftb := h.ftb.set ((i - 0x200) / 4) (FtbEntry.put (h.ftb.getD ((i - 0x200) / 4) ⟨0, 0, 0, 0⟩) (i % 4) x) } := by
  unfold Env.cregWrite
  rw [if_neg (by omega), if_neg (by omega), if_neg (by omega), if_pos ⟨h, h'⟩, if_pos hk]

/-! ### The word of a write -/

/-- The word that a move writes into a control register. -/
def State.cregWord (s : State) (k p : Nat) (src : Src) : Word := (((s.env k p).readPlain src).at 8).setWidth 64

section
variable {s : State} {k p : Nat} {g : Guard} {src : Src} {i : Instr} {l : BitVec 12}

/-- A move into a control register that its core may write (R79, R368). -/
theorem exec_creg (hi : i.group = some (oneMove g src (.creg l))) (hr : s.ready k p g src (.creg l) = true) (hk : l.toNat < 0x400 ∨ k = 0)
    (hl : ((s.moveEnv k p src).cregWrite l.toNat (s.cregWord k p src)).q.loop = ((s.core k).prt p).loop) :
    exec i s = .next (s.endGroup k p 1 ((s.moveEnv k p src).cregWrite l.toNat (s.cregWord k p src))) := by
  have hpsn := (ready_iff.1 hr).2.2.2.2.2
  have hm : (s.env k p).moved src (.creg l) = (s.moveEnv k p src).cregWrite l.toNat (s.cregWord k p src) := by
    rw [Env.moved, readSrc_snd]
    rfl
  have hc : (s.env k p).cregCheck l 0 = .go := by
    have : (decide (0x400 ≤ l.toNat) && !isFwCore k) = false := by
      rcases hk with h | rfl
      · rw [decide_eq_false (Nat.not_le.2 h), Bool.false_and]
      · exact Bool.and_false _
    exact congrArg (fun b => Verdict.trapIf b .priv 0 (l.setWidth 64) 0) this
  have hd : Judge.dest ⟨s.env k p, [], .go⟩ (oneMove g src (.creg l)) ⟨0, 0, g, .move src (.creg l)⟩ (.creg l)
      (some ((s.env k p).readPlain src)) = .go := by
    simp only [Judge.dest, hc, hpsn, Bool.false_eq_true, ↓reduceIte, Verdict.go_and]
  rw [exec_group hi, execGroup_turn (atTurn_iff.1 (ready_iff.1 hr).1).1,
    issue_one (placed_of_ready hr) hd (by rw [hm, hl]; exact Bool.and_not_self _), hm]
  rfl

/-- A move into a control register whose write changes nothing. -/
theorem exec_creg_ignored (hi : i.group = some (oneMove g src (.creg l))) (hk : l.toNat < 0x400 ∨ k = 0)
    (hw : ∀ e : Env, e.k = k → e.cregWrite l.toNat (s.cregWord k p src) = e) (hr : s.ready k p g src (.creg l) = true) :
    exec i s = .next (s.afterMove k p src fun e => e) := by
  have he := hw (s.moveEnv k p src) (moveEnv_k s k p src)
  rw [exec_creg hi hr hk (by rw [he, moveEnv_q]), he, afterMove_eq]

/-- What a write of a control register leaves of its partition, its core and the registers of the firmware core, and the
stream that goes on. -/
theorem creg_leaves {e : Env} (hi : i.group = some (oneMove g src (.creg l))) (hk : l.toNat < 0x400 ∨ k = 0)
    (he : (s.moveEnv k p src).cregWrite l.toNat (s.cregWord k p src) = e) (hs : s.has k p = true) (hr : s.ready k p g src (.creg l) = true) :
    ∃ u, exec i s = .next u ∧ Advances ((s.core k).prt p) ((u.core k).prt p) 1 ∧
      u.core k = (e.core.modPrt p fun q => { q with idle := 0 }).endCycle p 1 ((s.core k).prt p).loop.active ∧
      (u.core k).prt p = ({ e.q with idle := 0 } : Partition).closed 1 ((s.core k).prt p).loop.active e.core.preempting ∧ u.fw = e.fw := by
  have hm := moveEnv_of s k p src
  obtain ⟨h1, h2, h3, h4⟩ := q_cregWrite hm hs l.toNat (s.cregWord k p src)
  have ho := cregWrite_of hm l.toNat (s.cregWord k p src)
  rw [he, moveEnv_q] at h1 h2 h3 h4
  rw [he] at ho
  refine ⟨_, (exec_creg hi hr hk (by rw [he, h4])).trans (by rw [he]), ?_, core_endGroup hs ho 1, prt_endGroup hs ho 1, rfl⟩
  intro hl
  exact advances_endGroup hs ho hl ⟨h1, h2, h3.trans (joined_of_ready hr), (congrArg LoopState.active h4).trans hl⟩ 1 hl

/-- A write that changes the partition's registers only. -/
theorem creg_partition {P : Partition → Prop} (f : Partition → Partition) (hi : i.group = some (oneMove g src (.creg l))) (hl : l.toNat < 0x400)
    (he : (s.moveEnv k p src).cregWrite l.toNat (s.cregWord k p src) = (s.moveEnv k p src).modQ f)
    (hP : ∀ was pre, P (({ f ((s.core k).prt p) with idle := 0 } : Partition).closed 1 was pre)) (hs : s.has k p = true)
    (hr : s.ready k p g src (.creg l) = true) :
    ∃ u, exec i s = .next u ∧ P ((u.core k).prt p) ∧ Advances ((s.core k).prt p) ((u.core k).prt p) 1 := by
  obtain ⟨u, hu, ha, -, hq, -⟩ := creg_leaves hi (.inl hl) he hs hr
  rw [q_modQ (moveEnv_of s k p src) hs, moveEnv_q] at hq
  exact ⟨u, hu, hq ▸ hP _ _, ha⟩

/-- A write that changes the core's shared state only. -/
theorem creg_shared {P : Shared → Prop} (f : Shared → Shared) (hi : i.group = some (oneMove g src (.creg l))) (hl : l.toNat < 0x400)
    (he : (s.moveEnv k p src).cregWrite l.toNat (s.cregWord k p src) = (s.moveEnv k p src).modSh f)
    (hP : P ((f (s.core k).sh).countIntervals p 0xFF)) (hs : s.has k p = true) (hr : s.ready k p g src (.creg l) = true) :
    ∃ u, exec i s = .next u ∧ P (u.core k).sh ∧ Advances ((s.core k).prt p) ((u.core k).prt p) 1 := by
  obtain ⟨u, hu, ha, hc, -, -⟩ := creg_leaves hi (.inl hl) he hs hr
  have hsh : (u.core k).sh = (f (s.core k).sh).countIntervals p 0xFF := by
    rw [hc]
    exact congrArg (fun d : Core => (f d.sh).countIntervals p 0xFF) (moveEnv_core s k p src)
  exact ⟨u, hu, hsh ▸ hP, ha⟩

/-- A write of a register of the firmware core. -/
theorem creg_firmware {P : Firmware → Prop} (hi : i.group = some (oneMove g src (.creg l))) (hk : k = 0) (hl : 0x400 ≤ l.toNat)
    (hP : P (fwWrite s.fw l.toNat (s.cregWord k p src))) (hs : s.has k p = true) (hr : s.ready k p g src (.creg l) = true) :
    ∃ u, exec i s = .next u ∧ P u.fw ∧ Advances ((s.core k).prt p) ((u.core k).prt p) 1 := by
  have he := cregWrite_firmware (i := l.toNat) (e := s.moveEnv k p src) (s.cregWord k p src) (by rw [moveEnv_k, hk]; rfl) hl
  obtain ⟨u, hu, ha, -, -, hf⟩ := creg_leaves hi (.inr hk) he hs hr
  rw [moveEnv_fw] at hf
  exact ⟨u, hu, hf ▸ hP, ha⟩

end

/-! ### The registers of each number -/

theorem cregNumber_sema (n : BitVec 8) : (n.setWidth 12).toNat < 0x400 := by revert n; decide
theorem cregNumber_view (v : BitVec 3) : (0x100#12 ||| v.setWidth 12).toNat < 0x400 := by revert v; decide
theorem cregNumber_bucket (b : BitVec 2) : (0x108#12 ||| b.setWidth 12).toNat < 0x400 := by revert b; decide

section
variable (e : Env) (x : Word)

theorem cregWrite_sema (n : BitVec 8) :
    e.cregWrite (n.setWidth 12).toNat x = { e with core := { e.core with semWrs := e.core.semWrs ++ [⟨n.toNat, e.p, x.setWidth 16, x.getLsbD 16⟩] } } := by
  have hn : (n.setWidth 12).toNat = n.toNat := BitVec.toNat_setWidth_of_le (by decide)
  unfold Env.cregWrite
  rw [hn, if_pos n.isLt, ofNat_fld_zero, bit]

theorem cregWrite_view (v : BitVec 3) :
    e.cregWrite (0x100#12 ||| v.setWidth 12).toNat x = e.modQ fun q => { q with views := q.views.set v.toNat (x &&& viewMask) } := by
  have hv : (0x100#12 ||| v.setWidth 12).toNat = 0x100 + v.toNat := by revert v; decide
  have := v.isLt
  unfold Env.cregWrite
  rw [hv, if_neg (by omega), if_pos (by omega), Nat.add_sub_cancel_left]

theorem cregWrite_bucket (b : BitVec 2) :
    e.cregWrite (0x108#12 ||| b.setWidth 12).toNat x = e.modQ fun q => { q with bt := q.bt.set b.toNat (x.extractLsb' 2 13) } := by
  have hb : (0x108#12 ||| b.setWidth 12).toNat = 0x108 + b.toNat := by revert b; decide
  have := b.isLt
  unfold Env.cregWrite
  rw [hb, if_neg (by omega), if_neg (by omega), if_pos (by omega), Nat.add_sub_cancel_left, ofNat_fld]

end

theorem cregWrite_event (e : Env) (x : Word) :
    e.cregWrite 0x140 x = e.modSh fun h => if x.getLsbD 15 then { h with evOvf := false, evLost := 0 } else h := by
  change (if x.getLsbD 15 then e.modSh fun h => { h with evOvf := false, evLost := 0 } else e) = _
  cases x.getLsbD 15 <;> rfl

theorem ftbEntry_put (y : FtbEntry) (dw : Fin 4) (x : Word) : y.put dw x = match dw with
    | 0 => { y with vabase := x &&& 0x0000FFFFFFFFF000#64 }
    | 1 => { y with valimit := x &&& 0x0000FFFFFFFFF000#64 }
    | 2 => { y with iabase := x &&& 0x0000FFFFFFFFF000#64 }
    | 3 => { y with attr := x &&& 0xFE00000000000000#64 } := by
  fin_cases dw <;> rfl

/-- Settles O24: a word of one move goes on with the stream and applies cregWrite (creg_leaves); each number is a case of it. -/
theorem controlRegisterWrites : Obligations.ControlRegisterWrites := by
  unfold Obligations.ControlRegisterWrites
  intro s k p g src n v j c q x pc done reg ignored among
  have prt {i : Instr} {l : BitVec 12} {f : Partition → Partition} (P : Partition → Prop)
      (hi : i.group = some (oneMove g src (.creg l))) (hl : l.toNat < 0x400)
      (he : (s.moveEnv k p src).cregWrite l.toNat x = (s.moveEnv k p src).modQ f)
      (hP : ∀ was pre, P (({ f q with idle := 0 } : Partition).closed 1 was pre)) : done i l fun r _ _ => P r :=
    creg_partition f hi hl he hP
  have shared (l : BitVec 12) {f : Shared → Shared} (P : Shared → Prop)
      (he : (s.moveEnv k p src).cregWrite l.toNat x = (s.moveEnv k p src).modSh f) (hl : l.toNat < 0x400)
      (hP : P ((f c.sh).countIntervals p 0xFF)) : reg l fun _ d _ => P d.sh := creg_shared f rfl hl he hP
  have fw (l : BitVec 12) (P : Firmware → Prop) (hk : k = 0) (hl : 0x400 ≤ l.toNat) (hP : P (fwWrite s.fw l.toNat x)) :
      reg l fun _ _ t => P t.fw := creg_firmware rfl hk hl hP
  have regPrt (l : BitVec 12) {f : Partition → Partition} (P : Partition → Prop) := prt (i := .ctrlRegWrite l g src) (f := f) P rfl
  refine ⟨?sema, ?view, ?fpcsr, ?bucket, ?rgn, ?rah, ?pstat, ?padv, ?mxpad, ?kvpad, ?kvpos, ?event, ?unassigned, ?user, ?readOnly, ?firmware⟩
  case sema =>
    intro hs hr
    obtain ⟨u, hu, ha, hc, -, -⟩ := creg_leaves (i := .semaWrite n g src) rfl (.inl (cregNumber_sema n)) (cregWrite_sema _ _ n) hs hr
    refine ⟨u, hu, (congrArg Core.semWrs hc).trans ?_, ha⟩
    rw [endCycle_semWrs, moveEnv_p]
    exact congrArg (fun d : Core => d.semWrs ++ _) (moveEnv_core s k p src)
  case view => exact prt (i := .viewWrite v g src) (·.views = _) rfl (cregNumber_view v) (cregWrite_view _ _ v) fun _ _ => closed_views ..
  case bucket => exact fun b => regPrt _ (·.bt = _) (cregNumber_bucket b) (cregWrite_bucket _ _ b) fun _ _ => closed_bt ..
  case fpcsr =>
    refine prt (fun r => r.rm = x.extractLsb' 8 2 ∧ r.fpf = x.setWidth 5) rfl (by decide) rfl fun _ _ => ?_
    rw [closed_rm, closed_fpf]; exact ⟨ofNat_fld .., ofNat_fld_zero ..⟩
  case rgn =>
    refine regPrt 0x10C (fun r => r.rgnPc = pc ∧ r.rgnWrem = x.extractLsb' 32 9) (by decide) rfl fun _ _ => ?_
    rw [closed_rgnPc, closed_rgnWrem]; exact ⟨ofNat_fld .., ofNat_fld ..⟩
  case rah => exact regPrt 0x10D (·.rah = pc) (by decide) rfl fun _ _ => (closed_rah ..).trans (ofNat_fld ..)
  case pstat =>
    exact regPrt 0x10F (fun r => r.lcol = (q.lcol && !x.getLsbD 15) ∧ r.xcol = (q.xcol && !x.getLsbD 14)) (by decide) rfl
      fun _ _ => ⟨closed_lcol .., closed_xcol ..⟩
  case padv => exact regPrt 0x120 (·.padv = x) (by decide) rfl fun _ _ => (closed_padv ..).trans (and_padvMask x)
  case mxpad => exact regPrt 0x121 (·.mxpad = _) (by decide) rfl fun _ _ => closed_mxpad ..
  case kvpad => exact regPrt 0x122 (·.kvpad = _) (by decide) rfl fun _ _ => closed_kvpad ..
  case kvpos => exact regPrt 0x123 (·.kvpos = _) (by decide) rfl fun _ _ => closed_kvpos ..
  case event =>
    refine shared 0x140 (fun h => h.evq = c.sh.evq ∧ h.evOvf = (c.sh.evOvf && !x.getLsbD 15) ∧ h.evLost = if x.getLsbD 15 then 0 else c.sh.evLost)
      (cregWrite_event _ x) (by decide) ?_
    rw [countIntervals_evq, countIntervals_evOvf, countIntervals_evLost]
    cases x.getLsbD 15 <;> simp
  case unassigned =>
    intro h hr
    replace h := h.imp_right (Or.imp_right (Or.imp_left (congrArg BitVec.toNat)))
    have hl : j.toNat < 0x400 := by
      change (0x110 ≤ j.toNat ∧ j.toNat ≤ 0x11F) ∨ (0x124 ≤ j.toNat ∧ j.toNat ≤ 0x12F) ∨ j.toNat = 0x137 ∨ (0x13A ≤ j.toNat ∧ j.toNat ≤ 0x13F) ∨
        (0x141 ≤ j.toNat ∧ j.toNat ≤ 0x1FF) at h
      omega
    exact exec_creg_ignored rfl (.inl hl) (fun e _ => cregWrite_unassigned e x h) hr
  case user =>
    intro hk h hr
    have hl : j.toNat < 0x400 := by
      change (0x130 ≤ j.toNat ∧ j.toNat ≤ 0x13F) ∨ (0x200 ≤ j.toNat ∧ j.toNat ≤ 0x3FF) at h
      omega
    refine exec_creg_ignored rfl (.inl hl) (fun e he => cregWrite_user x ?_ (h.imp id fun h => ⟨h.1, by omega⟩)) hr
    rw [he]
    exact beq_false_of_ne hk
  case readOnly =>
    intro hk h hr
    replace h := h.imp (congrArg BitVec.toNat) (Or.imp_right (Or.imp_left (congrArg BitVec.toNat)))
    have hl : 0x400 ≤ j.toNat := by
      change j.toNat = 0x402 ∨ (0x405 ≤ j.toNat ∧ j.toNat ≤ 0x407) ∨ j.toNat = 0x40B ∨ 0x410 ≤ j.toNat at h
      omega
    refine exec_creg_ignored rfl (.inr hk) (fun e he => ?_) hr
    exact (cregWrite_firmware x (by rw [he, hk]; rfl) hl).trans (by rw [fwWrite_ignored e.fw x h])
  case firmware =>
    intro hk
    have hfw : isFwCore (s.moveEnv k p src).k = true := by rw [moveEnv_k, hk]; rfl
    refine ⟨fw _ (·.fwtvec = x) hk (by decide) rfl, fw _ (·.rec0 = _) hk (by decide) rfl, fw _ (·.rec1 = x) hk (by decide) rfl,
      fw _ (·.rec2 = x) hk (by decide) rfl, fw _ (·.rec3 = _) hk (by decide) rfl,
      fw _ (·.rrbase = _) hk (by decide) rfl, fw _ (·.rrcfg = _) hk (by decide) (ofNat_fld_zero ..), fw _ (·.rrtail = s.fw.rrtail) hk (by decide) rfl,
      fw _ (·.rrhead = _) hk (by decide) (ofNat_fld_zero ..),
     fw _ (·.rrovf = _) hk (by decide) rfl, fw _ (·.dbg0 = x) hk (by decide) rfl, fw _ (·.dbg1 = x) hk (by decide) rfl, ?_, ?_⟩
    · intro h h' hn
      have hn : j.toNat ≠ 0x137 := fun e => hn (BitVec.eq_of_toNat_eq e)
      exact shared j (·.gap = _) (cregWrite_gap x hfw h h' hn) (by omega) (countIntervals_gap ..)
    · intro i dw y hi hy hj
      have hdw := dw.isLt
      have h4 : (j.toNat - 0x200) / 4 = i := by omega
      have hm : j.toNat % 4 = dw := by omega
      refine shared j (fun h => (∀ m, m ≠ i → h.ftb[m]? = c.sh.ftb[m]?) ∧ h.ftb[i]? = some _) (cregWrite_ftb x hfw (by omega) (by omega)) (by omega) ?_
      rw [countIntervals_ftb, h4, hm, List.getD_eq_getElem?_getD, hy, Option.getD_some, ftbEntry_put]
      exact ⟨fun m hne => List.getElem?_set_ne hne.symm, List.getElem?_set_self (List.getElem?_eq_some_iff.1 hy).1⟩

end Sys2Proof.Machine
end

section
/-! Retirement, transfers (R37, R175, R187, R342) and the run-ahead helper (R46, R47): events that change one core by a function
of it. -/

namespace Sys2Proof.Machine

/-! ### A core changed by a function -/

/-- A core that its function leaves is left by the whole change, a core that is not there too. -/
theorem modCore_self {s : State} {k : Nat} {f : Core → Core} (h : f (s.core k) = s.core k) : s.modCore k f = s := by
  have hl : s.cores.set k (s.core k) = s.cores := by
    by_cases hk : k < s.cores.length
    · rw [State.core, ← List.getElem_eq_getD (h := hk), List.set_getElem_self]
    · exact List.set_eq_of_length_le (Nat.not_lt.1 hk)
  rw [State.modCore, h, State.setCore, hl]

theorem modCore_length (s : State) (k : Nat) (f : Core → Core) : (s.modCore k f).cores.length = s.cores.length := List.length_set

theorem modCore_congr {s : State} {k : Nat} {f g : Core → Core} (h : f (s.core k) = g (s.core k)) : s.modCore k f = s.modCore k g :=
  congrArg (s.setCore k) h

theorem modCore_modCore {s : State} {k : Nat} {f g : Core → Core} (hk : k < s.cores.length) :
    (s.modCore k f).modCore k g = s.modCore k fun c => g (f c) := by
  rw [State.modCore, core_modCore_same hk]
  simp only [State.modCore, State.setCore, List.set_set]

theorem modPrt_self {c : Core} {p : Nat} {f : Partition → Partition} (h : f (c.prt p) = c.prt p) : c.modPrt p f = c := by
  have hl : c.prts.set p (c.prt p) = c.prts := by
    by_cases hp : p < c.prts.length
    · rw [Core.prt, ← List.getElem_eq_getD (h := hp), List.set_getElem_self]
    · exact List.set_eq_of_length_le (Nat.not_lt.1 hp)
  rw [Core.modPrt, h, Core.setPrt, hl]

theorem outsideKept_modCore {s : State} {k p : Nat} {f : Core → Core} (hk : k < s.cores.length)
    (h : ∀ j, j ≠ p → (f (s.core k)).prt j = (s.core k).prt j) : OutsideKept s (s.modCore k f) k p where
  mem := rfl
  sched := rfl
  probes := rfl
  inbox := rfl
  out := rfl
  fclk := rfl
  cores _ hj := core_modCore_ne hj f
  prts j hj := by rw [core_modCore_same hk]; exact h j hj

/-! ### Retirement and transfers -/

theorem retires_iff {q : Partition} {x : OpenSec} {rest : List OpenSec} (h : q.secs = x :: rest) :
    q.retires = true ↔ q.trap = none ∧ x.done = true ∧ ∀ f ∈ q.fly, f.sec ≠ x.no := by
  simp [Partition.retires, h, and_assoc]

theorem retire_eq {q : Partition} {x : OpenSec} {rest : List OpenSec} (h : q.secs = x :: rest) :
    q.retire = if x.no < q.rgnSec then { q with secs := rest } else { q with secs := rest, rgnPc := x.next, rgnWrem := 0, rgnSec := x.no + 1 } := by
  rw [Partition.retire, h]

/-- The oldest section of a partition retires and RSC counts it. -/
def Core.countRetired (c : Core) (p : Nat) : Core :=
  (c.modPrt p Partition.retire).modSh fun h => { h with rsc := h.rsc.set p (h.rsc.getD p 0 + 1) }

theorem prt_countRetired {c : Core} {p : Nat} (hp : p < c.prts.length) : (c.countRetired p).prt p = (c.prt p).retire := by
  rw [Core.countRetired, prt_modSh, prt_modPrt_same hp]

theorem sectionRetire_eq {s : State} {k p : Nat} (h : ((s.core k).prt p).retires = true) :
    s.sectionRetire k p = s.modCore k fun c => c.countRetired p := modCore_congr (if_pos h)

/-- What the end of a transfer's delay makes of its partition. -/
def Partition.endTransfer (q : Partition) : Partition :=
  match q.transfer with
  | some t => if t.delay = 0 then q.leaveTo t.target else q
  | none => q

theorem endTransfer_due {q : Partition} {target : Pc} (h : q.transfer = some ⟨target, 0⟩) : q.endTransfer = q.leaveTo target := by
  rw [Partition.endTransfer, h]
  rfl

theorem transferDelayEnds_eq (s : State) (k p : Nat) :
    s.transferDelayEnds k p = s.modCore k fun c => c.modPrt p Partition.endTransfer := rfl

theorem registersKept_leaveTo (q : Partition) (target : Pc) : RegistersKept q (q.leaveTo target) where
  ofile := rfl
  xi := rfl
  views := rfl
  bt := rfl
  rgn := ⟨rfl, rfl⟩
  rah := rfl
  fpcsr := rfl
  pstat := ⟨rfl, rfl⟩
  pads := ⟨rfl, rfl, rfl, rfl⟩
  stack := rfl
  trap := rfl
  mops := rfl
  freq := rfl
  store := ⟨rfl, rfl⟩

/-- Settles O26: each event is the model's function of one partition, and leaves the core as it is where its condition does not
hold. -/
theorem sectionTransferEvents : Obligations.SectionTransferEvents := by
  unfold Obligations.SectionTransferEvents
  intro s k p x rest target c q hs hrsc hp
  obtain ⟨hk, hpl⟩ := has_iff.1 hs
  refine ⟨?retire, ?keep, ?transfer, ?wait⟩
  case retire =>
    intro hsecs htrap hdone hfly
    have hr : q.retires = true := (retires_iff hsecs).2 ⟨htrap, hdone, hfly⟩
    have hn : (c.countRetired p).sh.rsc = c.sh.rsc.set p (c.sh.rsc.getD p 0 + 1) := rfl
    refine ⟨_, congrArg Host.Outcome.next (sectionRetire_eq hr), outsideKept_modCore hk fun j hj => prt_modPrt_ne hj _, ?_⟩
    rw [core_modCore_same hk, hn, prt_countRetired hpl, retire_eq hsecs]
    refine ⟨?_, ?_, ?_, by simp [hrsc, hp], fun j hj => by simp [List.getElem?_set_ne hj.symm], fun h => ?_, fun h => ?_⟩
    · split_ifs <;> rfl
    · split_ifs <;> rfl
    · split_ifs <;> rfl
    · rw [if_pos h]; exact ⟨rfl, rfl⟩
    · rw [if_neg (Nat.not_lt.2 h)]; exact ⟨rfl, rfl⟩
  case keep =>
    intro hsecs h
    refine congrArg Host.Outcome.next (modCore_self (if_neg fun hr => ?_))
    obtain ⟨htrap, hdone, hfly⟩ := (retires_iff hsecs).1 hr
    rcases h with h | h | ⟨f, hf, h⟩
    · exact h htrap
    · exact Bool.false_ne_true (h.symm.trans hdone)
    · exact hfly f hf h
  case transfer =>
    intro ht
    refine ⟨_, congrArg Host.Outcome.next (transferDelayEnds_eq s k p), outsideKept_modCore hk fun j hj => prt_modPrt_ne hj _, ?_⟩
    rw [core_modCore_same hk, prt_modPrt_same hpl, endTransfer_due ht]
    exact ⟨rfl, rfl, rfl, rfl, registersKept_leaveTo q target, rfl, rfl⟩
  case wait =>
    intro ht
    refine congrArg Host.Outcome.next ((transferDelayEnds_eq s k p).trans (modCore_self (modPrt_self ?_)))
    unfold Partition.endTransfer
    split
    · next t e =>
      rw [if_neg]
      intro h0
      exact ht t.target (e.trans (by rw [← h0]))
    · rfl

/-! ### The run-ahead helper -/

/-- A core with another helper, or with none. -/
def Core.withHelper (c : Core) (h : Option Helper) : Core := { c with helper := h }

theorem helperDue_iff {s : State} {k : Nat} : s.helperDue k = true ↔
    (s.core k).helper = none ∧ ((s.core k).prt 11).rah ≠ 0 ∧ (s.core k).preempting = false ∧ s.loadStall k = true := by
  simp [State.helperDue, and_assoc]

/-- The helper that the stalled stream of the mem partition spawns: at RAHBASE, with copies of what it works on. -/
def Partition.newHelper (q : Partition) : Helper := ⟨q.rah, 0, q.preds, q.predPsn, q.ofile, q.units, [], 0, false⟩

theorem rahHelperSpawn_eq {s : State} {k : Nat} (h : s.helperDue k = true) :
    s.rahHelperSpawn k = s.modCore k fun c => c.withHelper (some (c.prt 11).newHelper) := if_pos h

theorem helperEnds_of_noStall {s : State} {k : Nat} {h : Helper} (hh : (s.core k).helper = some h) (hl : s.loadStall k = false) :
    s.helperEnds k = true := by simp [State.helperEnds, hh, hl]

theorem helperEnds_of_limit {s : State} {k : Nat} {h : Helper} (hh : (s.core k).helper = some h) (hd : h.dead = false)
    (hw : (s.core k).preempting = true ∨ 256 ≤ h.issued ∨ ((s.core k).prt 11).slen < h.pc.toNat + 3) : s.helperEnds k = true := by
  simp only [State.helperEnds, hh, hd]
  simpa [or_assoc] using .inr hw

/-- A helper whose stall is over is forgotten. -/
theorem rahHelperDies_forgets {s : State} {k : Nat} (he : s.helperEnds k = true) (hl : s.loadStall k = false) :
    s.rahHelperDies k = s.modCore k fun c => c.withHelper none :=
  (if_pos he).trans (modCore_congr (if_neg (by rw [hl]; exact Bool.false_ne_true)))

/-- A helper whose stall lasts stays, dead. -/
theorem rahHelperDies_kills {s : State} {k : Nat} (he : s.helperEnds k = true) (hl : s.loadStall k = true) :
    s.rahHelperDies k = s.modCore k fun c => c.withHelper (c.helper.map fun h => { h with dead := true }) :=
  (if_pos he).trans (modCore_congr (if_pos hl))

/-- Settles O29: the helper is a field of its core of its own; spawn and death change it alone. -/
theorem helperEvents : Obligations.HelperEvents := by
  unfold Obligations.HelperEvents
  intro s k h c q kept
  have keeps (f : Core → Option Helper) (hk : k < s.cores.length) : kept (s.modCore k fun c => c.withHelper (f c)) := by
    have hc := core_modCore_same hk fun c => c.withHelper (f c)
    exact ⟨(congrArg Core.prts hc :), (congrArg Core.sh hc :), rfl⟩
  refine ⟨?spawn, ?none, ?forget, ?die⟩
  case spawn =>
    intro hk hn hr hp hl
    exact ⟨_, q.newHelper, congrArg Host.Outcome.next (rahHelperSpawn_eq (helperDue_iff.2 ⟨hn, hr, hp, hl⟩)), keeps _ hk,
      congrArg Core.helper (core_modCore_same hk _), rfl, rfl, rfl, rfl, rfl, rfl, rfl⟩
  case none =>
    intro h
    refine congrArg Host.Outcome.next (if_neg fun hd => ?_)
    obtain ⟨-, hr, hp, hl⟩ := helperDue_iff.1 hd
    rcases h with h | h | h
    · exact hr h
    · exact Bool.false_ne_true (h.symm.trans hl)
    · exact Bool.false_ne_true (hp.symm.trans h)
  case forget =>
    intro hk hh hl
    exact ⟨_, congrArg Host.Outcome.next (rahHelperDies_forgets (helperEnds_of_noStall hh hl) hl), keeps _ hk,
      congrArg Core.helper (core_modCore_same hk _)⟩
  case die =>
    intro hk hh hl hd hw
    refine ⟨_, congrArg Host.Outcome.next (rahHelperDies_kills (helperEnds_of_limit hh hd hw) hl), keeps _ hk,
      (congrArg Core.helper (core_modCore_same hk _)).trans ?_⟩
    exact congrArg (Option.map fun h : Helper => { h with dead := true }) hh

end Sys2Proof.Machine
end

section
/-! The locked group (R43 to R45, R48, R186, R374), and requests to pre-empt with the hard stop (R36, R48, R49, R181, R361): events
that go over partitions and cores in turn. -/

namespace Sys2Proof.Machine

/-! ### The locked group -/

theorem mem_maskMembers {m : BitVec 12} {p : Nat} : p ∈ maskMembers m ↔ p < 12 ∧ m.getLsbD p = true := by
  simp [maskMembers]

theorem lockDead_iff {c : Core} : c.lockDead = true ↔
    ∃ p < 12, c.lpend.getLsbD p = true ∧ ((c.prt p).started = false ∨ (c.prt p).joined = true) := by
  simp [Core.lockDead, mem_maskMembers, and_assoc]

theorem lockDue_iff {c : Core} : c.lockDue = true ↔
    c.lpend ≠ 0 ∧ c.preempting = false ∧ (c.lockDead = true ∨ (c.locked = 0 ∧ c.lwait &&& c.lpend = c.lpend)) := by
  simp [Core.lockDue, and_assoc]

/-- A mask that is pending forms its group. -/
theorem lockGroupForms_forms {s : State} {k : Nat} (hd : (s.core k).lockDue = true) (hn : ¬(s.core k).lockDead = true) :
    s.lockGroupForms k = s.modCore k fun c => { c with locked := c.lpend, lwait := c.lwait &&& ~~~c.lpend, lpend := 0 } := by
  rw [State.lockGroupForms, if_neg (by simp [hd]), if_neg hn]

/-- A partition that has trapped. -/
def Partition.trapped (q : Partition) (t : TrapInfo) : Partition :=
  { q with
    trap := some t, swtrap := none, stalled := true, refused := 0, qwait := none, probed := false,
    spill := match q.spill with | .failed _ _ => .idle | x => x }

section
variable (k : Nat) (cause : BitVec 8) (i1 i2 : Word)

theorem prt_trap (c : Core) (x : Nat) (pc : Pc) (p : Nat) :
    (c.trap k x cause i1 i2 pc).prt p = (c.modPrt x fun q => q.trapped ⟨cause, i1, i2, pc⟩).prt p := rfl

theorem trap_trap {c : Core} {p x : Nat} (hp : p < c.prts.length) (pc : Pc) :
    ((c.trap k x cause i1 i2 pc).prt p).trap = if p = x then some ⟨cause, i1, i2, pc⟩ else (c.prt p).trap := by
  rw [prt_trap]
  split_ifs with h
  · subst h
    rw [prt_modPrt_same hp]
    rfl
  · rw [prt_modPrt_ne h]

theorem trap_pc {c : Core} {p x : Nat} (hp : p < c.prts.length) (pc : Pc) : ((c.trap k x cause i1 i2 pc).prt p).pc = (c.prt p).pc := by
  rw [prt_trap]
  by_cases h : p = x
  · subst h
    rw [prt_modPrt_same hp]
    rfl
  · rw [prt_modPrt_ne h]

theorem trap_prts_length (c : Core) (x : Nat) (pc : Pc) : (c.trap k x cause i1 i2 pc).prts.length = c.prts.length := List.length_set

/-- Traps of several partitions of a core, one after another, each at its own group. -/
def Core.trapEach (c : Core) (ps : List Nat) : Core := ps.foldl (fun c p => c.trap k p cause i1 i2 (c.prt p).pc) c

theorem trapEach_cons (c : Core) (p : Nat) (ps : List Nat) :
    c.trapEach k cause i1 i2 (p :: ps) = (c.trap k p cause i1 i2 (c.prt p).pc).trapEach k cause i1 i2 ps := rfl

theorem trapEach_locks (ps : List Nat) (c : Core) : (c.trapEach k cause i1 i2 ps).lpend = c.lpend ∧
    (c.trapEach k cause i1 i2 ps).lwait = c.lwait ∧ (c.trapEach k cause i1 i2 ps).locked = c.locked := by
  induction ps generalizing c with
  | nil => exact ⟨rfl, rfl, rfl⟩
  | cons p ps ih => exact ih (c.trap k p cause i1 i2 (c.prt p).pc)

theorem trapEach_trap {ps : List Nat} {c : Core} {p : Nat} (hp : p < c.prts.length) :
    ((c.trapEach k cause i1 i2 ps).prt p).trap = if p ∈ ps then some ⟨cause, i1, i2, (c.prt p).pc⟩ else (c.prt p).trap := by
  induction ps generalizing c with
  | nil => rfl
  | cons x ps ih =>
    rw [trapEach_cons, ih ((trap_prts_length k cause i1 i2 c x _).symm ▸ hp), trap_trap k cause i1 i2 hp, trap_pc k cause i1 i2 hp]
    by_cases hx : p = x
    · subst hx; simp
    · simp [hx]

/-- Traps of partitions of a core other than the firmware core, one after another. -/
theorem foldl_takeTrap {s : State} (hk : k ≠ 0) (f : Core → Core) (ps : List Nat) (hl : k < s.cores.length) :
    ps.foldl (fun s p => s.takeTrap k p cause i1 i2 ((s.core k).prt p).pc) (s.modCore k f) =
      s.modCore k fun c => (f c).trapEach k cause i1 i2 ps := by
  induction ps generalizing f with
  | nil => rfl
  | cons p ps ih =>
    have ht : (s.modCore k f).takeTrap k p cause i1 i2 (((s.modCore k f).core k).prt p).pc =
        s.modCore k fun c => (f c).trap k p cause i1 i2 ((f c).prt p).pc := by
      rw [State.takeTrap, if_neg (by simpa [isFwCore] using hk), modCore_modCore hl, core_modCore_same hl]
      rfl
    rw [List.foldl_cons, ht, ih]
    rfl

end

/-- No lock is pending, and nobody waits for one. -/
def Core.dropLock (c : Core) : Core := { c with lpend := 0, lwait := 0 }

/-- With a member that cannot come, those that wait trap (R374). -/
theorem lockGroupForms_traps {s : State} {k : Nat} (hl : k < s.cores.length) (hk : k ≠ 0) (hd : (s.core k).lockDue = true)
    (hn : (s.core k).lockDead = true) :
    s.lockGroupForms k = s.modCore k fun c => c.dropLock.trapEach k TrapKind.lockuse.code 0x30814 0 (maskMembers (s.core k).lwait) := by
  rw [State.lockGroupForms, if_neg (by simp [hd]), if_pos hn]
  exact foldl_takeTrap k _ _ _ hk Core.dropLock _ hl

/-- Settles O28: a group forms or its members trap in turn (lockGroupForms_forms, lockGroupForms_traps), and the end of an ACLK counts its
step (endStep_eq). -/
theorem lockedGroupEvents : Obligations.LockedGroupEvents := by
  unfold Obligations.LockedGroupEvents
  intro s k c dead
  refine ⟨?forms, ?fails, ?steps⟩
  case forms =>
    intro hk hp hpre hdead hl hw
    have hn : ¬c.lockDead = true := fun h => hdead (lockDead_iff.1 h)
    have hc := core_modCore_same hk fun c : Core => { c with locked := c.lpend, lwait := c.lwait &&& ~~~c.lpend, lpend := 0 }
    refine ⟨_, congrArg Host.Outcome.next (lockGroupForms_forms (lockDue_iff.2 ⟨hp, hpre, .inr ⟨hl, hw⟩⟩) hn), ?_⟩
    rw [hc]
    exact ⟨rfl, rfl, rfl, rfl, rfl, rfl⟩
  case fails =>
    intro hk hk0 hlen hp hpre hdead
    have hn : c.lockDead = true := lockDead_iff.2 hdead
    refine ⟨_, congrArg Host.Outcome.next (lockGroupForms_traps hk hk0 (lockDue_iff.2 ⟨hp, hpre, .inl hn⟩) hn), ?_⟩
    rw [core_modCore_same hk]
    obtain ⟨hpend, hwait, hlocked⟩ := trapEach_locks k TrapKind.lockuse.code 0x30814 0 (maskMembers (s.core k).lwait) c.dropLock
    refine ⟨hpend, hwait, hlocked, fun p h12 => ?_⟩
    rw [trapEach_trap _ _ _ _ (c := c.dropLock) (hlen.symm ▸ h12 : p < c.prts.length)]
    simp only [mem_maskMembers, h12, true_and]
    rfl
  case steps =>
    intro hk hph hk' hl
    refine ⟨_, step_finish hph hk', ?_⟩
    obtain ⟨tags, ps, pf, hlp, pa, e⟩ := core_endAclk hk
    obtain ⟨xf, e'⟩ := endStep_eq { c.applySemas with sh := { c.applySemas.sh with tags := tags }, tagWrs := [], prts := ps, bktWr := none }
    have hw : (c.locked != 0 && c.lockGo) = c.lockGo := by rw [bne_iff_ne.2 hl, Bool.true_and]
    rw [e, e']
    exact ⟨congrArg (fun b : Bool => if b = true then c.sh.scnt + 1 else c.sh.scnt) hw, rfl, rfl⟩

/-! ### Requests to pre-empt -/

/-- One change of several cores, one after another. -/
theorem core_foldl_modCore {f : Core → Core} {ks : List Nat} {s : State} {i : Nat} (hn : ks.Nodup) (hi : i < s.cores.length) :
    (ks.foldl (fun s k => s.modCore k f) s).core i = if i ∈ ks then f (s.core i) else s.core i := by
  induction ks generalizing s with
  | nil => rfl
  | cons k ks ih =>
    obtain ⟨hk, hn⟩ := List.nodup_cons.1 hn
    rw [List.foldl_cons, ih hn (modCore_length (s := s) k f ▸ hi)]
    by_cases h : i = k
    · subst h
      simp [hk, hi]
    · simp [h, core_modCore_ne h]

theorem core_foldl_modCore_of_notMem {f : Core → Core} {ks : List Nat} {s : State} {i : Nat} (h : i ∉ ks) :
    (ks.foldl (fun s k => s.modCore k f) s).core i = s.core i := by
  induction ks generalizing s with
  | nil => rfl
  | cons k ks ih =>
    obtain ⟨hk, hn⟩ := not_or.1 (List.mem_cons.not.1 h)
    rw [List.foldl_cons, ih hn, core_modCore_ne hk]

theorem mem_foldl_modCore (f : Core → Core) (ks : List Nat) (s : State) : (ks.foldl (fun s k => s.modCore k f) s).mem = s.mem := by
  induction ks generalizing s with
  | nil => rfl
  | cons k ks ih => exact ih (s.modCore k f)

/-- The request as it reaches a core. -/
def Core.askStop (now : Word) (c : Core) : Core :=
  match c.job with
  | some j => if j.phase = .running then { c.requestStop with job := some { j with phase := .preempting, since := now } } else c
  | none => c

theorem askStop_eq (s : State) (k : Nat) : s.askStop k = s.modCore k (Core.askStop s.now) := by
  unfold State.askStop
  cases hj : (s.core k).job with
  | none => exact (modCore_self (by rw [Core.askStop, hj])).symm
  | some j =>
    by_cases hp : j.phase = .running
    · exact (if_pos hp).trans (modCore_congr (by rw [Core.askStop, hj]; exact (if_pos hp).symm))
    · exact (if_neg hp).trans (modCore_self (by rw [Core.askStop, hj]; exact if_neg hp)).symm

theorem foldl_askStop (ks : List Nat) (s : State) : ks.foldl State.askStop s = ks.foldl (fun t k => t.modCore k (Core.askStop s.now)) s := by
  induction ks generalizing s with
  | nil => rfl
  | cons k ks ih => rw [List.foldl_cons, List.foldl_cons, askStop_eq, ih]; rfl

/-- The cores whose jobs are members of a job's gang (R36). -/
def State.matesOf (s : State) (j : Job) : List Nat := (List.range 128).filter fun i =>
  match (s.core i).job with
  | some x => x.inst == j.inst && x.node == j.node
  | none => false

theorem nodup_matesOf (s : State) (j : Job) : (s.matesOf j).Nodup := List.nodup_range.filter _

theorem mem_matesOf {s : State} {j : Job} {i : Nat} : i ∈ s.matesOf j ↔ i < 128 ∧ ∃ x, (s.core i).job = some x ∧ x.inst = j.inst ∧ x.node = j.node := by
  rw [State.matesOf, List.mem_filter, List.mem_range]
  cases (s.core i).job <;> simp

theorem preemptRequest_eq {s : State} {k : Nat} {j : Job} (h : (s.core k).job = some j) :
    s.preemptRequest k = (s.matesOf j).foldl (fun t k => t.modCore k (Core.askStop s.now)) s := by
  rw [State.preemptRequest, h]
  exact foldl_askStop _ s

theorem prt_map_of_lt {f : Partition → Partition} {c : Core} {p : Nat} (hp : p < c.prts.length) :
    (c.prts.map f).getD p .empty = f (c.prt p) := by
  simp [Core.prt, hp]

theorem prt_requestStop {c : Core} {p : Nat} (hp : p < c.prts.length) :
    c.requestStop.prt p = if c.isLocked p then c.prt p else (c.prt p).breakLoop := by
  simp [Core.requestStop, Core.killHelper, Core.prt, Core.isLocked, hp]
  rfl

/-- The loop engine starts no iteration after the one that it is in (R181). -/
theorem breakLoop_nst (q : Partition) : q.breakLoop.loop.nst.toNat =
    if q.loop.active = true then min q.loop.nst.toNat (q.loop.j.toNat + 1) else q.loop.nst.toNat := by
  rw [Partition.breakLoop]
  split_ifs
  · exact Nat.mod_eq_of_lt (lt_of_le_of_lt (Nat.min_le_left _ _) q.loop.nst.isLt)
  · rfl

theorem registersKept_refl (q : Partition) : RegistersKept q q :=
  ⟨rfl, rfl, rfl, rfl, ⟨rfl, rfl⟩, rfl, rfl, ⟨rfl, rfl⟩, ⟨rfl, rfl, rfl, rfl⟩, rfl, rfl, rfl, rfl, ⟨rfl, rfl⟩⟩

theorem registersKept_loop (q : Partition) (l : LoopState) : RegistersKept q { q with loop := l } :=
  ⟨rfl, rfl, rfl, rfl, ⟨rfl, rfl⟩, rfl, rfl, ⟨rfl, rfl⟩, ⟨rfl, rfl, rfl, rfl⟩, rfl, rfl, rfl, rfl, ⟨rfl, rfl⟩⟩

theorem breakLoop_registers (q : Partition) : q.breakLoop.pc = q.pc ∧ RegistersKept q q.breakLoop := by
  rw [Partition.breakLoop]
  split_ifs
  · exact ⟨rfl, registersKept_loop q _⟩
  · exact ⟨rfl, registersKept_refl q⟩

/-- Settles O38: the request is one change (Core.askStop) of each core of the gang, the hard stop one of its own core. -/
theorem preemptionEvents : Obligations.PreemptionEvents := by
  unfold Obligations.PreemptionEvents
  intro s k i j x c bits
  refine ⟨?reaches, ?others, ?hard⟩
  case reaches =>
    intro hlen hk hj hi hx hin hno hrun
    have hi' : i < s.cores.length := hlen.symm ▸ hi
    have hm : i ∈ s.matesOf j := mem_matesOf.2 ⟨hi, x, hx, hin, hno⟩
    have hc : ((s.preemptRequest k).core i) = { c.requestStop with job := some { x with phase := .preempting, since := s.now } } := by
      rw [preemptRequest_eq hj, core_foldl_modCore (nodup_matesOf s j) hi', if_pos hm, Core.askStop, hx]
      exact if_pos hrun
    refine ⟨_, rfl, by rw [hc], by rw [hc]; rfl, ?_, fun h hh => ?_, fun p hp => ?_⟩
    · rw [preemptRequest_eq hj, mem_foldl_modCore]
    · rw [hc]
      exact congrArg (Option.map fun h : Helper => { h with dead := true }) hh
    · have hq : ((s.preemptRequest k).core i).prt p = if c.isLocked p then c.prt p else (c.prt p).breakLoop := by
        rw [hc]
        exact prt_requestStop hp
      rw [hq]
      refine ⟨?_, ?_, ?_⟩
      · by_cases hl : c.isLocked p = true
        · simp [hl]
        · rw [if_neg hl, breakLoop_nst]
          simp [hl]
      · split_ifs
        · rfl
        · exact (breakLoop_registers _).1
      · split_ifs
        · exact registersKept_refl _
        · exact (breakLoop_registers _).2
  case others =>
    intro hlen hno hj
    refine ⟨_, congrArg Host.Outcome.next (preemptRequest_eq hj), core_foldl_modCore_of_notMem fun hm => ?_⟩
    obtain ⟨-, y, hy, h⟩ := mem_matesOf.1 hm
    exact hno y hy h
  case hard =>
    intro hk hj hph
    have hd : s.hardDue k = true ↔ j.since.toNat + 1000 * s.sched.tpre.toNat ≤ s.now.toNat := by simp [State.hardDue, hj, hph]
    refine ⟨fun ht => ?_, fun ht => congrArg Host.Outcome.next (if_neg fun h => absurd (hd.1 h) (Nat.not_le.2 ht))⟩
    have hc : (s.hardPreempt k).core k = { (s.core k).stopHard with job := some { j with phase := .hardStop } } := by
      rw [State.hardPreempt, if_pos (hd.2 ht), core_modCore_same hk, hj]
      rfl
    refine ⟨_, rfl, ?_⟩
    rw [hc]
    refine ⟨rfl, rfl, rfl, ?_, rfl, rfl, fun p hp hst => ?_⟩
    · rw [State.hardPreempt, if_pos (hd.2 ht)]
      rfl
    · have hq : (({ (s.core k).stopHard with job := some { j with phase := .hardStop } } : Core).prt p) = ((s.core k).prt p).stopHard :=
        prt_map_of_lt hp
      dsimp only
      rw [hq, Partition.stopHard, if_neg (by simp [hst])]
      split_ifs with hjs
      · rw [Bool.and_eq_true, List.isEmpty_iff] at hjs
        exact ⟨rfl, rfl, rfl, rfl, rfl, rfl, hjs.2, fun _ _ => ⟨rfl, hjs.1⟩, fun h => by simp [hjs] at h⟩
      · exact ⟨rfl, rfl, rfl, rfl, rfl, rfl, rfl, fun h h' => by simp [h, h'] at hjs, fun _ => ⟨rfl, rfl⟩⟩

end Sys2Proof.Machine
end

section
/-! Words that move no source: long immediates, IDLE and the empty word (R37, R38, R146, R151, R164), and headers with their waits
and traps (R38, R375, R376). -/

namespace Sys2Proof.Machine

/-! ### Words that issue whatever they carry -/

theorem wordReady_iff {s : State} {k p : Nat} {g : Group} :
    s.wordReady k p g = true ↔ s.has k p = true ∧ s.atTurn k p = true ∧ g.wf (ctxOf k p) = true := by
  simp [State.wordReady, and_assoc]

theorem registersKept_idle {q r : Partition} {n : Nat} (h : RegistersKept { q with idle := n } r) : RegistersKept q r :=
  ⟨h.ofile, h.xi, h.views, h.bt, h.rgn, h.rah, h.fpcsr, h.pstat, h.pads, h.stack, h.trap, h.mops, h.freq, h.store⟩

section
variable {s : State} {k p : Nat} {g : Group} {i : Instr} {f : Partition → Partition}

/-- A word that meets nothing and changes registers of its partition alone: what it leaves. -/
theorem word_leaves (hi : i.group = some g) (hr : s.wordReady k p g = true) (hlen : g.len = 1) (hv : (s.env k p).judge g = .go)
    (hp : (s.env k p).perform g = (s.env k p).modQ f)
    (hf : ∀ q, (f q).pc = q.pc ∧ (f q).left = q.left ∧ (f q).joined = q.joined ∧ (f q).loop = q.loop) :
    ∃ t, exec i s = .next t ∧ (t.core k).sh = (s.core k).sh.countIntervals p 0xFF ∧
      (t.core k).prt p = ({ f ((s.core k).prt p) with idle := groupIdle g } : Partition).closed 1 ((s.core k).prt p).loop.active (s.core k).preempting ∧
      Advances ((s.core k).prt p) ((t.core k).prt p) 1 := by
  obtain ⟨hs, ht, hw⟩ := wordReady_iff.1 hr
  obtain ⟨hk, hpl⟩ := has_iff.1 hs
  obtain ⟨hph, hc, hh, -, -⟩ := atTurn_iff.1 ht
  have hj : ((s.core k).prt p).joined = false := (canIssue_iff.1 hc).2.1
  obtain ⟨hpc, hleft, hjoined, hloop⟩ := hf ((s.core k).prt p)
  have hverdict : (s.env k p).verdict g = .go := (if_neg (Bool.not_eq_false _ ▸ hw)).trans hv
  have hcore : ((s.issueGroup k p g).core k) = (((s.core k).modPrt p f).modPrt p fun q => { q with idle := groupIdle g }).endCycle p 1
      ((s.core k).prt p).loop.active := by
    rw [issue_go hc hh hverdict, nextTurn_core, Env.issue, hp, hlen]
    exact core_withEnv_same (e := { s.env k p with core := (((s.core k).modPrt p f).modPrt p _).endCycle p 1 _ }) hk
  have hprt : ((s.issueGroup k p g).core k).prt p =
      ({ f ((s.core k).prt p) with idle := groupIdle g } : Partition).closed 1 ((s.core k).prt p).loop.active (s.core k).preempting := by
    have hpl' : p < ((s.core k).modPrt p f).prts.length := by rw [Core.modPrt, Core.setPrt, List.length_set]; exact hpl
    rw [hcore, prt_endCycle_same (by rw [Core.modPrt, Core.setPrt, List.length_set]; exact hpl'), prt_modPrt_same hpl', prt_modPrt_same hpl]
    rfl
  refine ⟨_, (exec_group hi s).trans (execGroup_turn hph g), ?_, hprt, fun hl => ?_⟩
  · rw [hcore]; rfl
  · have ha := closed_advances (q := { f ((s.core k).prt p) with idle := groupIdle g }) 1 (s.core k).preempting
      ((congrArg LoopState.active hloop).trans hl) (hjoined.trans hj) ((congrArg LoopState.active hloop).trans hl)
    rw [hprt, hl]
    exact ⟨ha.1.trans (congrArg (· + _) hpc), ha.2.trans (congrArg (· - 1) hleft)⟩

end

/-! ### Long immediates, IDLE and the empty word -/

/-- The group of one long immediate. -/
def mlGroup (g : Guard) (d : Dst) (x : Word) : Group := ⟨.ml g d x, none⟩

/-- The value of a long immediate. -/
def immRead (x : Word) : Read := ⟨x.setWidth 8192, false, 0, .imm64⟩

theorem judge_ml {e : Env} {g : Guard} {d : Dst} {x : Word} (hm : e.q0.meshWait = false) (hp : e.q0.predPoison g.pred = false)
    (hg : e.q0.holds g = true) : e.judge (mlGroup g d x) = Judge.dest ⟨e, [], .go⟩ (mlGroup g d x) ⟨0, 0, g, .imm x d⟩ d (some (immRead x)) := by
  have hi : groupItems (mlGroup g d x) = [⟨0, 0, g, .imm x d⟩] := rfl
  simp only [Env.judge, hi, List.foldl_cons, List.foldl_nil, Judge.item, hm, hp, hg, Env.look, Verdict.stallIf_false, Verdict.go_and,
    Verdict.and_go, Bool.false_eq_true, ↓reduceIte, immRead]

/-- A write that leaves the loop engine is the whole effect of a long immediate. -/
theorem perform_ml {e : Env} {g : Guard} {d : Dst} {x : Word} (hg : e.q0.holds g = true) (hd : ∀ t, d ≠ .trig t)
    (hl : ((e.writeDst (immRead x) d).q.loop.active && !e.q0.loop.active) = false) :
    e.perform (mlGroup g d x) = e.writeDst (immRead x) d := by
  have hi : groupItems (mlGroup g d x) = [⟨0, 0, g, .imm x d⟩] := rfl
  have hw : e.writeItem 1 ⟨0, 0, g, .imm x d⟩ (immRead x) = e.writeDst (immRead x) d := by
    cases d with
    | trig t => exact absurd rfl (hd t)
    | _ => rfl
  have : e.perform (mlGroup g d x) = if ((e.writeDst (immRead x) d).q.loop.active && !e.q0.loop.active) = true then
      (e.writeDst (immRead x) d).modQ Partition.drivePreds else e.writeDst (immRead x) d := by
    simp only [Env.perform, hi, List.filter_cons, hg, ↓reduceIte, List.filter_nil, Env.readItems, Env.readItem, Env.writeItems]
    rw [← hw]
    rfl
  rw [this, hl]
  rfl

theorem replicateNat_eq_sum (n m x : Nat) : replicateNat n m x = ((List.range m).map fun i => x * 2 ^ (n * i)).sum := by
  rw [replicateNat, List.sum_eq_foldl, List.foldl_map]

/-- A long immediate at a destination of a partition's width stands in each of its 8-byte lanes (R146). -/
theorem immRead_slot {x : Word} {w : Nat} (hw : w = 8 ∨ 8 < w) :
    (immRead x).slot w = ⟨BitVec.ofNat 8192 ((List.range (w / 8)).map fun i => x.toNat * 2 ^ (64 * i)).sum, false, false⟩ := by
  have hx : (immRead x).bits.toNat = x.toNat := BitVec.toNat_setWidth_of_le (b := x) (show 64 ≤ 8192 from by omega)
  have hlt : x.toNat % 2 ^ 64 = x.toNat := Nat.mod_eq_of_lt x.isLt
  have hat : (immRead x).at w = BitVec.ofNat 8192 ((List.range (w / 8)).map fun i => x.toNat * 2 ^ (64 * i)).sum := by
    change BitVec.ofNat 8192 (if w ≤ 8 then lowBytes w (immRead x).bits.toNat else replicateNat 64 (w / 8) ((immRead x).bits.toNat % 2 ^ 64)) = _
    rw [hx, hlt]
    rcases hw with rfl | hw
    · have hlow : lowBytes 8 x.toNat = x.toNat := hlt
      have hsum : ((List.range (8 / 8)).map fun i => x.toNat * 2 ^ (64 * i)).sum = x.toNat := by simp
      rw [if_pos (Nat.le_refl 8), hlow, hsum]
    · rw [if_neg (Nat.not_le.2 hw), replicateNat_eq_sum]
  simp only [Read.slot, hat]
  rfl

theorem prtWidth_lanes (p : Nat) : prtWidth p = 8 ∨ 8 < prtWidth p := by
  unfold prtWidth
  cases prtKind p <;> decide

theorem unit_setUnit_same {q : Partition} {u : UnitName} {r : UnitRegs} (h : q.units.length = 25) : (q.setUnit u r).unit u = r := by
  have hu : UnitName.idx u < q.units.length := by rw [h]; cases u <;> decide
  rw [Partition.unit, Partition.setUnit, List.getD_eq_getElem?_getD, List.getElem?_set_self hu, Option.getD_some]

theorem port_setPort_same (r : UnitRegs) (o : PortSel) (x : Slot) : (r.setPort o x).port o = x := by cases o <;> rfl

theorem judge_idle {e : Env} {n : BitVec 16} (hm : e.q0.meshWait = false) : e.judge ⟨.idle n, none⟩ = .go := by
  rw [Env.judge, hm]
  rfl

theorem judge_empty {e : Env} (hm : e.q0.meshWait = false) : e.judge ⟨.mm Move.empty Move.empty, none⟩ = .go := by
  have hi : groupItems ⟨.mm Move.empty Move.empty, none⟩ = [⟨0, 0, ⟨0, true⟩, .move (.imm 0) .sink⟩, ⟨1, 0, ⟨0, true⟩, .move (.imm 0) .sink⟩] := rfl
  simp only [Env.judge, hi, List.foldl_cons, List.foldl_nil, Judge.item, hm, Verdict.stallIf_false, predPoison_zero, holds_empty,
    Verdict.go_and, Bool.false_eq_true, ↓reduceIte]

theorem perform_none {e : Env} {g : Group} (h : (groupItems g).filter (fun it => e.q0.holds it.g) = []) (hq : e.q = e.q0) :
    e.perform g = e.modQ id := by
  have hid : e.modQ id = e := congrArg (fun c => { e with core := c }) (modPrt_self (c := e.core) (p := e.p) rfl)
  rw [hid]
  simp only [Env.perform, h, Env.readItems, Env.writeItems, hq, Bool.and_not_self, Bool.false_eq_true, ↓reduceIte]

section
variable {s : State} {k p : Nat} {g : Guard} {x : Word} {d : Dst} {f : Partition → Partition}

/-- What a long immediate leaves that changes registers of its partition alone. -/
theorem ml_leaves {P : Partition → Prop} (hd : ∀ t, d ≠ .trig t) (hw : (s.env k p).writeDst (immRead x) d = (s.env k p).modQ f)
    (hf : ∀ q, (f q).pc = q.pc ∧ (f q).left = q.left ∧ (f q).joined = q.joined ∧ (f q).loop = q.loop)
    (hj : Judge.dest ⟨s.env k p, [], .go⟩ (mlGroup g d x) ⟨0, 0, g, .imm x d⟩ d (some (immRead x)) = .go)
    (hP : ∀ was pre, P (({ f ((s.core k).prt p) with idle := 0 } : Partition).closed 1 was pre))
    (hr : s.wordReady k p (mlGroup g d x) = true) (hp : ((s.core k).prt p).predPoison g.pred = false) (hg : ((s.core k).prt p).holds g = true) :
    ∃ t, exec (.mlWord g d x) s = .next t ∧ P ((t.core k).prt p) ∧ Advances ((s.core k).prt p) ((t.core k).prt p) 1 := by
  obtain ⟨hs, ht, -⟩ := wordReady_iff.1 hr
  obtain ⟨-, -, -, hm, -⟩ := atTurn_iff.1 ht
  have hl : ((s.env k p).writeDst (immRead x) d).q.loop = ((s.core k).prt p).loop := by
    rw [hw, q_modQ (env_of s k p) hs]
    exact (hf _).2.2.2
  have hperf : (s.env k p).perform (mlGroup g d x) = (s.env k p).modQ f :=
    (perform_ml (e := s.env k p) hg hd (by rw [hl]; exact Bool.and_not_self ((s.core k).prt p).loop.active)).trans hw
  obtain ⟨u, hu, -, hq, ha⟩ := word_leaves (i := .mlWord g d x) rfl hr rfl ((judge_ml (e := s.env k p) hm hp hg).trans hj) hperf hf
  exact ⟨u, hu, hq ▸ hP _ _, ha⟩

end

/-! ### Headers -/

/-- Position i of a header waits for nothing more: 8 sections at most lie between its count and what it names (R38). -/
def Core.waitDone (c : Core) (p : Nat) (wait : BitVec 44) (i : Nat) : Prop :=
  ((c.sh0.rsc.getD (headerPrt p i) 0).toNat + 16 - wait.toNat / 2 ^ (4 * i) % 16) % 16 < 8

theorem mem_unsatisfied {c : Core} {p : Nat} {mask : BitVec 11} {wait : BitVec 44} {j : Nat} : j ∈ c.unsatisfied p mask wait ↔
    ∃ i < 11, mask.getLsbD i = true ∧ ¬c.waitDone p wait i ∧ headerPrt p i = j := by
  simp only [Core.unsatisfied, Core.waitDone, List.mem_map, List.mem_filter, List.mem_range, Bool.and_eq_true, decide_eq_true_eq, Nat.not_lt,
    and_assoc]

theorem unsatisfied_eq_nil {c : Core} {p : Nat} {mask : BitVec 11} {wait : BitVec 44} :
    c.unsatisfied p mask wait = [] ↔ ∀ i < 11, mask.getLsbD i = true → c.waitDone p wait i := by
  rw [List.eq_nil_iff_forall_not_mem]
  constructor
  · intro h i hi hm
    by_contra hd
    exact h _ (mem_unsatisfied.2 ⟨i, hi, hm, hd, rfl⟩)
  · intro h j hj
    obtain ⟨i, hi, hm, hd, -⟩ := mem_unsatisfied.1 hj
    exact hd (h i hi hm)

section
variable {s : State} {k p : Nat} {len : BitVec 9} {mask : BitVec 11} {wait : BitVec 44}

/-- The verdict on a header of a section that lies in its store: what its waits give (R38, R376). -/
theorem headerVerdict_inside {c : Core} (hl : len ≠ 0) (hs : (c.prt p).pc.toNat + 2 + 3 * len.toNat ≤ (c.prt p).slen) :
    c.headerVerdict p len mask wait = if c.unsatisfied p mask wait = [] then .go
      else if (c.unsatisfied p mask wait).all fun j => (c.prt j).spent then .trap .header 0 (headerBits len mask wait) 0 else .stallIf true := by
  rw [Core.headerVerdict, if_neg hl, if_neg (Nat.not_lt.2 hs)]

theorem exec_sectionHeader (hp : s.phase = .prt k p) : exec (.sectionHeader len mask wait) s = .next (s.evalHeader k p len mask wait) := by
  change execSectionHeader len mask wait s = _
  rw [execSectionHeader, hp]

variable (hc : s.canIssue k p = true)
include hc

theorem evalHeader_opens (hv : (s.core k).headerVerdict p len mask wait = .go) :
    s.evalHeader k p len mask wait = s.modPrt k p fun q => q.openSection len := by
  simp only [State.evalHeader, hv, hc, Bool.true_eq_false, ↓reduceIte, Verdict.go_causes, firstCause_nil, Verdict.go_stalls, Bool.false_eq_true]

theorem evalHeader_waits (hv : (s.core k).headerVerdict p len mask wait = .stallIf true) :
    s.evalHeader k p len mask wait = (s.modCore k fun c => c.stall p (.stallIf true)).nextTurn k p := by
  simp only [State.evalHeader, hv, hc, Bool.true_eq_false, ↓reduceIte]
  rfl

theorem evalHeader_traps {kind : TrapKind} {i1 i2 : Word} (hh : (s.core k).held p = false)
    (hv : (s.core k).headerVerdict p len mask wait = .trap kind 0 i1 i2) :
    s.evalHeader k p len mask wait = (s.takeTrap k p kind.code i1 i2 ((s.core k).prt p).pc).nextTurn k p := by
  simp only [State.evalHeader, hv, hc, Bool.true_eq_false, ↓reduceIte, Verdict.trap, firstCause, hh, Bool.false_eq_true]

end

/-- Settles O22: a word without a source meets nothing and issues (word_leaves); a header opens, waits or traps by its verdict. -/
theorem immediateIdleHeader : Obligations.ImmediateIdleHeader := by
  unfold Obligations.ImmediateIdleHeader
  intro s k p g x n len mask wait c q lanes ml due
  refine ⟨?ofile, ?port, ?idle, ?empty, fun hs hph hc => ⟨?opens, ?waits, ?traps⟩⟩
  case ofile =>
    intro j hl
    refine ml_leaves (P := fun r => r.ofile.getD j.toNat .zero = _) (fun _ => Dst.noConfusion) rfl (fun _ => ⟨rfl, rfl, rfl, rfl⟩) rfl fun was pre => ?_
    rw [closed_ofile]
    change (q.ofile.set j.toNat ((immRead x).slot (prtWidth p))).getD j.toNat .zero = _
    rw [List.getD_eq_getElem?_getD, List.getElem?_set_self (hl.symm ▸ j.isLt), Option.getD_some, immRead_slot (prtWidth_lanes p)]
  case port =>
    intro u o hl hw hu
    have hd : Judge.dest ⟨s.env k p, [], .go⟩ (mlGroup g (.port u o) x) ⟨0, 0, g, .imm x (.port u o)⟩ (.port u o) (some (immRead x)) = .go :=
      ite_self _
    refine ml_leaves (P := fun r => (r.unit u).port o = _) (fun _ => Dst.noConfusion) rfl (fun _ => ⟨rfl, rfl, rfl, rfl⟩) hd fun was pre => ?_
    rw [Partition.unit, closed_units]
    change ((q.setUnit u ((q.unit u).setPort o ((immRead x).slot (portWidth (prtWidth p) u o)))).unit u).port o = _
    rw [unit_setUnit_same hl, port_setPort_same, hw, hu, immRead_slot (.inr (by decide))]
  case idle =>
    intro hr
    obtain ⟨hs, ht, -⟩ := wordReady_iff.1 hr
    obtain ⟨-, hc, -, hm, -⟩ := atTurn_iff.1 ht
    obtain ⟨u, hu, -, hq, ha⟩ := word_leaves (i := .idle n) (f := id) rfl hr rfl (judge_idle hm) (perform_none rfl rfl) fun _ => ⟨rfl, rfl, rfl, rfl⟩
    exact ⟨u, hu, (congrArg Partition.idle hq).trans (closed_idle _ _ _ _ (canIssue_iff.1 hc).2.1), ha⟩
  case empty =>
    intro hr
    obtain ⟨hs, ht, -⟩ := wordReady_iff.1 hr
    obtain ⟨-, hc, -, hm, -⟩ := atTurn_iff.1 ht
    obtain ⟨u, hu, hsh, hq, ha⟩ := word_leaves (i := .nop) (f := id) rfl hr rfl (judge_empty hm) (perform_none rfl rfl) fun _ => ⟨rfl, rfl, rfl, rfl⟩
    refine ⟨u, hu, ?_⟩
    rw [hsh]
    refine ⟨registersKept_idle (hq ▸ closed_registers ..), ⟨?_, fun hl => ?_⟩, ?_, ⟨rfl, rfl, rfl⟩, ⟨rfl, rfl⟩,
      ⟨rfl, rfl, ⟨rfl, rfl, rfl⟩, ⟨rfl, rfl⟩, rfl, rfl⟩, ha⟩
    · rw [hq, closed_low_preds]; rfl
    · rw [hq, hl]
      exact closed_preds _ _ hl (canIssue_iff.1 hc).2.1
    · rw [hq, closed_units]; rfl
  case opens =>
    intro hl hin hw
    obtain ⟨hk, hpl⟩ := has_iff.1 hs
    have hv : c.headerVerdict p len mask wait = .go := (headerVerdict_inside hl hin).trans (if_pos (unsatisfied_eq_nil.2 hw))
    have ht := evalHeader_opens hc hv
    have hq : ((s.evalHeader k p len mask wait).core k).prt p = q.openSection len := by
      rw [ht, State.modPrt, core_modCore_same hk, prt_modPrt_same hpl]
    refine ⟨_, exec_sectionHeader hph, by rw [ht]; rfl, ?_⟩
    rw [hq]
    exact ⟨rfl, rfl, rfl, rfl⟩
  case waits =>
    rintro hl hin ⟨i, hi, hm, hd, hsp⟩
    obtain ⟨hk, hpl⟩ := has_iff.1 hs
    have hmem : headerPrt p i ∈ c.unsatisfied p mask wait := mem_unsatisfied.2 ⟨i, hi, hm, hd, rfl⟩
    have hv : c.headerVerdict p len mask wait = .stallIf true := by
      rw [headerVerdict_inside hl hin, if_neg (List.ne_nil_of_mem hmem), if_neg]
      intro h
      exact Bool.false_ne_true (hsp.symm.trans (List.all_eq_true.1 h _ hmem))
    refine ⟨_, exec_sectionHeader hph, ?_⟩
    rw [evalHeader_waits hc hv, nextTurn_core, core_modCore_same hk]
    exact prt_stall_same hpl _ rfl
  case traps =>
    intro hk0 hh h
    obtain ⟨hk, hpl⟩ := has_iff.1 hs
    have hv : c.headerVerdict p len mask wait = .trap .header 0 (headerBits len mask wait) 0 := by
      rcases h with h | ⟨hin, ⟨i, hi, hm, hd⟩, hall⟩
      · rw [Core.headerVerdict, if_pos h]
      · by_cases hl : len = 0
        · rw [Core.headerVerdict, if_pos hl]
        · have hmem : headerPrt p i ∈ c.unsatisfied p mask wait := mem_unsatisfied.2 ⟨i, hi, hm, hd, rfl⟩
          rw [headerVerdict_inside hl hin, if_neg (List.ne_nil_of_mem hmem), if_pos]
          refine List.all_eq_true.2 fun j hj => ?_
          obtain ⟨n, hn, hmn, hdn, rfl⟩ := mem_unsatisfied.1 hj
          exact hall n hn hmn hdn
    refine ⟨_, exec_sectionHeader hph, ?_⟩
    rw [evalHeader_traps hc hh hv, nextTurn_core, State.takeTrap, if_neg (by simpa [isFwCore] using hk0), core_modCore_same hk,
      trap_trap k _ _ _ hpl, if_pos rfl]
    rfl

end Sys2Proof.Machine
end

section
/-! The dispatcher (R30, R35, R36, R285, R295 to R297, R402, R407): budgets, turns, and the dispatch of a node of one member. -/

namespace Sys2Proof.Machine

/-! ### Lists -/

theorem foldl_eq_self {α β : Type} {f : β → α → β} {l : List α} {b : β} (h : ∀ x ∈ l, f b x = b) : l.foldl f b = b := by
  induction l with
  | nil => rfl
  | cons x xs ih =>
    rw [List.foldl_cons, h x List.mem_cons_self]
    exact ih fun y hy => h y (List.mem_cons_of_mem x hy)

/-- A fold of which one element alone acts. -/
theorem foldl_single {α β : Type} {f : β → α → β} {l : List α} {a : α} (hn : l.Nodup) (ha : a ∈ l) (h : ∀ b, ∀ x, x ≠ a → f b x = b) (b : β) :
    l.foldl f b = f b a := by
  induction l generalizing b with
  | nil => exact absurd ha List.not_mem_nil
  | cons x xs ih =>
    obtain ⟨hx, hn⟩ := List.nodup_cons.1 hn
    rw [List.foldl_cons]
    by_cases hxa : x = a
    · subst hxa
      exact foldl_eq_self fun y hy => h _ y fun e => hx (e ▸ hy)
    · rw [h b x hxa]
      exact ih hn ((List.mem_cons.1 ha).resolve_left (Ne.symm hxa)) b

section
variable {α : Type} {le : α → α → Bool}

theorem mem_insertBy {x y : α} {l : List α} : y ∈ insertBy le x l ↔ y = x ∨ y ∈ l := by
  induction l with
  | nil => simp [insertBy]
  | cons z zs ih =>
    rw [insertBy]
    split_ifs
    · simp
    · rw [List.mem_cons, ih, List.mem_cons]
      tauto

theorem mem_sortBy {y : α} {l : List α} : y ∈ sortBy le l ↔ y ∈ l := by
  induction l with
  | nil => rfl
  | cons x xs ih => rw [sortBy, List.foldr_cons, mem_insertBy, ← sortBy, ih, List.mem_cons]

/-- The first of a list in order stands before every other. -/
theorem sortBy_head {l : List α} {k : α} {ks : List α} (total : ∀ x y, le x y = true ∨ le y x = true)
    (trans : ∀ x y z, le x y = true → le y z = true → le x z = true) (h : sortBy le l = k :: ks) : ∀ j ∈ l, le k j = true := by
  induction l generalizing k ks with
  | nil => exact fun j hj => absurd hj List.not_mem_nil
  | cons x xs ih =>
    have hx : le x x = true := (total x x).elim id id
    rw [sortBy, List.foldr_cons, ← sortBy] at h
    cases hs : sortBy le xs with
    | nil =>
      rw [hs, insertBy] at h
      obtain ⟨rfl, -⟩ := List.cons.inj h
      intro j hj
      rcases List.mem_cons.1 hj with rfl | hj
      · exact hx
      · exact absurd (mem_sortBy.2 hj) (hs ▸ List.not_mem_nil)
    | cons y ys =>
      rw [hs, insertBy] at h
      have hy := ih hs
      split_ifs at h with hxy
      · obtain ⟨rfl, -⟩ := List.cons.inj h
        exact fun j hj => (List.mem_cons.1 hj).elim (fun e => e ▸ hx) fun hj => trans _ _ _ hxy (hy j hj)
      · obtain ⟨rfl, -⟩ := List.cons.inj h
        exact fun j hj => (List.mem_cons.1 hj).elim (fun e => e ▸ (total x y).resolve_left hxy) (hy j)

end

/-! ### Budgets -/

theorem region_map {s : State} {n : Nat} (hn : n < s.sched.regions.length) (f : Region → Region) :
    (s.sched.regions.map f).getD n (.reset n) = f (s.region n) := by
  simp [State.region, hn]

theorem unlimited_iff {b : BitVec 32} : unlimited b = true ↔ b = 0xFFFFFFFF := by simp [unlimited]

theorem refilled_eq (bud : BitVec 32) (bal : Int) :
    refilled bud bal = if bud = 0xFFFFFFFF then 0 else (bud.toNat : Int) + max (min bal 0) (-(bud.toNat : Int)) :=
  if_congr unlimited_iff rfl rfl

theorem hasBudget_iff {r : Region} : r.hasBudget = true ↔ r.spent = 0 := by simp [Region.hasBudget]

theorem use_eq (r : Region) : r.use = if r.cbud = 0xFFFFFFFF then -r.cbal else (r.cbud.toNat : Int) - r.cbal := if_congr unlimited_iff rfl rfl

theorem lighter_iff {a b : Region} : a.lighter b = true ↔ a.use * b.weight.toNat < b.use * a.weight.toNat := by simp [Region.lighter]

theorem region_modRegion_same {s : State} {n : Nat} (hn : n < s.sched.regions.length) (f : Region → Region) :
    (s.modRegion n f).region n = f (s.region n) := by
  simp [State.region, State.modRegion, hn]

theorem flogseq_logFailure_same {s : State} {n : Nat} (hn : n < s.dev.flogseq.length) (code sub : Nat) (st : Option Nat) (tag job : BitVec 32) :
    (s.logFailure n code sub st tag job).dev.flogseq.getD n 0 = s.dev.flogseq.getD n 0 + 1 := by
  simp [State.logFailure, hn]

/-! ### Turns -/

theorem turnDue_iff {s : State} :
    s.turnDue = true ↔ s.dev.booted = true ∧ s.dev.fwhalt = false ∧ s.sched.lastTurn.toNat + 2000 ≤ s.now.toNat := by
  simp [State.turnDue, and_assoc]

/-- No ready node has tiles left to prefetch, and no adapter is looked for. -/
def State.still (s : State) : Prop := s.sched.lookahead = 0 ∧ ∀ g ∈ s.sched.graphs, ∀ m ∈ g.nodes, m.phase = .ready → m.prefetched = true

theorem prefetchReady_still {s : State} (h : s.still) : s.prefetchReady = s := by
  refine foldl_eq_self fun g hg => ?_
  have hf : (g.nodes.zipIdx.filter fun x => x.1.phase == .ready && !x.1.prefetched) = [] := by
    refine List.filter_eq_nil_iff.2 fun x hx hp => ?_
    rw [Bool.and_eq_true, beq_iff_eq, Bool.not_eq_true'] at hp
    exact Bool.false_ne_true (hp.2.symm.trans (h.2 g hg x.1 (List.fst_mem_of_mem_zipIdx hx) hp.1))
  rw [hf]
  rfl

/-- A turn has happened. -/
def State.endTurn (s : State) : State := { s with sched := { s.sched with lastTurn := s.now } }

theorem exec_dispatchTurn {s : State} (ht : s.turnDue = true) (hs : s.still) :
    exec .dispatchTurn s = .next (((s.refuse s.readyPool).turn s.readyPool).getD (s.refuse s.readyPool)).endTurn := by
  have h0 : ((s.readyNodes fun _ _ => true).take s.sched.lookahead.toNat) = [] := by rw [hs.1]; exact List.take_zero
  refine congrArg Host.Outcome.next ((if_neg (by rw [ht]; exact Bool.noConfusion)).trans ?_)
  rw [prefetchReady_still hs, h0]
  rfl

/-! ### What a turn chooses -/

/-- Nodes of a pool whose regions may run. -/
def State.livePool (s : State) (pool : List Ready) : List Ready := pool.filter fun x => (s.region x.region).en && (s.region x.region).hasBudget

/-- The first node of each region that can be dispatched. -/
def State.firsts (s : State) (live : List Ready) : List Ready :=
  (List.range 8).filterMap fun n => (live.filter fun x => x.region == n).find? s.canDispatch

/-- Of two nodes the one of the region of less use. -/
def State.better (s : State) (acc : Option Ready) (r : Ready) : Option Ready :=
  match acc with
  | some b => if (s.region r.region).lighter (s.region b.region) then some r else some b
  | none => some r

section
variable {s : State} {pool : List Ready}

theorem turn_of_aged {o : Ready} {mine : Ready} (h : oldest ((s.livePool pool).filter s.isAged) = some o)
    (hm : (oldest ((s.livePool pool).filter fun x => x.region == o.region)).getD o = mine) : s.turn pool =
      if s.canDispatch mine then s.dispatch mine
      else some (State.evict mine (s.victims mine (((s.livePool pool).filter s.isAged).map Ready.region)) s) := by
  subst hm
  simp only [State.turn, State.livePool] at h ⊢
  rw [h]
  rfl

theorem turn_of_unaged (h : (s.livePool pool).filter s.isAged = []) : s.turn pool =
    match (s.firsts (s.livePool pool)).foldl s.better none with
    | some r => s.dispatch r
    | none => some s := by
  have h' : oldest ((s.livePool pool).filter s.isAged) = none := by rw [h]; rfl
  simp only [State.turn, State.livePool] at h' ⊢
  rw [h']
  rfl

/-- Nothing is refused while every region of the pool has budget. -/
theorem refuse_none (h : ∀ x ∈ pool, (s.region x.region).hasBudget = true) : s.refuse pool = s := by
  refine foldl_eq_self fun n _ => if_neg ?_
  simp only [Bool.and_eq_true, Bool.not_eq_true', List.any_eq_true, beq_iff_eq, not_and, not_exists]
  rintro ⟨⟨-, hb⟩, -⟩ x hx rfl
  exact Bool.false_ne_true (hb.symm.trans (h x hx))

theorem livePool_all (h : ∀ x ∈ pool, (s.region x.region).en = true ∧ (s.region x.region).spent = 0) : s.livePool pool = pool :=
  List.filter_eq_self.2 fun x hx => by rw [(h x hx).1, hasBudget_iff.2 (h x hx).2]; rfl

end

theorem filterMap_filter_of_none {α β : Type} {F : α → Option β} {p : α → Bool} {l : List α} (h : ∀ x, p x = false → F x = none) :
    (l.filter p).filterMap F = l.filterMap F := by
  rw [List.filterMap_filter]
  refine List.filterMap_congr fun x _ => ?_
  cases hp : p x with
  | false => exact (h x hp).symm
  | true => rfl

theorem range8_filter_one : ∀ a : Fin 8, ((List.range 8).filter fun n => n == a.val) = [a.val] := by decide

theorem range8_filter_two : ∀ a b : Fin 8, a < b → ((List.range 8).filter fun n => n == a.val || n == b.val) = [a.val, b.val] := by decide

section
variable {s : State} {r q : Ready}

/-- The first node of region n in a pool that can be dispatched. -/
def State.firstOf (s : State) (pool : List Ready) (n : Nat) : Option Ready := (pool.filter fun x => x.region == n).find? s.canDispatch

theorem firstOf_eq_none {pool : List Ready} {n : Nat} (h : ∀ x ∈ pool, x.region ≠ n) : s.firstOf pool n = none := by
  have : (pool.filter fun x => x.region == n) = [] := List.filter_eq_nil_iff.2 fun x hx => by simpa using h x hx
  rw [State.firstOf, this]
  rfl

theorem firstOf_cons_same {pool : List Ready} (hd : s.canDispatch r = true) : s.firstOf (r :: pool) r.region = some r := by
  simp [State.firstOf, hd]

theorem firstOf_cons_ne {pool : List Ready} {n : Nat} (h : r.region ≠ n) : s.firstOf (r :: pool) n = s.firstOf pool n := by
  simp [State.firstOf, h]

theorem firsts_same_region {pool : List Ready} (hr : r.region < 8) (hp : ∀ x ∈ pool, x.region = r.region) (hd : s.canDispatch r = true) :
    s.firsts (r :: pool) = [r] := by
  change (List.range 8).filterMap (s.firstOf (r :: pool)) = [r]
  rw [← filterMap_filter_of_none (p := fun n => n == r.region), range8_filter_one ⟨r.region, hr⟩, List.filterMap_cons, firstOf_cons_same hd]
  · rfl
  · intro n hn
    refine firstOf_eq_none fun x hx => ?_
    have hx : x.region = r.region := (List.mem_cons.1 hx).elim (fun e => e ▸ rfl) (hp x)
    exact hx ▸ (ne_of_beq_false hn).symm

theorem firsts_two (h : r.region < q.region) (hq : q.region < 8) (hd : s.canDispatch r = true) (hd' : s.canDispatch q = true)
    {pool : List Ready} (hl : pool = [r, q] ∨ pool = [q, r]) : s.firsts pool = [r, q] := by
  have hr : s.firstOf pool r.region = some r := by
    rcases hl with rfl | rfl
    · exact firstOf_cons_same hd
    · rw [firstOf_cons_ne (Nat.ne_of_gt h), firstOf_cons_same hd]
  have hq' : s.firstOf pool q.region = some q := by
    rcases hl with rfl | rfl
    · rw [firstOf_cons_ne (Nat.ne_of_lt h), firstOf_cons_same hd']
    · exact firstOf_cons_same hd'
  change (List.range 8).filterMap (s.firstOf pool) = [r, q]
  rw [← filterMap_filter_of_none (p := fun n => n == r.region || n == q.region), range8_filter_two ⟨r.region, h.trans hq⟩ ⟨q.region, hq⟩ h,
    List.filterMap_cons, hr, List.filterMap_cons, hq']
  · rfl
  · intro n hn
    obtain ⟨h1, h2⟩ := Bool.or_eq_false_iff.1 hn
    refine firstOf_eq_none fun x hx => ?_
    have hx : x = r ∨ x = q := by rcases hl with rfl | rfl <;> simp at hx <;> tauto
    rcases hx with rfl | rfl
    · exact (ne_of_beq_false h1).symm
    · exact (ne_of_beq_false h2).symm

end

theorem lighter_asymm {a b : Region} (h : a.lighter b = true) : ¬b.lighter a = true := by
  rw [lighter_iff] at h ⊢
  exact Int.not_lt.2 h.le

/-! ### Requests to pre-empt for a node that has waited too long -/

theorem not_lighter_iff {a b : Region} : (!(a.lighter b)) = true ↔ b.use * a.weight.toNat ≤ a.use * b.weight.toNat := by simp [Region.lighter]

theorem not_lighter_total (a b : Region) : (!(a.lighter b)) = true ∨ (!(b.lighter a)) = true := by
  rw [not_lighter_iff, not_lighter_iff]
  exact le_total _ _

theorem not_lighter_trans {a b c : Region} (hb : b.weight ≠ 0) (h1 : (!(a.lighter b)) = true) (h2 : (!(b.lighter c)) = true) :
    (!(a.lighter c)) = true := by
  rw [not_lighter_iff] at h1 h2 ⊢
  have hw : (0 : Int) < b.weight.toNat := by
    have : b.weight.toNat ≠ 0 := fun h => hb (BitVec.eq_of_toNat_eq h)
    omega
  have h3 := mul_le_mul_of_nonneg_right h1 (Int.natCast_nonneg c.weight.toNat)
  have h4 := mul_le_mul_of_nonneg_right h2 (Int.natCast_nonneg a.weight.toNat)
  refine le_of_mul_le_mul_right ?_ hw
  linarith

/-- The region of the job of a core. -/
def State.regionAt (s : State) (k : Nat) : Nat := match (s.core k).job with | some j => descRegion j.desc | none => 0

theorem regionAt_lt (s : State) (k : Nat) : s.regionAt k < 8 := by
  unfold State.regionAt
  cases (s.core k).job with
  | none => decide
  | some j => exact Nat.mod_lt _ (by decide)

/-- The job of core k may be pre-empted for a node of region n. -/
def State.mayStop (s : State) (k n : Nat) : Prop := (∃ j, (s.core k).job = some j ∧ j.phase = .running) ∧ s.regionAt k ≠ n

section
variable {s : State} {r : Ready} {g : GraphInst} {x : NodeInst}

/-- The jobs that may be pre-empted for a node, in the order of the use of their regions. -/
theorem victims_eq (h : s.readyNode r = some (g, x)) (n : Nat) : ∃ run, s.victims r [n] =
      sortBy (fun a b => !((s.region (s.regionAt a)).lighter (s.region (s.regionAt b)))) run ∧
    ∀ k, k ∈ run ↔ k ∈ s.places g x ∧ s.mayStop k n := by
  refine ⟨(s.places g x).filter fun k => match (s.core k).job with | some j => j.phase == .running && !([n].contains (descRegion j.desc)) | none => false,
    ?_, fun k => ?_⟩
  · rw [State.victims, h]
    rfl
  · rw [List.mem_filter, State.mayStop, State.regionAt]
    cases (s.core k).job <;> simp

theorem mem_victims (h : s.readyNode r = some (g, x)) {n k : Nat} : k ∈ s.victims r [n] ↔ k ∈ s.places g x ∧ s.mayStop k n := by
  obtain ⟨run, hv, hm⟩ := victims_eq h n
  rw [hv, mem_sortBy, hm]

/-- The first of them is of a region of greatest use. -/
theorem victims_head (hw : ∀ m < 8, (s.region m).weight ≠ 0) (h : s.readyNode r = some (g, x)) {n k : Nat} {ks : List Nat}
    (hv : s.victims r [n] = k :: ks) : ∀ j, j ∈ s.places g x → s.mayStop j n → (s.region (s.regionAt k)).lighter (s.region (s.regionAt j)) = false := by
  obtain ⟨run, hs, hm⟩ := victims_eq h n
  intro j hj hj'
  have total (a b : Nat) := not_lighter_total (s.region (s.regionAt a)) (s.region (s.regionAt b))
  have trans (a b c : Nat) := not_lighter_trans (a := s.region (s.regionAt a)) (c := s.region (s.regionAt c)) (hw _ (regionAt_lt s b))
  exact (Bool.not_eq_true' _).mp (sortBy_head total trans (hs.symm.trans hv) j ((hm j).2 ⟨hj, hj'⟩))

/-- Cores that are free or coming are enough: nobody is asked to stop. -/
theorem evict_enough (h : r.size ≤ (s.freeFor r).length + s.coming r) (ks : List Nat) : State.evict r ks s = s := by
  induction ks with
  | nil => rfl
  | cons k ks ih => rw [State.evict, if_neg (Nat.not_lt.2 h), ih]

theorem coming_pos (h : s.readyNode r = some (g, x)) {k : Nat} (hk : k ∈ s.places g x) {j : Job} (hj : (s.core k).job = some j)
    (hp : j.phase = .preempting) : 0 < s.coming r := by
  rw [State.coming, h]
  refine List.length_pos_of_mem (List.mem_filter.2 ⟨hk, ?_⟩)
  rw [hj]
  simp [hp]

end

theorem foldl_modCore_eq (f : Core → Core) (ks : List Nat) (s : State) : ∃ cs, ks.foldl (fun s k => s.modCore k f) s = { s with cores := cs } := by
  induction ks generalizing s with
  | nil => exact ⟨s.cores, rfl⟩
  | cons k ks ih =>
    obtain ⟨cs, h⟩ := ih (s.modCore k f)
    exact ⟨cs, h⟩

/-- A request to pre-empt changes cores alone. -/
theorem preemptRequest_cores (s : State) (k : Nat) : ∃ cs, s.preemptRequest k = { s with cores := cs } := by
  cases h : (s.core k).job with
  | none => exact ⟨s.cores, by rw [State.preemptRequest, h]⟩
  | some j =>
    rw [preemptRequest_eq h]
    exact foldl_modCore_eq _ _ s

/-- The job of a core that is asked to stop. -/
theorem job_preemptRequest {s : State} {k : Nat} {j : Job} (hl : s.cores.length = 128) (hk : k < 128) (hj : (s.core k).job = some j)
    (hp : j.phase = .running) : ((s.preemptRequest k).core k).job = some { j with phase := .preempting, since := s.now } := by
  rw [preemptRequest_eq hj, core_foldl_modCore (nodup_matesOf s j) (hl.symm ▸ hk), if_pos (mem_matesOf.2 ⟨hk, j, hj, rfl, rfl⟩), Core.askStop, hj]
  exact congrArg Core.job (if_pos hp)

theorem places_lt {s : State} {g : GraphInst} {x : NodeInst} {k : Nat} (h : k ∈ s.places g x) : k < 128 := by
  have any : ∀ k, k ∈ ((List.range 128).filter fun k => k != 0 && isFcore k == nodeKind x.recd && !(s.dev.coreret.getD k false)) → k < 128 :=
    fun k hk => List.mem_range.1 (List.mem_filter.1 hk).1
  unfold State.places at h
  dsimp only at h
  split at h
  · exact any k h
  · split_ifs at h
    · exact any k (List.mem_filter.1 h).1
    · exact any k (List.mem_filter.1 h).1
    · exact any k h

/-- For a node of one member, with no core free or coming, one job is asked to stop. -/
theorem evict_one {s : State} {r : Ready} {g : GraphInst} {x : NodeInst} (h : s.readyNode r = some (g, x)) (hl : s.cores.length = 128)
    (hsz : r.size = 1) (hf : (s.freeFor r).length = 0) (hc : s.coming r = 0) {k : Nat} (ks : List Nat) (hk : k ∈ s.places g x)
    {j : Job} (hj : (s.core k).job = some j) (hp : j.phase = .running) : State.evict r (k :: ks) s = s.preemptRequest k := by
  obtain ⟨cs, he⟩ := preemptRequest_cores s k
  have hpos : 0 < (s.preemptRequest k).coming r := by
    refine coming_pos (g := g) (x := x) ?_ ?_ (job_preemptRequest hl (places_lt hk) hj hp) rfl
    · rw [he]; exact h
    · rw [he]; exact hk
  rw [State.evict, if_pos (by omega)]
  exact evict_enough (by omega) ks

/-! ### The dispatch of a node of one member -/

/-- A job that a core begins to launch for a node of one member, its Rucksack taken from the pool. -/
def State.newJob (s : State) (g : GraphInst) (node : Nat) (desc slot : List Word) : Job :=
  ⟨desc, .launching, g.id, node, s.takeJob.1.takePool.2, relocs g.bufs s.takeJob.1.takePool.2 slot, 0⟩

/-- The dispatch of a node of one member on core k. -/
def State.dispatchOne (s : State) (g : GraphInst) (node k : Nat) (desc slot : List Word) : State :=
  (s.takeJob.1.takePool.1.loadJob k (s.newJob g node desc slot)).modNode g.id node fun n => { n with phase := .running, live := 1 }

theorem dispatchFresh_one {s s1 s2 : State} {g : GraphInst} {x : NodeInst} {node k : Nat} {sl tp : List Word} (hsz : nodeSize x.recd = 1)
    (hst : g.stream = none) (hmis : s2.takeJob.1.misfit g x = false) (hrec : s.slotRec g.slot = .ok s1 sl) (hstate : fld (sl.getD 0 0) 62 2 = 2)
    (htp : s1.descTemplate sl (fld (x.recd.getD 0 0) 0 32) = .ok s2 tp)
    (hd : descCheck (fillDesc tp s2.sched.nextJob 0 1 g.region g.slot (nodeKind x.recd) none 0) false = 0) :
    s.dispatchFresh g x node [k] =
      some (s2.dispatchOne g node k (fillDesc tp s2.sched.nextJob 0 1 g.region g.slot (nodeKind x.recd) none 0) sl) := by
  have hslot : slotState sl = 2 := hstate
  have hrange : List.range 1 = [0] := rfl
  have hd' : descCheck (fillDesc tp s2.takeJob.2 0 1 g.region g.slot (nodeKind x.recd) none 0) false = 0 := hd
  simp only [State.dispatchFresh, State.slotNow, hrec, EngAns.bind, htp, hsz, hst, ↓reduceIte, hrange, List.foldl_cons, List.foldl_nil,
    List.nil_append, List.map_cons, List.map_nil, hmis, hd', hslot, List.find?_cons, List.find?_nil, ne_eq, not_true_eq_false, decide_false,
    true_or, List.zip_cons_cons, List.zip_nil_right]
  rw [State.holdPorts, hst]
  rfl

/-- A core that begins to launch a job. -/
def Core.launch (c : Core) (free : Nat) (j : Job) (dbg : Bool) : Core :=
  let sh := { (c.fresh free).sh with ftb := pinnedFtb j.reloc, fillptr := 16 }
  { c.fresh free with sh := sh, sh0 := sh, job := some j, dbg := dbg }

section
variable (c : Core) (free : Nat) (j : Job) (dbg : Bool)

theorem launch_job : (c.launch free j dbg).job = some j := rfl
theorem launch_prts : (c.launch free j dbg).prts = List.replicate 12 .empty := rfl
theorem launch_l1 : (c.launch free j dbg).l1 = [] := rfl
theorem launch_ftb : (c.launch free j dbg).sh.ftb = pinnedFtb j.reloc := rfl
theorem launch_tags : (c.launch free j dbg).sh.tags = c.sh.tags := by simp only [Core.launch, Core.fresh]
theorem launch_sema : (c.launch free j dbg).sh.sema = List.replicate 256 ⟨0, false⟩ := rfl

end

theorem core_loadJob {s : State} {k : Nat} (hk : k < s.cores.length) (j : Job) :
    (s.loadJob k j).core k = (s.core k).launch s.free j (s.fw.debugs k) :=
  core_modCore_same hk fun c => c.launch s.free j (s.fw.debugs k)

theorem core_loadJob_ne {s : State} {k i : Nat} (h : i ≠ k) (j : Job) : (s.loadJob k j).core i = s.core i :=
  core_modCore_ne h fun c => c.launch s.free j (s.fw.debugs k)

theorem pinnedFtb_getD (reloc : List FtbEntry) {i : Nat} (hi : i < 128) : (pinnedFtb reloc).getD i ⟨0, 0, 0, 0⟩ =
    if i < 16 then (reloc.getD i ⟨0, 0, 0, 0⟩).loaded true else ⟨0, 0, 0, 0⟩ := by
  rw [pinnedFtb, List.getD_eq_getElem?_getD, List.getElem?_map, List.getElem?_range hi]
  rfl

/-- A task graph whose node has changed. -/
theorem graph?_modNode (s : State) (g n : Nat) (f : NodeInst → NodeInst) (id : Nat) : (s.modNode g n f).graph? id =
    (s.graph? id).map fun x => if x.id = g then { x with nodes := x.nodes.mapIdx fun i y => if i = n then f y else y } else x := by
  rw [State.graph?, State.modNode, List.find?_map, State.graph?]
  congr 1
  refine congrArg (fun p => s.sched.graphs.find? p) (funext fun x => ?_)
  simp only [Function.comp_apply]
  split_ifs <;> rfl

/-- The node itself. -/
theorem node_modNode {s : State} {g : GraphInst} {n : Nat} {x : NodeInst} (hg : s.graph? g.id = some g) (hx : g.nodes[n]? = some x)
    (f : NodeInst → NodeInst) : ∃ h, (s.modNode g.id n f).graph? g.id = some h ∧ h.nodes[n]? = some (f x) := by
  refine ⟨_, by rw [graph?_modNode, hg, Option.map_some, if_pos rfl], ?_⟩
  simp [hx]

theorem graph?_id {s : State} {id : Nat} {g : GraphInst} (h : s.graph? id = some g) : g.id = id := by
  rw [State.graph?] at h
  have := List.find?_some h
  exact beq_iff_eq.1 this

theorem readyNode_some {s : State} {r : Ready} {g : GraphInst} {x : NodeInst} (h : s.readyNode r = some (g, x)) :
    s.graph? g.id = some g ∧ g.nodes[r.node]? = some x := by
  simp only [State.readyNode, Option.bind_eq_some_iff, Option.map_eq_some_iff] at h
  obtain ⟨g', hg, x', hx, e⟩ := h
  obtain ⟨rfl, rfl⟩ := Prod.mk.inj e
  exact ⟨graph?_id hg ▸ hg, hx⟩

/-! ### The obligation -/

/-- The records of one region that a turn refuses. -/
theorem refuse_one {s : State} {r : Ready} (hr : r.region < 8) (he : (s.region r.region).en = true) (hs : (s.region r.region).spent ≠ 0)
    (hf : (s.region r.region).refused = false) : s.refuse [r] =
      (s.logFailure r.region 9 (s.region r.region).spent none 0 0).modRegion r.region fun x => { x with refused := true } := by
  have hb : (s.region r.region).hasBudget = false := Bool.eq_false_iff.2 fun h => hs (hasBudget_iff.1 h)
  refine (foldl_single List.nodup_range (List.mem_range.2 hr) ?_ s).trans ?_
  · intro t n hn
    refine if_neg ?_
    simp [hn.symm]
  · refine if_pos ?_
    simp [he, hb, hf]

/-- A turn over regions that may all run. -/
theorem exec_turn_live {s : State} {pool : List Ready} (ht : s.turnDue = true) (hst : s.still) (hp : s.readyPool = pool)
    (hl : ∀ x ∈ pool, (s.region x.region).en = true ∧ (s.region x.region).spent = 0) :
    exec .dispatchTurn s = .next ((s.turn pool).getD s).endTurn := by
  rw [exec_dispatchTurn ht hst, hp, refuse_none fun x hx => hasBudget_iff.2 (hl x hx).2]

section
variable {s : State} {r q : Ready}

theorem isAged_iff : s.isAged r = true ↔ r.since.toNat + 1000 * s.sched.grace.toNat ≤ s.now.toNat := by simp [State.isAged]

theorem turn_one (hl : s.livePool [r] = [r]) (hr : r.region < 8) (hd : s.canDispatch r = true) : s.turn [r] = s.dispatch r := by
  by_cases ha : s.isAged r = true
  · rw [turn_of_aged (o := r) (mine := r), if_pos hd]
    · simp [hl, ha, oldest]
    · simp [hl, oldest]
  · rw [turn_of_unaged, hl, firsts_same_region hr (fun _ h => absurd h List.not_mem_nil) hd]
    · rfl
    · simp [hl, ha]

theorem turn_two (hl : s.livePool [r, q] = [r, q]) (hr : s.isAged r = false) (hq : s.isAged q = false) {x : Ready}
    (hx : (s.firsts [r, q]).foldl s.better none = some x) : s.turn [r, q] = s.dispatch x := by
  rw [turn_of_unaged, hl, hx]
  simp [hl, hr, hq]

theorem better_two (x y : Ready) : [x, y].foldl s.better none = some (if (s.region y.region).lighter (s.region x.region) then y else x) := by
  change (if (s.region y.region).lighter (s.region x.region) then some y else some x) = _
  split_ifs <;> rfl

end

/-- Settles O42: a turn over regions with budget dispatches the node that its rule names (turn_one, turn_two, turn_of_aged), and a dispatch
of one member is dispatchOne. -/
theorem dispatcherEvents : Obligations.DispatcherEvents := by
  unfold Obligations.DispatcherEvents
  intro s n r q a full due turn still live aged use less ends goes
  have hless (x y : Ready) : less x y ↔ (s.region x.region).lighter (s.region y.region) = true := by
    rw [lighter_iff, use_eq, use_eq]
  refine ⟨?refills, ?waits, ?idle, ?empty, ?refuses, ?one, ?two, ?aged, ?stops, ?launches⟩
  case refills =>
    intro hd hn
    have ht : s.budgetRefill = _ := if_pos (decide_eq_true hd)
    have hb : s.budgetRefill.region n = a.refill := by rw [ht]; exact region_map hn Region.refill
    refine ⟨_, rfl, by rw [ht], by rw [ht], ?_⟩
    rw [hb]
    exact ⟨refilled_eq _ _, refilled_eq _ _, refilled_eq _ _, rfl, rfl⟩
  case waits => exact fun hd => congrArg Host.Outcome.next (if_neg fun h => hd (of_decide_eq_true h))
  case idle => exact fun ht => congrArg Host.Outcome.next (if_pos (Bool.eq_false_iff.2 fun h => ht (turnDue_iff.1 h)))
  case empty =>
    intro ht hst hp
    exact exec_turn_live (turnDue_iff.2 ht) hst hp fun x hx => absurd hx List.not_mem_nil
  case refuses =>
    intro ht hst hp hr ha he hs hf hlr hlf
    rw [ha] at he hs hf
    have href := refuse_one hr he hs hf
    have hreg : (s.refuse [r]).region r.region = { s.region r.region with refused := true } := by
      rw [href]
      exact region_modRegion_same (s := s.logFailure _ _ _ _ _ _) hlr _
    have hlive : (s.refuse [r]).livePool [r] = [] := by
      have hb : (s.region r.region).hasBudget = false := Bool.eq_false_iff.2 fun h => hs (hasBudget_iff.1 h)
      refine List.filter_eq_nil_iff.2 fun x hx => ?_
      rw [List.mem_singleton.1 hx, hreg]
      exact fun h => Bool.false_ne_true (hb.symm.trans (Bool.and_eq_true_iff.1 h).2)
    have hnone : (s.refuse [r]).turn [r] = some (s.refuse [r]) := by
      rw [turn_of_unaged (by rw [hlive]; rfl), hlive]
      rfl
    have hseq : (s.refuse [r]).dev.flogseq.getD r.region 0 = s.dev.flogseq.getD r.region 0 + 1 := by
      rw [href]
      exact flogseq_logFailure_same hlf ..
    have hcores : (s.refuse [r]).cores = s.cores := by rw [href]; rfl
    have hgraphs : (s.refuse [r]).sched.graphs = s.sched.graphs := by rw [href]; rfl
    have hexec := exec_dispatchTurn (turnDue_iff.2 ht) hst
    rw [hp, hnone, Option.getD_some] at hexec
    generalize s.refuse [r] = u at hreg hseq hcores hgraphs hexec
    exact ⟨u.endTurn, hexec, congrArg Region.refused hreg, hseq, hcores, hgraphs⟩
  case one =>
    intro ht hst hp hl hd u hu
    have hlive : ∀ x ∈ [r], (s.region x.region).en = true ∧ (s.region x.region).spent = 0 := fun x hx => List.mem_singleton.1 hx ▸ hl.2
    rw [exec_turn_live (turnDue_iff.2 ht) hst hp hlive, turn_one (livePool_all hlive) hl.1 hd, hu]
    rfl
  case two =>
    intro ht hst hp hlr hlq har haq hdr hdq
    have hlive : ∀ x ∈ [r, q], (s.region x.region).en = true ∧ (s.region x.region).spent = 0 := by
      intro x hx
      rcases List.mem_pair.1 hx with rfl | rfl
      exacts [hlr.2, hlq.2]
    have choose (x : Ready) (hx : (s.firsts [r, q]).foldl s.better none = some x) : goes x := by
      intro u hu
      rw [exec_turn_live (turnDue_iff.2 ht) hst hp hlive, turn_two (livePool_all hlive) (Bool.eq_false_iff.2 fun h => har (isAged_iff.1 h))
        (Bool.eq_false_iff.2 fun h => haq (isAged_iff.1 h)) hx, hu]
      rfl
    split_ifs with h1 h2 h3 h4
    · refine choose r ?_
      rw [firsts_same_region hlr.1 (by simp [h1]) hdr]
      rfl
    · refine choose r ?_
      rw [hless] at h2
      rcases Nat.lt_or_gt_of_ne h1 with h | h
      · rw [firsts_two h hlq.1 hdr hdq (.inl rfl), better_two, if_neg (lighter_asymm h2)]
      · rw [firsts_two h hlr.1 hdq hdr (.inr rfl), better_two, if_pos h2]
    · refine choose q ?_
      rw [hless] at h3
      rcases Nat.lt_or_gt_of_ne h1 with h | h
      · rw [firsts_two h hlq.1 hdr hdq (.inl rfl), better_two, if_pos h3]
      · rw [firsts_two h hlr.1 hdq hdr (.inr rfl), better_two, if_neg (lighter_asymm h3)]
    · refine choose r ?_
      rw [hless] at h3
      rw [firsts_two h4 hlq.1 hdr hdq (.inl rfl), better_two, if_neg h3]
    · refine choose q ?_
      rw [hless] at h2
      rw [firsts_two (lt_of_le_of_ne (Nat.not_lt.1 h4) (Ne.symm h1)) hlr.1 hdq hdr (.inr rfl), better_two, if_neg h2]
  case aged =>
    intro ht hst hp hlr hlq har haq hdq u hu
    have hlive : ∀ x ∈ [r, q], (s.region x.region).en = true ∧ (s.region x.region).spent = 0 := by
      intro x hx
      rcases List.mem_pair.1 hx with rfl | rfl
      exacts [hlr.2, hlq.2]
    have hl := livePool_all hlive
    have hr : s.isAged r = false := Bool.eq_false_iff.2 fun h => har (isAged_iff.1 h)
    have hold : q.since.toNat < r.since.toNat := by
      change ¬ r.since.toNat + 1000 * s.sched.grace.toNat ≤ s.now.toNat at har
      change q.since.toNat + 1000 * s.sched.grace.toNat ≤ s.now.toNat at haq
      omega
    have hturn : s.turn [r, q] = s.dispatch q := by
      rw [turn_of_aged (o := q) (mine := q), if_pos hdq]
      · simp [hl, hr, isAged_iff.2 haq, oldest]
      · rw [hl]
        by_cases h : r.region = q.region <;> simp [h, oldest, hold]
    rw [exec_turn_live (turnDue_iff.2 ht) hst hp hlive, hturn, hu]
    rfl
  case stops =>
    intro ht hst hp hl ha hd hsz hcm hw hlen g x hx region victim
    have hlive : ∀ x ∈ [r], (s.region x.region).en = true ∧ (s.region x.region).spent = 0 := fun x hx => List.mem_singleton.1 hx ▸ hl.2
    have hpool := livePool_all hlive
    have hfree : (s.freeFor r).length = 0 := by
      have := (Bool.or_eq_false_iff.1 hd).1
      rw [hsz, decide_eq_false_iff_not] at this
      omega
    have hturn : s.turn [r] = some (State.evict r (s.victims r [r.region]) s) := by
      have hold : (s.livePool [r]).filter s.isAged = [r] := by simp [hpool, isAged_iff.2 ha]
      rw [turn_of_aged (o := r) (mine := r) (by rw [hold]; rfl) (by simp [hpool, oldest]), hd, hold]
      rfl
    have hexec := exec_turn_live (turnDue_iff.2 ht) hst hp hlive
    rw [hturn, Option.getD_some] at hexec
    have hv (k : Nat) : k ∈ s.victims r [r.region] ↔ victim k := (mem_victims hx).trans Iff.rfl
    cases hks : s.victims r [r.region] with
    | nil =>
      rw [hks] at hexec hv
      exact ⟨fun _ => hexec, fun ⟨k, hk⟩ => absurd ((hv k).2 hk) List.not_mem_nil⟩
    | cons k ks =>
      have hk : victim k := (hv k).1 (hks ▸ List.mem_cons_self)
      obtain ⟨hplace, ⟨j, hj, hrun⟩, -⟩ := id hk
      rw [hks, evict_one hx hlen hsz hfree hcm ks hplace hj hrun] at hexec
      exact ⟨fun h => absurd hk (h k), fun _ => ⟨k, hk, fun i hi => victims_head hw hx hks i hi.1 hi.2, hexec⟩⟩
  case launches =>
    intro g x k ks sl tp s1 s2 hx hph hsz hfree hrs hk hst hmis hrec hstate htp hs2 desc hdesc
    obtain ⟨hg, hnode⟩ := readyNode_some hx
    have hcan : s.canDispatch r = true := by simp [State.canDispatch, hfree, hrs]
    generalize s2.mem = m at hs2
    subst hs2
    have hu : s.dispatch r = some (({ s with mem := m } : State).dispatchOne g r.node k desc sl) := by
      have hns : ¬x.phase = .saved := by rw [hph]; exact NodePhase.noConfusion
      have hcores : (s.freeFor r).take r.size = [k] := by rw [hfree, hrs]; rfl
      rw [State.dispatch, hx, Option.bind_some]
      dsimp only
      rw [hcan, hcores, if_neg (by decide), if_neg hns]
      exact dispatchFresh_one hsz hst hmis hrec hstate htp hdesc
    have hcore := core_loadJob (s := (({ s with mem := m } : State).takeJob.1.takePool.1)) hk (({ s with mem := m } : State).newJob g r.node desc sl)
    refine ⟨_, ({ s with mem := m } : State).newJob g r.node desc sl, hu, congrArg Core.job hcore, rfl, rfl, rfl, rfl, rfl,
      (congrArg Core.prts hcore).trans (launch_prts ..), (congrArg Core.l1 hcore).trans (launch_l1 ..), fun i hi => ?_,
      (congrArg (fun c : Core => c.sh.tags) hcore).trans (launch_tags ..), (congrArg (fun c : Core => c.sh.sema) hcore).trans (launch_sema ..),
      rfl, fun i hi => core_loadJob_ne hi _, ?_⟩
    · exact (congrArg (fun c : Core => c.sh.ftb.getD i ⟨0, 0, 0, 0⟩) hcore).trans (pinnedFtb_getD _ hi)
    · obtain ⟨h, hh, hy⟩ := node_modNode (s := (({ s with mem := m } : State).takeJob.1.takePool.1.loadJob k
        (({ s with mem := m } : State).newJob g r.node desc sl))) hg hnode fun n => { n with phase := .running, live := 1 }
      exact ⟨h, _, hh, hy, rfl, rfl⟩

end Sys2Proof.Machine
end

section
/-! The frame of events (R37, R43 to R47, R61, R73, R175, R228, R249, R253, R296, R303, R307, R320, R322, R413; log 110): relations
between the state before and after, each kept by the changes that the events are made of. -/

namespace Sys2Proof.Machine

/-! ### Events that put back one core -/

/-- t is s with core k replaced. -/
def State.CoreOnly (s t : State) (k : Nat) : Prop := ∃ c, t = s.setCore k c

theorem coreOnly_refl (s : State) (k : Nat) : s.CoreOnly s k := ⟨s.core k, (modCore_self (f := id) rfl).symm⟩

theorem coreOnly_modCore (s : State) (k : Nat) (f : Core → Core) : s.CoreOnly (s.modCore k f) k := ⟨_, rfl⟩

theorem coreOnly_trans {s t u : State} {k : Nat} (h : s.CoreOnly t k) (h' : t.CoreOnly u k) : s.CoreOnly u k := by
  obtain ⟨c, rfl⟩ := h
  obtain ⟨d, rfl⟩ := h'
  exact ⟨d, by simp only [State.setCore, List.set_set]⟩

theorem coreOnly_ite {s t : State} {k : Nat} {p : Prop} [Decidable p] (h : s.CoreOnly t k) : s.CoreOnly (if p then t else s) k := by
  split_ifs
  · exact h
  · exact coreOnly_refl s k

section
variable (s : State) (k p : Nat)

theorem coreOnly_copyfFollowOn : s.CoreOnly (s.copyfFollowOn k p) k := by
  unfold State.copyfFollowOn
  dsimp only
  split
  · exact coreOnly_ite (coreOnly_modCore s k _)
  · exact coreOnly_refl s k

theorem coreOnly_mqSourcesReleased : s.CoreOnly (s.mqSourcesReleased k p) k := by
  unfold State.mqSourcesReleased
  split
  · exact coreOnly_ite (coreOnly_trans (coreOnly_modCore s k _) (coreOnly_modCore _ k _))
  · exact coreOnly_refl s k

end

/-- An event of a core leaves the rest of the state. -/
theorem coreOnly_frame {s t : State} {k : Nat} (h : s.CoreOnly t k) : (∀ j, j ≠ k → t.core j = s.core j) ∧ t.clusters = s.clusters ∧
    t.mem = s.mem ∧ t.sched = s.sched ∧ t.dev = s.dev ∧ t.fw = s.fw ∧ t.out = s.out ∧ t.phase = s.phase := by
  obtain ⟨c, rfl⟩ := h
  exact ⟨fun j hj => core_setCore_ne hj c, rfl, rfl, rfl, rfl, rfl, rfl, rfl⟩

/-! ### Traps of a core -/

/-- The other cores, the clusters, memory and the scheduler are left; the firmware core's traps go to its own registers. -/
structure State.AtCore (s t : State) (k : Nat) : Prop where
  cores : ∀ j, j ≠ k → t.core j = s.core j
  clusters : t.clusters = s.clusters
  mem : t.mem = s.mem
  sched : t.sched = s.sched
  out : t.out = s.out

theorem atCore_refl (s : State) (k : Nat) : s.AtCore s k := ⟨fun _ _ => rfl, rfl, rfl, rfl, rfl⟩

theorem atCore_trans {s t u : State} {k : Nat} (h : s.AtCore t k) (h' : t.AtCore u k) : s.AtCore u k :=
  ⟨fun j hj => (h'.cores j hj).trans (h.cores j hj), h'.clusters.trans h.clusters, h'.mem.trans h.mem, h'.sched.trans h.sched, h'.out.trans h.out⟩

theorem atCore_modCore (s : State) (k : Nat) (f : Core → Core) : s.AtCore (s.modCore k f) k := ⟨fun _ hj => core_modCore_ne hj f, rfl, rfl, rfl, rfl⟩

theorem atCore_puts {s t : State} {k : Nat} (h : s.AtCore t k) {d : Device} {f : Firmware} {ps : List Probe} {n : Nat} :
    s.AtCore { t with dev := d, fw := f, probes := ps, probeId := n } k := ⟨h.cores, h.clusters, h.mem, h.sched, h.out⟩

theorem atCore_fwTrap (s : State) (p : Nat) (cause : BitVec 8) (i1 i2 : Word) (pc : Pc) : s.AtCore (s.fwTrap p cause i1 i2 pc) 0 := by
  have two (f g : Core → Core) : s.AtCore ((s.modCore 0 f).modCore 0 g) 0 := atCore_trans (atCore_modCore s 0 f) (atCore_modCore _ 0 g)
  unfold State.fwTrap
  dsimp only
  split_ifs <;> exact atCore_puts (two _ _)

theorem atCore_takeTrap (s : State) (k p : Nat) (cause : BitVec 8) (i1 i2 : Word) (pc : Pc) : s.AtCore (s.takeTrap k p cause i1 i2 pc) k := by
  unfold State.takeTrap
  split_ifs with h
  · rw [beq_iff_eq.1 h]
    exact atCore_fwTrap s p cause i1 i2 pc
  · exact atCore_modCore s k _

theorem atCore_foldl {α : Type} {k : Nat} {f : State → α → State} (h : ∀ (s : State) x, s.AtCore (f s x) k) (l : List α) (s : State) : s.AtCore (l.foldl f s) k := by
  induction l generalizing s with
  | nil => exact atCore_refl s k
  | cons x xs ih => exact atCore_trans (h s x) (ih (f s x))

theorem atCore_lockGroupForms (s : State) (k : Nat) : s.AtCore (s.lockGroupForms k) k := by
  unfold State.lockGroupForms
  dsimp only
  split_ifs
  · exact atCore_refl s k
  · exact atCore_trans (atCore_modCore s k _) (atCore_foldl (fun s p => atCore_takeTrap s k p _ _ _ _) _ _)
  · exact atCore_modCore s k _

theorem atCore_probeTokenSend (s : State) (k p : Nat) : s.AtCore (s.probeTokenSend (.partition k p)) k := by
  unfold State.probeTokenSend
  split_ifs
  · exact atCore_puts (atCore_modCore s k fun c => c.modPrt p fun q => { q with probed := true })
  · exact atCore_refl s k

/-! ### Registers of the scheduler and of the device -/

/-- Cores, memory, firmware's registers, streams, instances and the phase are left. -/
structure State.RegistersOf (s t : State) : Prop where
  cores : t.cores = s.cores
  mem : t.mem = s.mem
  fw : t.fw = s.fw
  streams : t.sched.streams = s.sched.streams
  graphs : t.sched.graphs = s.sched.graphs
  phase : t.phase = s.phase

theorem registersOf_refl (s : State) : s.RegistersOf s := ⟨rfl, rfl, rfl, rfl, rfl, rfl⟩

theorem registersOf_trans {s t u : State} (h : s.RegistersOf t) (h' : t.RegistersOf u) : s.RegistersOf u :=
  ⟨h'.cores.trans h.cores, h'.mem.trans h.mem, h'.fw.trans h.fw, h'.streams.trans h.streams, h'.graphs.trans h.graphs, h'.phase.trans h.phase⟩

theorem registersOf_ite {s t u : State} {p : Prop} [Decidable p] (h : s.RegistersOf t) (h' : s.RegistersOf u) : s.RegistersOf (if p then t else u) := by
  split_ifs
  · exact h
  · exact h'

section
variable (s : State)

theorem registersOf_modDev (f : Device → Device) : s.RegistersOf (s.modDev f) := ⟨rfl, rfl, rfl, rfl, rfl, rfl⟩
theorem registersOf_modCluster (c : Nat) (f : Cluster → Cluster) : s.RegistersOf (s.modCluster c f) := ⟨rfl, rfl, rfl, rfl, rfl, rfl⟩
theorem registersOf_modVector (v : Nat) (f : MsixVec → MsixVec) : s.RegistersOf (s.modVector v f) := ⟨rfl, rfl, rfl, rfl, rfl, rfl⟩
theorem registersOf_modEntry (n i : Nat) (f : MsixEntry → MsixEntry) : s.RegistersOf (s.modEntry n i f) := ⟨rfl, rfl, rfl, rfl, rfl, rfl⟩
theorem registersOf_out (o : List OutMsg) : s.RegistersOf { s with out := o } := ⟨rfl, rfl, rfl, rfl, rfl, rfl⟩
theorem registersOf_logFailure (r code sub : Nat) (st : Option Nat) (tag job : BitVec 32) : s.RegistersOf (s.logFailure r code sub st tag job) :=
  ⟨rfl, rfl, rfl, rfl, rfl, rfl⟩

theorem registersOf_sendEntry (n i : Nat) : s.RegistersOf (s.sendEntry n i) :=
  registersOf_ite (registersOf_refl s) (registersOf_ite (registersOf_modEntry s n i _) (registersOf_ite (registersOf_refl s) (registersOf_out s _)))

theorem registersOf_sendMsix (v : Nat) : s.RegistersOf (s.sendMsix v) :=
  registersOf_trans (registersOf_modVector s v _) (registersOf_sendEntry _ _ _)

theorem registersOf_msixTimeout (v : Nat) : s.RegistersOf (s.msixTimeout v) := registersOf_ite (registersOf_sendMsix s v) (registersOf_refl s)

theorem registersOf_msixCoalesce (v : Nat) (x : Word) : s.RegistersOf (s.msixCoalesce v x) :=
  registersOf_trans (registersOf_modVector s v _) (registersOf_ite (registersOf_sendMsix _ v) (registersOf_refl _))

theorem registersOf_msixUnmask (v : Nat) : s.RegistersOf (s.msixUnmask v) := by
  have en : s.RegistersOf { s with sched := { s.sched with msixEn := s.sched.msixEn.set (s.msixEntry v).1 true } } := ⟨rfl, rfl, rfl, rfl, rfl, rfl⟩
  refine registersOf_trans en ?_
  exact registersOf_trans (registersOf_modEntry _ _ _ _) (registersOf_ite (registersOf_sendEntry _ _ _) (registersOf_refl _))

theorem registersOf_budgetRefill : s.RegistersOf s.budgetRefill := registersOf_ite ⟨rfl, rfl, rfl, rfl, rfl, rfl⟩ (registersOf_refl s)

theorem registersOf_cpreqWrite (c : Nat) (x : Word) : s.RegistersOf (s.cpreqWrite c x) :=
  registersOf_ite (registersOf_refl s) (registersOf_trans (registersOf_modCluster s c _) (registersOf_modDev _ _))

theorem registersOf_serveCluster (c : Nat) (x : Word) : s.RegistersOf (s.serveCluster c x) :=
  registersOf_ite (registersOf_modCluster s c _) (registersOf_ite (registersOf_modCluster s c _)
    (registersOf_trans (registersOf_modCluster s c _) (registersOf_modDev _ _)))

theorem registersOf_serveVmin (x : Word) : s.RegistersOf (s.serveVmin x) :=
  registersOf_ite (registersOf_modDev s _) (registersOf_ite (registersOf_modDev s _) (registersOf_modDev s _))

theorem registersOf_powerDone : s.RegistersOf s.powerDone := by
  unfold State.powerDone
  split
  · exact registersOf_refl s
  · exact registersOf_trans (registersOf_trans (registersOf_modDev s _) (registersOf_serveCluster _ _ _)) (registersOf_modCluster _ _ _)
  · exact registersOf_trans (registersOf_trans (registersOf_modDev s _) (registersOf_serveVmin _ _)) (registersOf_modDev _ _)

theorem registersOf_sratioSample : s.RegistersOf s.sratioSample := registersOf_ite ⟨rfl, rfl, rfl, rfl, rfl, rfl⟩ (registersOf_refl s)

theorem registersOf_holdCluster (c : Nat) : s.RegistersOf (s.holdCluster c) :=
  registersOf_ite (registersOf_trans (registersOf_modCluster s c _) (registersOf_modDev _ _)) (registersOf_refl s)

theorem registersOf_sensorRead (c i : Nat) (raw : BitVec 16) : s.RegistersOf (s.sensorRead c i raw) := by
  unfold State.sensorRead
  split
  · exact registersOf_refl s
  · refine registersOf_trans (registersOf_modCluster s c _) (registersOf_ite ?_ (registersOf_refl _))
    exact registersOf_trans (registersOf_modDev _ _) (registersOf_holdCluster _ _)

theorem registersOf_laneFault (p : Nat) (w : BitVec 3) : s.RegistersOf (s.laneFault p w) :=
  registersOf_ite (registersOf_refl s)
    (registersOf_trans (registersOf_trans (registersOf_modDev s _) (registersOf_modDev _ _)) (registersOf_logFailure _ _ _ _ _ _ _))

theorem registersOf_l0p (p : Nat) (w : BitVec 3) : s.RegistersOf (s.l0p p w) := registersOf_ite (registersOf_refl s) (registersOf_modDev s _)

theorem registersOf_getMeasurements (path : MeasPath) (n : Nat) : s.RegistersOf (s.getMeasurements path n) := by
  unfold State.getMeasurements
  dsimp only
  have answer : s.RegistersOf (match (if n = 0 then none else s.dev.meas[n - 1]?) with
      | some d => { s with out := .measurement path n d (Config.spdmSignature d) :: s.out } | none => s) := by
    cases (if n = 0 then none else s.dev.meas[n - 1]?) with
    | none => exact registersOf_refl s
    | some d => exact registersOf_out s _
  refine registersOf_ite (registersOf_refl s) ?_
  cases path with
  | spdm p => exact registersOf_ite answer (registersOf_out s _)
  | smbus => exact answer

theorem registersOf_doeRequest (p : Nat) (q : DoeReq) : s.RegistersOf (s.doeRequest p q) := registersOf_ite (registersOf_out s _) (registersOf_refl s)

end

/-! ### Homes, links and records -/

/-- What a byte is read from: every place but the registers of homes and links. -/
theorem get_of_cells {m n : Memory} (h : n.gddr = m.gddr ∧ n.own0 = m.own0 ∧ n.own1 = m.own1 ∧ n.own2 = m.own2 ∧ n.own3 = m.own3 ∧ n.lines = m.lines)
    (z : Place) (k : Nat) : n.get z k = m.get z k := by
  obtain ⟨h, h0, h1, h2, h3, hl⟩ := h
  unfold Memory.get
  rw [h, h0, h1, h2, h3, hl]

theorem get_modHome (m : Memory) (h : Nat) (f : Home → Home) (z : Place) (k : Nat) : (m.modHome h f).get z k = m.get z k :=
  get_of_cells ⟨rfl, rfl, rfl, rfl, rfl, rfl⟩ z k

/-- Cores, clusters and the scheduler are left, and every byte of memory. -/
structure State.LinkOf (s t : State) : Prop where
  cores : t.cores = s.cores
  clusters : t.clusters = s.clusters
  sched : t.sched = s.sched
  bytes : ∀ z : Place, t.mem.get z 1 = s.mem.get z 1

theorem linkOf_refl (s : State) : s.LinkOf s := ⟨rfl, rfl, rfl, fun _ => rfl⟩

theorem linkOf_trans {s t u : State} (h : s.LinkOf t) (h' : t.LinkOf u) : s.LinkOf u :=
  ⟨h'.cores.trans h.cores, h'.clusters.trans h.clusters, h'.sched.trans h.sched, fun z => (h'.bytes z).trans (h.bytes z)⟩

theorem linkOf_ite {s t u : State} {p : Prop} [Decidable p] (h : s.LinkOf t) (h' : s.LinkOf u) : s.LinkOf (if p then t else u) := by
  split_ifs
  · exact h
  · exact h'

section
variable (s : State)

theorem linkOf_modDev (f : Device → Device) : s.LinkOf (s.modDev f) := ⟨rfl, rfl, rfl, fun _ => rfl⟩

theorem linkOf_logFailure (r code sub : Nat) (st : Option Nat) (tag job : BitVec 32) : s.LinkOf (s.logFailure r code sub st tag job) :=
  ⟨rfl, rfl, rfl, fun _ => rfl⟩

theorem linkOf_down (d : BitVec 4) : s.LinkOf { s with mem := { s.mem with down := d } } :=
  ⟨rfl, rfl, rfl, fun z => get_of_cells ⟨rfl, rfl, rfl, rfl, rfl, rfl⟩ z 1⟩

theorem linkOf_setInsecure (p n : Nat) (b : Bool) : s.LinkOf (s.setInsecure p n b) :=
  ⟨rfl, rfl, rfl, fun z => get_of_cells ⟨rfl, rfl, rfl, rfl, rfl, rfl⟩ z 1⟩

theorem linkOf_homeInvalidate (h : Nat) (pg : Option (BitVec 36)) : s.LinkOf (s.homeInvalidate h pg) :=
  ⟨rfl, rfl, rfl, fun z => get_modHome _ _ _ z 1⟩

theorem linkOf_linkDown (p : Nat) : s.LinkOf (s.linkDown p) := by
  refine linkOf_ite (linkOf_refl s) ?_
  exact linkOf_trans (linkOf_trans (linkOf_trans (linkOf_modDev s _) (linkOf_modDev _ _)) (linkOf_down _ _)) (linkOf_logFailure _ _ _ _ _ _ _)

theorem linkOf_portReset (p : Nat) : s.LinkOf (s.portReset p) :=
  linkOf_ite (linkOf_trans (linkOf_modDev s _) (linkOf_down _ _)) (linkOf_refl s)

theorem linkOf_ideFail (p n : Nat) : s.LinkOf (s.ideFail p n) := linkOf_trans (linkOf_modDev s _) (linkOf_setInsecure _ _ _ _)

theorem linkOf_ideKm (p n : Nat) (b : Bool) : s.LinkOf (s.ideKm p n b) := linkOf_ite (linkOf_setInsecure s _ _ _) (linkOf_refl s)

/-- A write of a home's register changes memory alone, and no byte of it unless it flushes a page. -/
theorem homeRegisterWrite_mem (h : Nat) (w : HomeRegWrite) : ∃ m, s.homeRegisterWrite h w = { s with mem := m } ∧
    ((∀ f, w ≠ .llcFlush f) → ∀ z : Place, m.get z 1 = s.mem.get z 1) := by
  cases w with
  | llcFlush pg =>
    change ∃ m, ((s.mem.flushPage h pg).map fun m => { s with mem := m }).getD s = _ ∧ _
    cases s.mem.flushPage h pg with
    | none => exact ⟨s.mem, rfl, fun hn => absurd rfl (hn pg)⟩
    | some m => exact ⟨m, rfl, fun hn => absurd rfl (hn pg)⟩
  | range i dw x => exact ⟨_, rfl, fun _ z => get_modHome _ _ _ z 1⟩
  | hptbase x => exact ⟨_, rfl, fun _ z => get_modHome _ _ _ z 1⟩
  | cairnbase x => exact ⟨_, rfl, fun _ z => get_modHome _ _ _ z 1⟩

end

/-- The scheduler but for the jobs that firmware is to end, firmware's registers and what has left the part are as they were,
and every byte of memory. -/
structure State.QuietOf (s t : State) : Prop where
  sched : t.sched = { s.sched with ending := t.sched.ending }
  fw : t.fw = s.fw
  out : t.out = s.out
  bytes : ∀ z : Place, t.mem.get z 1 = s.mem.get z 1

theorem quietOf_refl (s : State) : s.QuietOf s := ⟨rfl, rfl, rfl, fun _ => rfl⟩

theorem quietOf_trans {s t u : State} (h : s.QuietOf t) (h' : t.QuietOf u) : s.QuietOf u :=
  ⟨h'.sched.trans (by rw [h.sched]), h'.fw.trans h.fw, h'.out.trans h.out, fun z => (h'.bytes z).trans (h.bytes z)⟩

theorem quietOf_ite {s t u : State} {p : Prop} [Decidable p] (h : s.QuietOf t) (h' : s.QuietOf u) : s.QuietOf (if p then t else u) := by
  split_ifs
  · exact h
  · exact h'

theorem quietOf_foldl {α : Type} {f : State → α → State} (h : ∀ (s : State) x, s.QuietOf (f s x)) (l : List α) (s : State) : s.QuietOf (l.foldl f s) := by
  induction l generalizing s with
  | nil => exact quietOf_refl s
  | cons x xs ih => exact quietOf_trans (h s x) (ih (f s x))

section
variable (s : State)

theorem quietOf_logJob (d : List Word) (inst code sub : Nat) : s.QuietOf (s.logJob d inst code sub) := ⟨rfl, rfl, rfl, fun _ => rfl⟩

theorem quietOf_logDeadlock (x : Party) (sub : Nat) : s.QuietOf (s.logDeadlock x sub) := by
  unfold State.logDeadlock
  split
  · split
    · exact ⟨rfl, rfl, rfl, fun _ => rfl⟩
    · exact ⟨rfl, rfl, rfl, fun _ => rfl⟩
  · split
    · exact ⟨rfl, rfl, rfl, fun _ => rfl⟩
    · exact ⟨rfl, rfl, rfl, fun _ => rfl⟩

theorem quietOf_unresolved (x : Party) (full : Option Nat) : s.QuietOf (s.unresolved x full) :=
  quietOf_trans (quietOf_logDeadlock s x 1) ⟨rfl, rfl, rfl, fun _ => rfl⟩

theorem quietOf_modCluster (c : Nat) (f : Cluster → Cluster) : s.QuietOf (s.modCluster c f) := ⟨rfl, rfl, rfl, fun _ => rfl⟩

theorem quietOf_confirm (x : Probe) (full : Option Nat) : s.QuietOf (s.confirm x full) := by
  cases full with
  | none => exact quietOf_unresolved s _ _
  | some i =>
    exact quietOf_ite (quietOf_refl s) (quietOf_ite (quietOf_unresolved s _ _) (quietOf_trans (quietOf_modCluster s _ _) (quietOf_logDeadlock _ _ _)))

theorem quietOf_probeTokenReturn (n : Nat) : s.QuietOf (s.probeTokenReturn n) := by
  unfold State.probeTokenReturn
  split
  · exact quietOf_refl s
  · exact quietOf_trans (t := { s with probes := s.probes.filter fun x => x.id != n }) ⟨rfl, rfl, rfl, fun _ => rfl⟩
      (quietOf_foldl (fun s f => quietOf_confirm s _ f) _ _)

end

/-- The scheduler, firmware's registers and what has left the part are as they were, and every byte of memory. -/
structure State.RecordOf (s t : State) : Prop where
  sched : t.sched = s.sched
  fw : t.fw = s.fw
  out : t.out = s.out
  bytes : ∀ z : Place, t.mem.get z 1 = s.mem.get z 1

theorem recordOf_refl (s : State) : s.RecordOf s := ⟨rfl, rfl, rfl, fun _ => rfl⟩

section
variable (s : State)

theorem recordOf_memRecordPosted (n : Nat) : s.RecordOf (s.memRecordPosted n) := by
  unfold State.memRecordPosted
  split_ifs
  · exact recordOf_refl s
  · split
    · exact ⟨rfl, rfl, rfl, fun z => get_modHome _ _ _ z 1⟩
    · exact recordOf_refl s
  · split
    · exact ⟨rfl, rfl, rfl, fun _ => rfl⟩
    · exact recordOf_refl s

theorem recordOf_trapRecordPosted (k : Nat) : s.RecordOf (s.trapRecordPosted k) := by
  unfold State.trapRecordPosted
  split
  · split_ifs
    · exact ⟨rfl, rfl, rfl, fun _ => rfl⟩
    · exact recordOf_refl s
  · exact recordOf_refl s

theorem recordOf_preemptRequest (k : Nat) : s.RecordOf (s.preemptRequest k) := by
  obtain ⟨cs, h⟩ := preemptRequest_cores s k
  rw [h]
  exact ⟨rfl, rfl, rfl, fun _ => rfl⟩

theorem recordOf_queueEntryVisible (c p : Nat) : s.RecordOf (s.queueEntryVisible c p) := by
  unfold State.queueEntryVisible
  split
  · split_ifs
    · exact ⟨rfl, rfl, rfl, fun _ => rfl⟩
    · exact recordOf_refl s
  · exact recordOf_refl s

theorem recordOf_probeTokenSend (y : Party) : s.RecordOf (s.probeTokenSend y) := by
  unfold State.probeTokenSend
  split_ifs
  · cases y <;> exact ⟨rfl, rfl, rfl, fun _ => rfl⟩
  · exact recordOf_refl s

end

/-! ### The obligation -/

/-- What every event of a list leaves. -/
theorem events_of {s t : State} {R : State → Prop} {l : List Instr} (h : ∀ i ∈ l, ∃ u, exec i s = .next u ∧ R u) :
    ∀ i ∈ l, exec i s = .next t → R t := by
  intro i hi ht
  obtain ⟨u, hu, hr⟩ := h i hi
  exact (Host.Outcome.next.inj (hu.symm.trans ht)) ▸ hr

/-- Settles O52: each list of events by the relation that all of its events keep. -/
theorem eventFrame : Obligations.EventFrame := by
  unfold Obligations.EventFrame
  intro s t k p n m x tail w raw b q pa hw pg y ev
  refine ⟨?core, ?traps, ?registers, ?links, ?homes, ?records, ?token⟩
  case core =>
    intro i hi ht
    refine coreOnly_frame (events_of (R := fun u => s.CoreOnly u k) ?_ i hi ht)
    simp only [List.forall_mem_cons, List.not_mem_nil, false_imp_iff, implies_true, and_true]
    exact ⟨⟨_, rfl, coreOnly_modCore s k _⟩, ⟨_, rfl, coreOnly_modCore s k _⟩, ⟨_, rfl, coreOnly_modCore s k _⟩,
      ⟨_, rfl, transferDelayEnds_eq s k p ▸ coreOnly_modCore s k _⟩, ⟨_, rfl, coreOnly_modCore s k _⟩, ⟨_, rfl, coreOnly_ite (coreOnly_modCore s k _)⟩,
      ⟨_, rfl, coreOnly_ite (coreOnly_modCore s k _)⟩, ⟨_, rfl, coreOnly_ite (coreOnly_modCore s k _)⟩,
      ⟨_, rfl, coreOnly_copyfFollowOn s k n⟩, ⟨_, rfl, coreOnly_mqSourcesReleased s k n⟩⟩
  case traps =>
    intro i hi ht
    have h : s.AtCore t k := by
      refine events_of (R := fun u => s.AtCore u k) ?_ i hi ht
      simp only [List.forall_mem_cons, List.not_mem_nil, false_imp_iff, implies_true, and_true]
      exact ⟨⟨_, rfl, atCore_lockGroupForms s k⟩, ⟨_, rfl, atCore_probeTokenSend s k p⟩⟩
    exact ⟨h.cores, h.clusters, h.mem, h.sched, h.out⟩
  case registers =>
    intro i hi ht
    have h : s.RegistersOf t := by
      refine events_of (R := s.RegistersOf) ?_ i hi ht
      simp only [List.forall_mem_cons, List.not_mem_nil, false_imp_iff, implies_true, and_true]
      exact ⟨⟨_, rfl, ⟨rfl, rfl, rfl, rfl, rfl, rfl⟩⟩, ⟨_, rfl, ⟨rfl, rfl, rfl, rfl, rfl, rfl⟩⟩, ⟨_, rfl, registersOf_budgetRefill s⟩,
        ⟨_, rfl, registersOf_msixTimeout s n⟩, ⟨_, rfl, registersOf_msixCoalesce s n x⟩, ⟨_, rfl, registersOf_msixUnmask s n⟩,
        ⟨_, rfl, ⟨rfl, rfl, rfl, rfl, rfl, rfl⟩⟩, ⟨_, rfl, registersOf_cpreqWrite s n x⟩, ⟨_, rfl, ⟨rfl, rfl, rfl, rfl, rfl, rfl⟩⟩,
        ⟨_, rfl, registersOf_powerDone s⟩, ⟨_, rfl, registersOf_sratioSample s⟩, ⟨_, rfl, registersOf_sensorRead s n m raw⟩,
        ⟨_, rfl, registersOf_modDev s _⟩, ⟨_, rfl, ⟨rfl, rfl, rfl, rfl, rfl, rfl⟩⟩, ⟨_, rfl, registersOf_laneFault s n w⟩,
        ⟨_, rfl, registersOf_l0p s n w⟩, ⟨_, rfl, registersOf_getMeasurements s pa n⟩, ⟨_, rfl, registersOf_doeRequest s n q⟩⟩
    exact ⟨h.cores, h.mem, h.fw, h.streams, h.graphs, h.phase⟩
  case links =>
    intro i hi ht
    have h : s.LinkOf t := by
      refine events_of (R := s.LinkOf) ?_ i hi ht
      simp only [List.forall_mem_cons, List.not_mem_nil, false_imp_iff, implies_true, and_true]
      exact ⟨⟨_, rfl, linkOf_homeInvalidate s n pg⟩, ⟨_, rfl, linkOf_linkDown s n⟩, ⟨_, rfl, linkOf_portReset s n⟩,
        ⟨_, rfl, linkOf_ideFail s n m⟩, ⟨_, rfl, linkOf_ideKm s n m b⟩⟩
    exact ⟨h.cores, h.clusters, h.sched, h.bytes⟩
  case homes =>
    intro i hi ht
    obtain rfl := List.mem_singleton.1 hi
    obtain ⟨mem, he, hb⟩ := homeRegisterWrite_mem s n hw
    obtain rfl : { s with mem := mem } = t := he.symm.trans (Host.Outcome.next.inj ht)
    exact ⟨rfl, rfl, rfl, rfl, rfl, hb⟩
  case records =>
    intro i hi ht
    have h : s.RecordOf t := by
      refine events_of (R := s.RecordOf) ?_ i hi ht
      simp only [List.forall_mem_cons, List.not_mem_nil, false_imp_iff, implies_true, and_true]
      exact ⟨⟨_, rfl, recordOf_memRecordPosted s n⟩, ⟨_, rfl, recordOf_trapRecordPosted s k⟩, ⟨_, rfl, recordOf_preemptRequest s k⟩,
        ⟨_, rfl, recordOf_queueEntryVisible s n m⟩, ⟨_, rfl, recordOf_probeTokenSend s y⟩⟩
    exact ⟨h.sched, h.fw, h.out, h.bytes⟩
  case token =>
    intro i hi ht
    obtain rfl := List.mem_singleton.1 hi
    obtain rfl : s.probeTokenReturn n = t := Host.Outcome.next.inj ht
    obtain ⟨hs, hf, ho, hb⟩ := quietOf_probeTokenReturn s n
    exact ⟨hs, hf, ho, hb⟩

end Sys2Proof.Machine
end

section
/-! The end of a job and the save (R33, R48, R49, R276, R289): how a core is left, how its node counts a member less, and what
JOB_END and RUCKSACK_WRITE then are. -/

namespace Sys2Proof.Machine

/-! ### A core is left -/

/-- A core with no job, no partition and no exchange. -/
def Core.vacant (c : Core) : Prop := c.job = none ∧ (∀ p, c.prt p = .empty) ∧ c.locked = 0 ∧ c.xfly = []

theorem vacant_free (c : Core) : c.free.vacant :=
  ⟨rfl, fun p => by
    change (List.replicate 12 Partition.empty).getD p .empty = .empty
    rw [List.getD_eq_getElem?_getD, List.getElem?_replicate]
    split_ifs <;> rfl, rfl, rfl⟩

theorem modRegions_eq {α : Type} (l : List α) (f : State → α → State) (hf : ∀ t x, ∃ rs, f t x = { t with sched := { t.sched with regions := rs } })
    (s : State) : ∃ rs, l.foldl f s = { s with sched := { s.sched with regions := rs } } := by
  induction l generalizing s with
  | nil => exact ⟨s.sched.regions, rfl⟩
  | cons x xs ih =>
    obtain ⟨rs, hx⟩ := hf s x
    obtain ⟨rs', h⟩ := ih (f s x)
    exact ⟨rs', by rw [List.foldl_cons, h, hx]⟩

/-- One count of a home is charged to the region of its job. -/
def State.chargeOne (s : State) (x : BitVec 32 × Nat) : State :=
  match s.jobRegion x.1 with
  | some r => s.modRegion r fun y => y.chargeBytes x.2
  | none => s

/-- Charging regions with what the homes have counted changes their balances and the count alone. -/
theorem chargeTraffic_eq (s : State) : ∃ rs, s.chargeTraffic =
    { s with sched := { s.sched with regions := rs }, mem := { s.mem with traffic := [] } } := by
  obtain ⟨rs, h⟩ := modRegions_eq s.mem.traffic State.chargeOne
    (fun t x => by
      rw [State.chargeOne]
      cases t.jobRegion x.1 with
      | some r => exact ⟨_, rfl⟩
      | none => exact ⟨t.sched.regions, rfl⟩) s
  have e : s.chargeTraffic = { s.mem.traffic.foldl State.chargeOne s with
      mem := { (s.mem.traffic.foldl State.chargeOne s).mem with traffic := [] } } := rfl
  exact ⟨rs, by rw [e, h]⟩

theorem leaveCore_eq (s : State) (k inst : Nat) : ∃ rs, s.leaveCore k inst =
    (({ s.noteForwards inst (s.core k).forwarded with
        sched := { (s.noteForwards inst (s.core k).forwarded).sched with regions := rs }, mem := { s.mem with traffic := [] } } : State).modCore k
      Core.free) := by
  obtain ⟨rs, h⟩ := chargeTraffic_eq (s.noteForwards inst (s.core k).forwarded)
  exact ⟨rs, by rw [State.leaveCore, h]; rfl⟩

/-- What the leaving of a core keeps of the machine. -/
theorem leaveCore_keeps (s : State) (k inst : Nat) : (s.leaveCore k inst).out = s.out ∧ (s.leaveCore k inst).dev = s.dev ∧
    (s.leaveCore k inst).fclk = s.fclk ∧ (s.leaveCore k inst).mem.gddr = s.mem.gddr := by
  obtain ⟨rs, h⟩ := leaveCore_eq s k inst
  rw [h]
  exact ⟨rfl, rfl, rfl, rfl⟩

theorem core_leaveCore {s : State} {k : Nat} (hk : k < s.cores.length) (inst : Nat) : (s.leaveCore k inst).core k = (s.core k).free := by
  obtain ⟨rs, h⟩ := leaveCore_eq s k inst
  rw [h]
  exact core_modCore_same hk Core.free

theorem graph?_modGraph {s : State} {id : Nat} {g : GraphInst} (h : s.graph? id = some g) {f : GraphInst → GraphInst}
    (hf : ∀ x, (f x).id = x.id) : (s.modGraph id f).graph? id = some (f g) := by
  have hp : ((fun x : GraphInst => x.id == id) ∘ fun x => if x.id = id then f x else x) = fun x => x.id == id := by
    funext x
    simp only [Function.comp_apply]
    split_ifs
    · rw [hf]
    · rfl
  rw [State.graph?, State.modGraph, List.find?_map, hp]
  rw [State.graph?] at h
  rw [h, Option.map_some, if_pos (graph?_id (s := s) h)]

/-- The task graph remembers what the job has forwarded, and keeps its nodes. -/
theorem graph?_leaveCore {s : State} {inst : Nat} {g : GraphInst} (k : Nat) (h : s.graph? inst = some g) :
    (s.leaveCore k inst).graph? inst = some { g with fwd := g.fwd ||| (s.core k).forwarded } := by
  obtain ⟨rs, e⟩ := leaveCore_eq s k inst
  rw [e]
  exact graph?_modGraph (s := s) h (f := fun g => { g with fwd := g.fwd ||| (s.core k).forwarded }) fun _ => rfl

/-! ### A node and its members -/

/-- Node n of task graph i is as P says. -/
def State.nodeIs (s : State) (i n : Nat) (P : NodeInst → Prop) : Prop := ∃ h x, s.graph? i = some h ∧ h.nodes[n]? = some x ∧ P x

theorem nodeIs_modNode {s : State} {i n : Nat} {g : GraphInst} {x : NodeInst} (hg : s.graph? i = some g) (hx : g.nodes[n]? = some x)
    {f : NodeInst → NodeInst} {P : NodeInst → Prop} (hp : P (f x)) : (s.modNode i n f).nodeIs i n P := by
  obtain rfl := graph?_id hg
  obtain ⟨h, hh, hy⟩ := node_modNode hg hx f
  exact ⟨h, f x, hh, hy, hp⟩

/-- A member is counted out. -/
def NodeInst.lessOne (n : NodeInst) : NodeInst := { n with live := n.live - 1 }

/-- While members are live, one that ends is only counted. -/
theorem memberEnded_more {s : State} {i n : Nat} {g : GraphInst} {x : NodeInst} (hg : s.graph? i = some g) (hx : g.nodes[n]? = some x)
    (hl : 2 ≤ x.live) : s.memberEnded i n = some (s.modNode i n NodeInst.lessOne) := by
  obtain rfl := graph?_id hg
  obtain ⟨h, hh, hy⟩ := node_modNode hg hx NodeInst.lessOne
  change (s.modNode g.id n NodeInst.lessOne).membersLeft g.id n = _
  have hne : x.lessOne.live ≠ 0 := by
    change x.live - 1 ≠ 0
    omega
  simp only [State.membersLeft, hh, Option.bind_some, hy]
  exact if_pos hne

/-- A node with a further one that is not over leaves its task graph running. -/
theorem nodeDone_eq {s : State} {i n : Nat} {g : GraphInst} {x : NodeInst} (hg : s.graph? i = some g) (hx : g.nodes[n]? = some x)
    (hf : x.isFin = false) (hs : x.isStepEnd = false) (ho : ∃ y ∈ (g.complete n s.now).nodes, y.over = false) :
    s.nodeDone i n = some (s.modGraph i fun g => g.complete n s.now) := by
  have hgr : (s.modGraph i fun g => g.complete n s.now).graph? i = some (g.complete n s.now) := graph?_modGraph hg fun _ => rfl
  have hall : ¬(g.complete n s.now).nodes.all NodeInst.over = true := fun h => by
    obtain ⟨y, hy, ho⟩ := ho
    exact Bool.false_ne_true (ho.symm.trans (List.all_eq_true.1 h y hy))
  have hc : (s.modGraph i fun g => g.complete n s.now).graphCheck i = some (s.modGraph i fun g => g.complete n s.now) := by
    rw [State.graphCheck, hgr]
    exact if_neg hall
  simp only [State.nodeDone, hg, hx, hf, hs, Bool.false_eq_true, if_false, Bool.false_and, hc]

/-- The last member of a node that keeps no saved one completes it. -/
theorem memberEnded_last {s : State} {i n : Nat} {g : GraphInst} {x : NodeInst} (hg : s.graph? i = some g) (hx : g.nodes[n]? = some x)
    (hl : x.live = 1) (hs : x.saved = []) : s.memberEnded i n = (s.modNode i n NodeInst.lessOne).nodeDone i n := by
  obtain rfl := graph?_id hg
  obtain ⟨h, hh, hy⟩ := node_modNode hg hx NodeInst.lessOne
  change (s.modNode g.id n NodeInst.lessOne).membersLeft g.id n = _
  have h0 : ¬x.lessOne.live ≠ 0 := by
    change ¬x.live - 1 ≠ 0
    omega
  simp only [State.membersLeft, hh, Option.bind_some, hy, if_neg h0]
  exact if_pos hs

/-- What the completion of node i makes of node j. -/
def NodeInst.afterDone (i j : Nat) (n x : NodeInst) (now : Word) : NodeInst :=
  let x : NodeInst := if j = i then { x with phase := .done } else x
  let x : NodeInst := if x.old = n.old then { x with preds := x.preds - n.succ.count j } else x
  NodeInst.settle { x with waits := x.waits.filter fun w => w != i } now

theorem nodes_complete {g : GraphInst} {i j : Nat} {n x : NodeInst} (now : Word) (hn : g.nodes[i]? = some n) (hx : g.nodes[j]? = some x) :
    (g.complete i now).nodes[j]? = some (NodeInst.afterDone i j n x now) := by
  simp only [GraphInst.complete, hn, List.getElem?_mapIdx, hx, Option.map_some]
  rfl

theorem settle_phase (n : NodeInst) (now : Word) : (n.settle now).phase = n.phase ∨ n.phase = .waiting ∧ (n.settle now).phase = .ready := by
  rw [NodeInst.settle]
  split_ifs with h
  · exact .inr ⟨h.1, rfl⟩
  · exact .inl rfl

theorem settle_of_ne {n : NodeInst} (h : n.phase ≠ .waiting) (now : Word) : n.settle now = n := if_neg fun hn => h hn.1

theorem afterDone_self (i : Nat) (n x : NodeInst) (now : Word) : (NodeInst.afterDone i i n x now).phase = .done := by
  simp only [NodeInst.afterDone, if_true]
  split_ifs <;> rw [settle_of_ne NodePhase.noConfusion]

theorem over_settle (n : NodeInst) (now : Word) : (n.settle now).over = n.over := by
  rcases settle_phase n now with h | ⟨h, h'⟩
  · simp only [NodeInst.over, h]
  · simp only [NodeInst.over, h, h']
    rfl

/-- Another node is over only if it was. -/
theorem over_afterDone {i j : Nat} (h : j ≠ i) (n x : NodeInst) (now : Word) : (NodeInst.afterDone i j n x now).over = x.over := by
  simp only [NodeInst.afterDone, if_neg h, over_settle]
  split_ifs <;> rfl

/-- A node that waited for this one alone is ready. -/
theorem afterDone_ready {i j : Nat} {n x : NodeInst} (now : Word) (h : j ≠ i) (ho : x.old = n.old) (hp : x.phase = .waiting)
    (hc : x.preds = n.succ.count j) (hw : x.waits = []) :
    (NodeInst.afterDone i j n x now).phase = .ready ∧ (NodeInst.afterDone i j n x now).preds = 0 := by
  have h0 : x.preds - n.succ.count j = 0 := by omega
  simp [NodeInst.afterDone, NodeInst.settle, h, ho, hp, hw, h0]

/-! ### JOB_END and RUCKSACK_WRITE -/

/-- The release that a node asks for at the end of a job (R290). -/
def State.endRelease (s : State) (sys : Bool) (ports : BitVec 4) : State := if sys then s.readOwners ports else s

theorem endRelease_eq (s : State) (sys : Bool) (ports : BitVec 4) : ∃ o, s.endRelease sys ports = { s with out := o } ∧
    (sys = false → o = s.out) ∧ (sys = true → ∀ i < 4, ports.getLsbD i = true → OutMsg.read0 i ∈ o) := by
  cases sys with
  | false => exact ⟨s.out, rfl, fun _ => rfl, fun h => absurd h Bool.false_ne_true⟩
  | true =>
    refine ⟨_, rfl, fun h => absurd h.symm Bool.false_ne_true, fun _ i hi h => List.mem_append_left _ ?_⟩
    simpa using ⟨hi, h⟩

theorem releaseSys_eq {s t : State} {g n : Nat} {sys : Bool} (h : s.nodeSys g n = .ok t sys) (ports : BitVec 4) :
    s.releaseSys g n ports = some (t.endRelease sys ports) := by
  rw [State.releaseSys, h]
  cases sys <;> rfl

theorem jobEnd_eq {s t : State} {k : Nat} {j : Job} {sys : Bool} (hj : (s.core k).job = some j) (hp : j.phase = .running ∨ j.phase = .preempting)
    (hd : (s.core k).drained = true) (hs : s.nodeSys j.inst j.node = .ok t sys) :
    s.jobEnd k = (((t.endRelease sys (s.core k).forwarded).leaveCore k j.inst).memberEnded j.inst j.node).getD s := by
  have hc : ((j.phase == .running || j.phase == .preempting) && (s.core k).drained) = true := by
    rw [hd, Bool.and_true, Bool.or_eq_true, beq_iff_eq, beq_iff_eq]
    exact hp
  rw [State.jobEnd, State.jobEnd?, hj]
  dsimp only
  rw [if_pos hc, releaseSys_eq hs, Option.bind_some]

theorem jobEnd_live {s : State} {k : Nat} (h : (s.core k).drained = false) : s.jobEnd k = s := by
  rw [State.jobEnd, State.jobEnd?]
  cases (s.core k).job with
  | none => rfl
  | some j =>
    dsimp only
    rw [h, Bool.and_false]
    rfl

theorem flushAll_eq {s : State} {k : Nat} (h : ∀ p < 12, ((s.core k).prt p).mops = []) : s.flushAll k = some s := by
  refine foldl_eq_self fun p hp => ?_
  rw [Option.bind_some, State.flushStores, h p (List.mem_range.1 hp)]
  rfl

/-- A job that has been saved (R49, R51, log 19). -/
def Core.savedJob (c : Core) (k : Nat) (j : Job) : SavedJob :=
  ⟨resumeDesc j.desc, j.ria, j.reloc, c.prts.mapIdx fun p q => q.beside (ctxOf k p) c p, c.sh.cims.map Cim.bivl, c.ringValid,
    c.xfly.map fun x => x.val.reg, c.engFwd⟩

/-- The image has been written. -/
def State.imageWritten (s : State) (m : Memory) : State := { s with mem := m, free := s.free + 1 }

theorem rucksackWrite_eq {s : State} {k : Nat} {j : Job} {m : Memory} (hj : (s.core k).job = some j) (hd : (s.core k).saveDue = true)
    (hm : ∀ p < 12, ((s.core k).prt p).mops = []) (hv : fld ((s.core k).descDw 7) 0 48 = 0)
    (hw : writePieces j.ria (s.core k).jobId (imagePieces (s.core k) k j.desc (j.phase == .hardStop) [] s.free) s.mem = some (m, true)) :
    s.rucksackWrite k = ((s.imageWritten m).leaveCore k j.inst).memberSaved j ((s.core k).savedJob k j) := by
  have hl : s.presvSlots k = .ok s (some []) := if_pos hv
  rw [State.rucksackWrite, State.save?, hj]
  dsimp only
  rw [if_neg (by rw [hd]; exact Bool.noConfusion), flushAll_eq hm, Option.bind_some, hl]
  dsimp only
  rw [hw]
  rfl

end Sys2Proof.Machine
end

section
/-! The end of a launch (R30, R31, R35, R52, R405, R417, R425): a gang of one member starts, is rejected, or comes back from its image. -/

namespace Sys2Proof.Machine

/-! ### A gang of one member -/

/-- The saved jobs of a node without the one of a descriptor. -/
def NodeInst.unsave (n : NodeInst) (desc : List Word) : NodeInst := { n with saved := n.saved.filter fun x => descJob x.desc != descJob desc }

/-- A core begins to issue for a job. -/
def Core.begin (c : Core) (j : Job) : Core := { c with job := some { j with phase := .running }, sh0 := c.sh }

/-- A member of a gang begins to issue. -/
def State.startMember (s : State) (k : Nat) (j : Job) : State := (s.modNode j.inst j.node fun n => n.unsave j.desc).modCore k fun c => c.begin j

theorem startMembers_one {s : State} {k : Nat} {j : Job} (h : (s.core k).job = some j) : s.startMembers [k] = s.startMember k j := by
  simp only [State.startMembers, List.foldl_cons, List.foldl_nil, h]
  rfl

theorem core_startMember {s : State} {k : Nat} (hk : k < s.cores.length) (j : Job) : (s.startMember k j).core k = (s.core k).begin j :=
  core_modCore_same (s := s.modNode j.inst j.node fun n => n.unsave j.desc) hk fun c => c.begin j

/-- A core has been retired, and firmware runs. -/
def State.coreRetired (s : State) (k : Nat) : Prop := s.dev.coreret.getD k false = true ∧ s.dev.fwhalt = false

theorem coreRetired_iff {s : State} {k : Nat} : (s.dev.coreret.getD k false && !s.dev.fwhalt) = true ↔ s.coreRetired k := by
  rw [Bool.and_eq_true, Bool.not_eq_true']
  rfl

section
variable {s s1 : State} {k : Nat} {j : Job}

theorem jobLaunchComplete_of_phase (hj : (s.core k).job = some j) (h : j.phase ≠ .launching) : s.jobLaunchComplete k = s := by
  rw [State.jobLaunchComplete, State.launch?, hj]
  dsimp only
  rw [if_pos h]
  rfl

theorem launchMembers_one (s : State) (k : Nat) : launchMembers [k] s = s.launchMember k := by
  rw [launchMembers]
  cases s.launchMember k <;> rfl

theorem dev_startMembers_one (hj : (s.core k).job = some j) : (s.startMembers [k]).dev = s.dev := by rw [startMembers_one hj]; rfl

theorem jobLaunchComplete_ok (hj : (s.core k).job = some j) (hp : j.phase = .launching) (hg : s.gangOf k = [k]) (hl : s.launchMember k = .ok s1)
    {j' : Job} (hj' : (s1.core k).job = some j') : s.jobLaunchComplete k =
      if s1.dev.coreret.getD k false && !s1.dev.fwhalt then (s1.startMember k j').preemptRequest k else s1.startMember k j' := by
  have hdev := dev_startMembers_one hj'
  rw [State.jobLaunchComplete, State.launch?, hj]
  dsimp only
  rw [if_neg (not_not.2 hp), hg, sortBy, List.foldr_cons, List.foldr_nil, insertBy, launchMembers_one, hl]
  dsimp only [List.foldl_cons, List.foldl_nil, Option.getD_some]
  rw [hdev, startMembers_one hj']

theorem jobLaunchComplete_reject (hj : (s.core k).job = some j) (hp : j.phase = .launching) (hg : s.gangOf k = [k]) {sub : Nat}
    (hl : s.launchMember k = .reject s1 sub) : s.jobLaunchComplete k = (s1.rejectGang [k] sub).getD s := by
  rw [State.jobLaunchComplete, State.launch?, hj]
  dsimp only
  rw [if_neg (not_not.2 hp), hg, sortBy, List.foldr_cons, List.foldr_nil, insertBy, launchMembers_one, hl]

/-- A job that is rejected is logged, and its core and its member are given up. -/
def State.rejected (s : State) (k : Nat) (j : Job) (sub : Nat) : State :=
  ((s.modNode j.inst j.node fun n => n.unsave j.desc).logJob j.desc j.inst 2 sub).leaveCore k j.inst

theorem rejectGang_one (hj : (s.core k).job = some j) (sub : Nat) :
    s.rejectGang [k] sub = (s.rejected k j sub).memberEnded j.inst j.node := by
  have hj' : ((s.modNode j.inst j.node fun n => n.unsave j.desc).core k).job = some j := hj
  simp only [State.rejectGang, List.foldl_cons, List.foldl_nil, Option.bind_some, hj]
  rw [State.rejectLive]
  change (match ((s.modNode j.inst j.node fun n => n.unsave j.desc).core k).job with | some j => _ | none => _) = _
  rw [hj']
  rfl

end

/-- With further members live, what a rejection leaves. -/
theorem rejectGang_more {s : State} {k : Nat} {j : Job} {g : GraphInst} {n : NodeInst} (hj : (s.core k).job = some j)
    (hg : s.graph? j.inst = some g) (hn : g.nodes[j.node]? = some n) (hl : 2 ≤ n.live) (sub : Nat) :
    s.rejectGang [k] sub = some ((s.rejected k j sub).modNode j.inst j.node NodeInst.lessOne) := by
  obtain ⟨h, x, hh, hx, rfl⟩ := nodeIs_modNode (P := fun x => x = n.unsave j.desc) hg hn (f := fun n => n.unsave j.desc) rfl
  rw [rejectGang_one hj]
  exact memberEnded_more (graph?_leaveCore k hh) hx hl

/-! ### The relocation records -/

/-- A core's FTB holds the relocation records of its job. -/
def State.pinned (s : State) (k : Nat) (es : List FtbEntry) : State := s.modCore k fun c => c.modSh fun h => { h with ftb := pinnedFtb es }

/-! The functions that read and write the records, and those that load them, stand as variables in the next two proofs: the kernel,
which compares two matches by what they match on, would evaluate a read of 512 bytes. -/

theorem loadReloc_ok {s v u : State} {k : Nat} {j : Job} {es : List FtbEntry} (hv : s.writeReloc j = some v) (hu : v.readReloc j = .ok u es) :
    s.loadReloc k j = .ok (u.pinned k es) () := by
  obtain ⟨load, hload⟩ : ∃ f, f = State.loadReloc := ⟨_, rfl⟩
  obtain ⟨write, hwrite⟩ : ∃ f, f = State.writeReloc := ⟨_, rfl⟩
  obtain ⟨read, hread⟩ : ∃ f, f = State.readReloc := ⟨_, rfl⟩
  rw [← hload]
  delta State.loadReloc at hload
  rw [← hwrite] at hv hload
  rw [← hread] at hu hload
  subst hload
  dsimp only
  rw [hv]
  dsimp only
  rw [hu]
  rfl

/-- What the launch of a member comes to once its FTB is loaded. -/
def State.launchLoaded (s : State) (k : Nat) (j : Job) : LaunchAns :=
  if bit (j.desc.getD 1 0) 63 then
    match s.savedOf j with
    | some sv => s.launchSaved k sv
    | none => .reject s 5
  else s.launchFresh k

theorem launchMember_loaded {s t : State} {k : Nat} {j : Job} (hj : (s.core k).job = some j) (h : s.loadReloc k j = .ok t ()) :
    s.launchMember k = t.launchLoaded k j := by
  obtain ⟨launch, hlaunch⟩ : ∃ f, f = State.launchMember := ⟨_, rfl⟩
  obtain ⟨load, hload⟩ : ∃ f, f = State.loadReloc := ⟨_, rfl⟩
  rw [← hlaunch]
  delta State.launchMember at hlaunch
  rw [← hload] at h hlaunch
  subst hlaunch
  dsimp only
  rw [hj]
  dsimp only
  rw [h]
  rfl

theorem launchLoaded_fresh {s : State} {k : Nat} {j : Job} (h : bit (j.desc.getD 1 0) 63 = false) : s.launchLoaded k j = s.launchFresh k :=
  if_neg (by rw [h]; exact Bool.false_ne_true)

theorem launchLoaded_saved {s : State} {k : Nat} {j : Job} {sv : SavedJob} (h : bit (j.desc.getD 1 0) 63 = true) (hs : s.savedOf j = some sv) :
    s.launchLoaded k j = s.launchSaved k sv := by
  rw [State.launchLoaded, if_pos h, hs]

/-! ### A fresh member -/

theorem fetchIa_congr {s t u : State} {ia n : Nat} {b : List Byte} (h : s.fetchIa ia n = .ok t b) (hm : u.mem = s.mem) :
    u.fetchIa ia n = .ok { u with mem := t.mem } b := by
  rw [State.fetchIa] at h ⊢
  rw [hm]
  generalize s.mem.devRead ia n = r at h ⊢
  obtain ⟨m, a⟩ := r
  cases a with
  | ok x psn =>
    cases h
    rfl
  | fault st => cases h
  | wait => cases h

/-- A partition with the parcels, views and entry of its stream, as memory holds them. -/
def Partition.startWith (d : Word) (x y : Nat) : Partition :=
  Partition.start d ((List.range (fld d 48 16)).map fun i => BitVec.ofNat 32 (x / 2 ^ (32 * i)))
    ((List.range 8).map fun v => BitVec.ofNat 64 (y / 2 ^ (64 * v)) &&& viewMask)

/-- Partition p is started. -/
def State.startPrt (s : State) (k p : Nat) (d : Word) (x y : Nat) : State := s.modPrt k p fun _ => Partition.startWith d x y

theorem core_startPrt {s : State} {k : Nat} (hk : k < s.cores.length) (p : Nat) (d : Word) (x y : Nat) :
    (s.startPrt k p d x y).core k = (s.core k).modPrt p fun _ => Partition.startWith d x y := core_modCore_same hk _

theorem range12_filter_one : ∀ a : Fin 12, ((List.range 12).filter fun n => decide (n = a.val)) = [a.val] := by decide

theorem started_one {m : BitVec 12} {p : Nat} (hp : p < 12) (h : ∀ i < 12, m.getLsbD i = decide (i = p)) :
    ((List.range 12).filter fun i => m.getLsbD i) = [p] :=
  (List.filter_congr fun i hi => h i (List.mem_range.1 hi)).trans (range12_filter_one ⟨p, hp⟩)

theorem loadStore_ok {s t : State} {k p x : Nat} {j : Job} (hj : (s.core k).job = some j)
    (h : s.engReadClean k (fld (j.desc.getD 2 0) 0 48 + fld (j.desc.getD (8 + p) 0) 0 32) (4 * fld (j.desc.getD (8 + p) 0) 48 16) = .ok t x) :
    s.loadStore k p = .ok t ((List.range (fld (j.desc.getD (8 + p) 0) 48 16)).map fun i => BitVec.ofNat 32 (x / 2 ^ (32 * i))) := by
  have hd (i : Nat) : (s.core k).descDw i = j.desc.getD i 0 := by rw [Core.descDw, hj]
  simp only [State.loadStore, hd]
  rw [h, EngAns.bind]

theorem loadViews_ok {s t : State} {k p y : Nat} {j : Job} (hj : (s.core k).job = some j)
    (h : s.engReadClean k (fld (j.desc.getD 3 0) 0 48 + 64 * p) 64 = .ok t y) :
    s.loadViews k p = .ok t ((List.range 8).map fun v => BitVec.ofNat 64 (y / 2 ^ (64 * v)) &&& viewMask) := by
  have hd (i : Nat) : (s.core k).descDw i = j.desc.getD i 0 := by rw [Core.descDw, hj]
  simp only [State.loadViews, hd]
  rw [h, EngAns.bind]

theorem startPrts_one {s s2 s3 : State} {k p x y : Nat} {j : Job} (hj : (s.core k).job = some j) (hp : p < 12)
    (hm : ∀ i < 12, (descMask j.desc).getLsbD i = decide (i = p))
    (hx : s.loadStore k p = .ok s2 ((List.range (fld (j.desc.getD (8 + p) 0) 48 16)).map fun i => BitVec.ofNat 32 (x / 2 ^ (32 * i))))
    (hy : s2.loadViews k p = .ok s3 ((List.range 8).map fun v => BitVec.ofNat 64 (y / 2 ^ (64 * v)) &&& viewMask)) :
    s.startPrts k true = .ok (s3.startPrt k p (j.desc.getD (8 + p) 0) x y) () := by
  simp only [State.startPrts, hj, started_one hp hm, List.foldl_cons, List.foldl_nil, EngAns.bind, hx, if_true, hy]
  rfl

/-- A node without tile operands asks for no fill, and its slot is read all the same. -/
theorem tileFills_none {s t : State} {k : Nat} {j : Job} {g : GraphInst} {n : NodeInst} {b : List Byte} (hj : (s.core k).job = some j)
    (hg : s.graph? j.inst = some g) (hn : g.nodes[j.node]? = some n) (h0 : fld (n.recd.getD 4 0) 32 16 = 0)
    (hf : s.fetchIa (fld s.sched.slotbase 0 48 + 64 * g.slot) 8 = .ok t b) : s.tileFills k = .ok t [] := by
  simp only [State.tileFills, hj, Option.bind_some, hg, hn, Option.map_some, State.tileRecs, hf, EngAns.bind, h0, List.range_zero, List.foldl_nil,
    List.flatMap_nil]

theorem launchFresh_ok {s s3 s4 : State} {k : Nat} (hs : s.startPrts k true = .ok s3 ()) (ht : s3.tileFills k = .ok s4 []) :
    s.launchFresh k = .ok s4 := by
  simp only [State.launchFresh, hs, ht, List.foldl_nil]

theorem parcel_startWith (d : Word) (x y : Nat) {i : Nat} (hi : i < fld d 48 16) :
    (Partition.startWith d x y).parcel i = BitVec.ofNat 32 (x / 2 ^ (32 * i)) := by
  change ((List.range (fld d 48 16)).map fun i => BitVec.ofNat 32 (x / 2 ^ (32 * i))).getD i 0 = _
  rw [List.getD_eq_getElem?_getD, List.getElem?_map, List.getElem?_range hi]
  rfl

theorem view_startWith (d : Word) (x y : Nat) (v : BitVec 3) :
    (Partition.startWith d x y).view v = BitVec.ofNat 64 (y / 2 ^ (64 * v.toNat)) &&& viewMask := by
  change ((List.range 8).map fun v => BitVec.ofNat 64 (y / 2 ^ (64 * v)) &&& viewMask).getD v.toNat 0 = _
  rw [List.getD_eq_getElem?_getD, List.getElem?_map, List.getElem?_range v.isLt]
  rfl

/-! ### A member that comes back -/

/-- What the image's areas, lines and stop kinds leave of a core as its low part has it. -/
structure Core.LowKept (c d : Core) : Prop where
  job : d.job = c.job
  evseq : d.evseq = c.evseq
  ringValid : d.ringValid = c.ringValid
  scnt : d.sh.scnt = c.sh.scnt
  ftb : d.sh.ftb = c.sh.ftb
  sema : d.sh.sema = c.sh.sema

namespace Core.LowKept

theorem refl (c : Core) : c.LowKept c := ⟨rfl, rfl, rfl, rfl, rfl, rfl⟩

theorem trans {c d e : Core} (h : c.LowKept d) (h' : d.LowKept e) : c.LowKept e :=
  ⟨h'.job.trans h.job, h'.evseq.trans h.evseq, h'.ringValid.trans h.ringValid, h'.scnt.trans h.scnt, h'.ftb.trans h.ftb, h'.sema.trans h.sema⟩

theorem foldl {α : Type} {f : Core → α → Core} (hf : ∀ (c : Core) x, c.LowKept (f c x)) (l : List α) (c : Core) : c.LowKept (l.foldl f c) := by
  induction l generalizing c with
  | nil => exact refl c
  | cons x xs ih => exact (hf c x).trans (ih (f c x))

theorem modPrt (c : Core) (p : Nat) (f : Partition → Partition) : c.LowKept (c.modPrt p f) := ⟨rfl, rfl, rfl, rfl, rfl, rfl⟩

theorem ite {P : Prop} [Decidable P] {c d e : Core} (hd : c.LowKept d) (he : c.LowKept e) : c.LowKept (if P then d else e) := by
  split_ifs
  · exact hd
  · exact he

theorem readRecord (c : Core) (p : Nat) (bs : List Byte) (r : RecordPlace) : c.LowKept (c.readRecord p bs r) := by
  unfold Core.readRecord
  exact ite ⟨rfl, rfl, rfl, rfl, rfl, rfl⟩ ⟨rfl, rfl, rfl, rfl, rfl, rfl⟩

theorem readArea (c : Core) (x : Ctx) (p : Nat) (bs : List Byte) (hs : List HoldAside) : c.LowKept (c.readArea x p bs hs) := by
  unfold Core.readArea
  exact (foldl (fun c r => readRecord c p bs r) _ c).trans (modPrt ..)

theorem continueAs (c : Core) (p kind : Nat) : c.LowKept (c.continueAs p kind) := by
  unfold Core.continueAs
  split
  · exact modPrt ..
  · exact modPrt ..
  · exact ⟨rfl, rfl, rfl, rfl, rfl, rfl⟩
  · exact ⟨rfl, rfl, rfl, rfl, rfl, rfl⟩
  · exact refl c

end Core.LowKept

/-- The lines of an image reach the core store and its tags alone. -/
theorem readLines_keep (ls : List (List Byte)) (h : Shared) : (ls.foldl Shared.readLine h).scnt = h.scnt ∧
    (ls.foldl Shared.readLine h).ftb = h.ftb ∧ (ls.foldl Shared.readLine h).sema = h.sema := by
  induction ls generalizing h with
  | nil => exact ⟨rfl, rfl, rfl⟩
  | cons bs ls ih => exact ih (h.readLine bs)

/-- A core that has come back is, but for its partitions, registers and macros, one with what the low part of its image says. -/
theorem revive_low (c : Core) (k : Nat) (im : Image) (parts : List Beside) (bivls : List Interval) (rv : Nat) (xm : List Bool) :
    ∃ b : Core, b.LowKept (c.revive k im parts bivls rv xm) ∧ b.job = c.job ∧ b.evseq = BitVec.ofNat 32 (natAt im.low 0x20 4) ∧
      b.ringValid = rv ∧ b.sh.scnt = dwAt im.low 0x10 ∧ b.sh.ftb = c.sh.ftb ∧ b.sh.sema =
        (List.range 256).map fun i => ⟨BitVec.ofNat 16 (natAt im.low (0x400 + 4 * i) 2), natAt im.low (0x402 + 4 * i) 1 % 2 == 1⟩ := by
  unfold Core.revive
  extract_lets h h1 evn st src reg c1 b c2 vs c3 c4
  refine ⟨c1, ?_, rfl, rfl, rfl, (readLines_keep im.lines reg).1, (readLines_keep im.lines reg).2.1, (readLines_keep im.lines reg).2.2⟩
  clear_value c1
  have h2 : c1.LowKept c2 := .foldl (fun c p => ((Core.LowKept.modPrt ..).trans (.readArea ..)).trans (.modPrt ..)) _ _
  clear_value c2
  have h3 : c2.LowKept c3 := ⟨rfl, rfl, rfl, rfl, rfl, rfl⟩
  clear_value c3
  have h4 : c3.LowKept c4 := .foldl (fun c p => .ite (.continueAs ..) (.refl c)) _ _
  clear_value c4
  exact ((h2.trans h3).trans h4).trans ⟨rfl, rfl, rfl, rfl, rfl, rfl⟩

end Sys2Proof.Machine
end

section
/-! The end, save, launch and rejection of jobs (R31 to R33, R48 to R52, R289), and the record of a rejection (R401). -/

namespace Sys2Proof.Machine

/-! ### The image of a member that comes back

The reads of images and streams stand as variables here too, as those of the relocation records did. -/

/-- A core with what the image of a saved job and what stands beside it say. -/
def Core.comeBack (c : Core) (k : Nat) (sv : SavedJob) (im : Image) : Core :=
  let c := c.revive k im sv.parts sv.bivls sv.ringValid sv.xmarks
  { c with engFwd := sv.engFwd, ops := c.ops.map fun o => if o.job = descJob sv.desc then { o with left := none } else o }

section
variable {s s2 : State} {k : Nat} {sv : SavedJob} {m : Memory}

theorem launchSaved_ok {im : Image} (hi : sv.image (ctxOf k 0).macroCount s.mem = .ok m im)
    (hs : ({ s with mem := m } : State).startPrts k false = .ok s2 ()) :
    s.launchSaved k sv = .ok (s2.modCore k fun c => c.comeBack k sv im) := by
  obtain ⟨launch, hlaunch⟩ : ∃ f, f = State.launchSaved := ⟨_, rfl⟩
  obtain ⟨image, himage⟩ : ∃ f, f = SavedJob.image := ⟨_, rfl⟩
  obtain ⟨start, hstart⟩ : ∃ f, f = State.startPrts := ⟨_, rfl⟩
  rw [← hlaunch]
  delta State.launchSaved at hlaunch
  rw [← himage] at hi hlaunch
  rw [← hstart] at hs hlaunch
  subst hlaunch
  dsimp only
  rw [hi]
  dsimp only
  rw [hs]
  rfl

theorem launchSaved_bad (hi : sv.image (ctxOf k 0).macroCount s.mem = .bad m) : s.launchSaved k sv = .reject { s with mem := m } 5 := by
  obtain ⟨launch, hlaunch⟩ : ∃ f, f = State.launchSaved := ⟨_, rfl⟩
  obtain ⟨image, himage⟩ : ∃ f, f = SavedJob.image := ⟨_, rfl⟩
  rw [← hlaunch]
  delta State.launchSaved at hlaunch
  rw [← himage] at hi hlaunch
  subst hlaunch
  dsimp only
  rw [hi]

end

/-! ### The record of a rejection -/

theorem fld_eq_extract (x : Word) (lo len : Nat) : fld x lo len = (x.extractLsb' lo len).toNat := by
  rw [BitVec.extractLsb'_toNat, Nat.shiftRight_eq_div_pow]
  rfl

theorem fld_or (x y : Word) (lo len : Nat) : fld (x ||| y) lo len = fld x lo len ||| fld y lo len := by
  simp only [fld_eq_extract, BitVec.extractLsb'_or, BitVec.toNat_or]

theorem fld_of_lt {x : Word} {lo : Nat} (h : x.toNat < 2 ^ lo) (len : Nat) : fld x lo len = 0 := by
  rw [fld, Nat.div_eq_of_lt h, Nat.zero_mod]

theorem toNat_at'_le (lo x : Nat) : (at' lo x).toNat ≤ x * 2 ^ lo := by
  rw [at', BitVec.toNat_ofNat]
  exact Nat.mod_le _ _

theorem toNat_setWidth_lt (x : BitVec 32) : (x.setWidth 64).toNat < 2 ^ 32 := by
  rw [BitVec.toNat_setWidth_of_le (by decide)]
  exact x.isLt

theorem toNat_bitAt_le (lo : Nat) (b : Bool) : (bitAt lo b).toNat ≤ 2 ^ lo := by
  cases b with
  | false => exact Nat.zero_le _
  | true => exact (toNat_at'_le lo 1).trans_eq (Nat.one_mul _)

/-- Code and subcode of a failure record, above its stream and tag. -/
theorem fld_flogDw0 {code sub : Nat} {st : Option Nat} (hs : ∀ i, st = some i → i < 1024) (tag : BitVec 32) {lo : Nat} (hlo : 48 ≤ lo) (len : Nat) :
    fld (flogDw0 code sub st tag) lo len = fld (at' 56 code) lo len ||| fld (at' 48 sub) lo len := by
  have hle : 2 ^ 48 ≤ 2 ^ lo := Nat.pow_le_pow_right (by decide) hlo
  have h1 : (bitAt 42 st.isSome).toNat < 2 ^ lo := ((toNat_bitAt_le ..).trans_lt (by decide)).trans_le hle
  have h2 : (at' 32 (st.getD 0)).toNat < 2 ^ lo := by
    have hn : st.getD 0 < 1024 := by
      cases st with
      | none => decide
      | some i => exact hs i rfl
    exact ((toNat_at'_le ..).trans_lt (by omega)).trans_le hle
  have h3 : (tag.setWidth 64).toNat < 2 ^ lo := ((toNat_setWidth_lt tag).trans (by decide)).trans_le hle
  simp only [flogDw0, fld_or, fld_of_lt h1, fld_of_lt h2, fld_of_lt h3, Nat.or_zero]

/-- The job of a failure record, above its number. -/
theorem fld_flogDw1 (job q : BitVec 32) : fld (at' 32 job.toNat ||| q.setWidth 64) 32 32 = job.toNat := by
  have hj := job.isLt
  have ha : (at' 32 job.toNat).toNat = job.toNat * 2 ^ 32 := by
    rw [at', BitVec.toNat_ofNat, Nat.mod_eq_of_lt (by omega)]
  rw [fld_or, fld_of_lt (toNat_setWidth_lt q), Nat.or_zero, fld, ha, Nat.mul_div_cancel _ (by decide), Nat.mod_eq_of_lt hj]

theorem mem_flogStore (l : List FlogRec) (q : Nat) (r : FlogRec) : r ∈ flogStore l q r :=
  List.mem_set (by rw [List.length_append, List.length_replicate]; omega) r

theorem flog_logFailure {s : State} {n : Nat} (hn : n < s.dev.flog.length) (code sub : Nat) (st : Option Nat) (tag job : BitVec 32) :
    ⟨flogDw0 code sub st tag, at' 32 job.toNat ||| (s.dev.flogseq.getD n 0).setWidth 64⟩ ∈
      (s.logFailure n code sub st tag job).dev.flog.getD n [] := by
  simp only [State.logFailure, List.getD_eq_getElem?_getD, List.getElem?_set_self hn, Option.getD_some]
  exact mem_flogStore ..

end Sys2Proof.Machine
end

section
/-! The events of jobs (O39), from the lemmas on the end of a job, on launches and on images. -/

namespace Sys2Proof.Machine

theorem vacant_leaveCore {s : State} {k : Nat} (hk : k < s.cores.length) (inst : Nat) : ((s.leaveCore k inst).core k).vacant := by
  rw [core_leaveCore hk]
  exact vacant_free _

/-- The job of a core on which the request to pre-empt it is made. -/
theorem job_preemptRequest_self {s : State} {k : Nat} {j : Job} (hl : k < s.cores.length) (hk : k < 128) (hj : (s.core k).job = some j)
    (hp : j.phase = .running) : ((s.preemptRequest k).core k).job = some { j with phase := .preempting, since := s.now } := by
  rw [preemptRequest_eq hj, core_foldl_modCore (nodup_matesOf s j) hl, if_pos (mem_matesOf.2 ⟨hk, j, hj, rfl, rfl⟩), Core.askStop, hj]
  exact congrArg Core.job (if_pos hp)

/-- A task graph with node n changed. -/
def GraphInst.withNode (g : GraphInst) (n : Nat) (f : NodeInst → NodeInst) : GraphInst :=
  { g with nodes := g.nodes.mapIdx fun i y => if i = n then f y else y }

theorem graph?_modNode_self {s : State} {i : Nat} {g : GraphInst} (h : s.graph? i = some g) (n : Nat) (f : NodeInst → NodeInst) :
    (s.modNode i n f).graph? i = some (g.withNode n f) := by
  rw [graph?_modNode, h, Option.map_some, if_pos (graph?_id h)]
  rfl

theorem nodes_withNode_same {g : GraphInst} {n : Nat} {x : NodeInst} (h : g.nodes[n]? = some x) (f : NodeInst → NodeInst) :
    (g.withNode n f).nodes[n]? = some (f x) := by
  simp [GraphInst.withNode, h]

theorem nodes_withNode_ne {g : GraphInst} {n i : Nat} {x : NodeInst} (hi : i ≠ n) (h : g.nodes[i]? = some x) (f : NodeInst → NodeInst) :
    (g.withNode n f).nodes[i]? = some x := by
  simp [GraphInst.withNode, h, hi]

/-- What the leaving of a core and the completion of its node, the last member of which has ended, come to. -/
theorem memberEnded_completes {s : State} {k i n : Nat} {g : GraphInst} {x : NodeInst} (hg : s.graph? i = some g) (hx : g.nodes[n]? = some x)
    (hl : x.live = 1) (hs : x.saved = []) (hf : x.isFin = false) (he : x.isStepEnd = false)
    (ho : ∃ m y, m ≠ n ∧ g.nodes[m]? = some y ∧ y.over = false) : ∃ t, s.memberEnded i n = some t ∧ t.mem = s.mem ∧ t.core k = s.core k ∧
      ∃ h, t.graph? i = some h ∧ (∃ y, h.nodes[n]? = some y ∧ y.phase = .done) ∧
        ∀ m y, m ≠ n → g.nodes[m]? = some y → y.old = x.old → y.phase = .waiting → y.preds = x.succ.count m → y.waits = [] →
          ∃ z, h.nodes[m]? = some z ∧ z.phase = .ready ∧ z.preds = 0 := by
  have hn := nodes_withNode_same hx NodeInst.lessOne
  have hg' := graph?_modNode_self hg n NodeInst.lessOne
  have hover : ∃ y ∈ ((g.withNode n NodeInst.lessOne).complete n s.now).nodes, y.over = false := by
    obtain ⟨m, y, hm, hy, hyo⟩ := ho
    refine ⟨_, List.mem_of_getElem? (nodes_complete s.now hn (nodes_withNode_ne hm hy _)), ?_⟩
    rw [over_afterDone hm, hyo]
  refine ⟨_, (memberEnded_last hg hx hl hs).trans (nodeDone_eq hg' hn hf he hover), rfl, rfl, _, graph?_modGraph hg' fun _ => rfl,
    ⟨_, nodes_complete _ hn hn, afterDone_self ..⟩, fun m y hm hy hyo hp hc hw => ⟨_, nodes_complete _ hn (nodes_withNode_ne hm hy _), ?_⟩⟩
  exact afterDone_ready _ hm hyo hp hc hw

/-! ### What the end of a launch comes to -/

section
variable {s s1 : State} {k : Nat} {j j' : Job} (hj : (s.core k).job = some j) (hp : j.phase = .launching) (hg : s.gangOf k = [k])
include hj hp hg

theorem jobLaunchComplete_starts (hl : s.launchMember k = .ok s1) (hj' : (s1.core k).job = some j') (hr : ¬s1.coreRetired k) :
    s.jobLaunchComplete k = s1.startMember k j' :=
  (jobLaunchComplete_ok hj hp hg hl hj').trans (if_neg fun h => hr (coreRetired_iff.1 h))

theorem jobLaunchComplete_stops (hl : s.launchMember k = .ok s1) (hj' : (s1.core k).job = some j') (hr : s1.coreRetired k) :
    s.jobLaunchComplete k = (s1.startMember k j').preemptRequest k :=
  (jobLaunchComplete_ok hj hp hg hl hj').trans (if_pos (coreRetired_iff.2 hr))

theorem jobLaunchComplete_rejects {g : GraphInst} {n : NodeInst} {sub : Nat} (hl : s.launchMember k = .reject s1 sub)
    (hj' : (s1.core k).job = some j') (hi : s1.graph? j'.inst = some g) (hn : g.nodes[j'.node]? = some n) (hlive : 2 ≤ n.live) :
    s.jobLaunchComplete k = (s1.rejected k j' sub).modNode j'.inst j'.node NodeInst.lessOne := by
  rw [jobLaunchComplete_reject hj hp hg hl, rejectGang_more hj' hi hn hlive, Option.getD_some]

end

/-! ### A launch whose records are loaded -/

theorem graph?_congr {s t : State} (h : t.sched = s.sched) (i : Nat) : t.graph? i = s.graph? i := by rw [State.graph?, h, State.graph?]

theorem savedOf_congr {s t : State} (h : t.sched = s.sched) (j : Job) : t.savedOf j = s.savedOf j := by
  rw [State.savedOf, graph?_congr h, State.savedOf]

theorem job_pinned {s u : State} {k : Nat} (h : u.cores = s.cores) (hk : k < s.cores.length) (es : List FtbEntry) :
    ((u.pinned k es).core k).job = (s.core k).job := by
  rw [State.pinned, core_modCore_same (h.symm ▸ hk), State.core, h]
  rfl

/-- The launch of a fresh member with one partition and no tile operands. -/
theorem launchMember_fresh {s u s2 s3 s4 : State} {k p x y : Nat} {j : Job} {g : GraphInst} {n : NodeInst} {b : List Byte}
    (hj : (s.core k).job = some j) (hl : s.loadReloc k j = .ok u ()) (hju : (u.core k).job = some j) (hr : bit (j.desc.getD 1 0) 63 = false)
    (hp : p < 12) (hm : ∀ i < 12, (descMask j.desc).getLsbD i = decide (i = p))
    (hx : u.engReadClean k (fld (j.desc.getD 2 0) 0 48 + fld (j.desc.getD (8 + p) 0) 0 32) (4 * fld (j.desc.getD (8 + p) 0) 48 16) = .ok s2 x)
    (hj2 : (s2.core k).job = some j) (hy : s2.engReadClean k (fld (j.desc.getD 3 0) 0 48 + 64 * p) 64 = .ok s3 y)
    (hj3 : (s3.core k).job = some j) (hk : k < s3.cores.length) (hg : s3.graph? j.inst = some g) (hn : g.nodes[j.node]? = some n)
    (h0 : fld (n.recd.getD 4 0) 32 16 = 0) (hf : s3.fetchIa (fld s3.sched.slotbase 0 48 + 64 * g.slot) 8 = .ok s4 b) :
    s.launchMember k = .ok { s3.startPrt k p (j.desc.getD (8 + p) 0) x y with mem := s4.mem } := by
  have hjs : ((s3.startPrt k p (j.desc.getD (8 + p) 0) x y).core k).job = some j := by
    rw [State.startPrt, State.modPrt, core_modCore_same hk]
    exact hj3
  rw [launchMember_loaded hj hl, launchLoaded_fresh hr]
  exact launchFresh_ok (startPrts_one hju hp hm (loadStore_ok hju hx) (loadViews_ok hj2 hy))
    (tileFills_none hjs hg hn h0 (fetchIa_congr hf rfl))

/-- The launch of a member that comes back. -/
theorem launchMember_saved {s u s2 : State} {k : Nat} {j : Job} {sv : SavedJob} {m : Memory} {im : Image} (hj : (s.core k).job = some j)
    (hl : s.loadReloc k j = .ok u ()) (hr : bit (j.desc.getD 1 0) 63 = true) (hs : u.savedOf j = some sv)
    (hi : sv.image (ctxOf k 0).macroCount u.mem = .ok m im) (hst : ({ u with mem := m } : State).startPrts k false = .ok s2 ()) :
    s.launchMember k = .ok (s2.modCore k fun c => c.comeBack k sv im) := by
  rw [launchMember_loaded hj hl, launchLoaded_saved hr hs, launchSaved_ok hi hst]

theorem launchMember_bad {s u : State} {k : Nat} {j : Job} {sv : SavedJob} {m : Memory} (hj : (s.core k).job = some j)
    (hl : s.loadReloc k j = .ok u ()) (hr : bit (j.desc.getD 1 0) 63 = true) (hs : u.savedOf j = some sv)
    (hi : sv.image (ctxOf k 0).macroCount u.mem = .bad m) : s.launchMember k = .reject { u with mem := m } 5 := by
  rw [launchMember_loaded hj hl, launchLoaded_saved hr hs, launchSaved_bad hi]

theorem graphTag_stream {s : State} {i : Nat} {g : GraphInst} (hg : s.graph? i = some g) (hs : ∀ n, g.stream = some n → n < 1024) {n : Nat}
    (h : (s.graphTag i).1 = some n) : n < 1024 := by
  rw [State.graphTag, hg] at h
  dsimp only at h
  cases hst : g.stream with
  | none =>
    rw [hst] at h
    exact absurd h.symm (Option.some_ne_none n)
  | some m =>
    rw [hst] at h
    exact hs n (hst.trans h)

/-- What a core that has come back has from its image. -/
theorem comeBack_low (c : Core) (k : Nat) (sv : SavedJob) (im : Image) : (c.comeBack k sv im).job = c.job ∧
    (c.comeBack k sv im).sh.scnt = dwAt im.low 0x10 ∧ (c.comeBack k sv im).evseq = BitVec.ofNat 32 (natAt im.low 0x20 4) ∧
    (c.comeBack k sv im).ringValid = sv.ringValid ∧ (c.comeBack k sv im).sh.ftb = c.sh.ftb ∧
    ∀ i < 256, (c.comeBack k sv im).sh.semaAt i =
      ⟨BitVec.ofNat 16 (natAt im.low (0x400 + 4 * i) 2), natAt im.low (0x402 + 4 * i) 1 % 2 == 1⟩ := by
  obtain ⟨b, hb, hjob, hevseq, hring, hscnt, hftb, hsema⟩ := revive_low c k im sv.parts sv.bivls sv.ringValid sv.xmarks
  rw [Core.comeBack]
  generalize c.revive k im sv.parts sv.bivls sv.ringValid sv.xmarks = d at hb ⊢
  refine ⟨hb.job.trans hjob, hb.scnt.trans hscnt, hb.evseq.trans hevseq, hb.ringValid.trans hring, hb.ftb.trans hftb, fun i hi => ?_⟩
  change d.sh.sema.getD i ⟨0, false⟩ = _
  rw [hb.sema, hsema, List.getD_eq_getElem?_getD, List.getElem?_map, List.getElem?_range hi]
  rfl

/-- The failure log after a rejection. -/
theorem rejected_logs {s : State} {k : Nat} {j : Job} {g : GraphInst} (hg : s.graph? j.inst = some g) (hs : ∀ i, g.stream = some i → i < 1024)
    {sub : Nat} (hlog : descRegion j.desc < s.dev.flog.length) (hseq : descRegion j.desc < s.dev.flogseq.length) :
    (s.rejected k j sub).dev.flogseq.getD (descRegion j.desc) 0 = s.dev.flogseq.getD (descRegion j.desc) 0 + 1 ∧
      ∃ st tag q, (∀ i, st = some i → i < 1024) ∧
        ⟨flogDw0 2 sub st tag, at' 32 (descJob j.desc).toNat ||| BitVec.setWidth 64 (q : BitVec 32)⟩ ∈
          (s.rejected k j sub).dev.flog.getD (descRegion j.desc) [] := by
  have hdev := (leaveCore_keeps ((s.modNode j.inst j.node fun n => n.unsave j.desc).logJob j.desc j.inst 2 sub) k j.inst).2.1
  have hst : ∀ i, ((s.modNode j.inst j.node fun n => n.unsave j.desc).graphTag j.inst).1 = some i → i < 1024 :=
    fun i => graphTag_stream (graph?_modNode_self hg j.node _) hs
  rw [State.rejected, hdev]
  exact ⟨flogseq_logFailure_same (s := s.modNode ..) hseq .., _, _, _, hst, flog_logFailure (s := s.modNode ..) hlog ..⟩

/-- Settles O39: each event is an equation of the model's function (jobEnd_eq, rucksackWrite_eq, jobLaunchComplete_ok,
jobLaunchComplete_reject), and its effect is what the leaving of a core, the count of a member and the start of one leave. -/
theorem jobEvents : Obligations.JobEvents := by
  unfold Obligations.JobEvents
  intro s s1 k j g n m sub c free node alone resumed R loads retired pinned hk hj hg hn
  refine ⟨?ends, ?last, ?busy, ?saves, fun hp hgang => ⟨fun j' hl hk1 hj' => ⟨?starts, ?stops⟩, ?rejects⟩, ?fresh, ?resumes, ?bad,
    fun h => congrArg Host.Outcome.next (jobLaunchComplete_of_phase hj h)⟩
  case busy => exact fun h => congrArg Host.Outcome.next (jobEnd_live h)
  case ends =>
    intro sys hp hd hsys hl
    obtain ⟨o, ho, h0, h1⟩ := endRelease_eq ({ s with mem := m } : State) sys c.forwarded
    have hgl := graph?_leaveCore (s := { s with mem := m, out := o }) k hg
    obtain ⟨hout, -, -, hgddr⟩ := leaveCore_keeps ({ s with mem := m, out := o } : State) k j.inst
    have he := jobEnd_eq hj hp hd hsys
    rw [ho, memberEnded_more hgl hn hl, Option.getD_some] at he
    refine ⟨_, congrArg Host.Outcome.next he, vacant_leaveCore (s := { s with mem := m, out := o }) hk j.inst, hgddr, fun hs => hout.trans (h0 hs),
      fun hs i hi hb => ?_, nodeIs_modNode (P := fun x => x.live = n.live - 1 ∧ x.phase = n.phase) hgl hn ⟨rfl, rfl⟩⟩
    exact hout.symm ▸ h1 hs i hi hb
  case last =>
    intro sys hp hd hsys hl hsv hf hst hov
    obtain ⟨o, ho, -, -⟩ := endRelease_eq ({ s with mem := m } : State) sys c.forwarded
    have hgl := graph?_leaveCore (s := { s with mem := m, out := o }) k hg
    obtain ⟨-, -, -, hgddr⟩ := leaveCore_keeps ({ s with mem := m, out := o } : State) k j.inst
    obtain ⟨t, ht, htm, htc, h, hh, ⟨y, hy, hdone⟩, hready⟩ := memberEnded_completes (k := k) hgl hn hl hsv hf hst hov
    have he := jobEnd_eq hj hp hd hsys
    rw [ho, ht, Option.getD_some] at he
    have hv : (t.core k).vacant := htc ▸ vacant_leaveCore (s := { s with mem := m, out := o }) hk j.inst
    refine ⟨t, congrArg Host.Outcome.next he, hv, ⟨h, y, hh, hy, hdone⟩, htm ▸ hgddr, fun i x hi hx ho hp hc hw => ?_⟩
    obtain ⟨z, hz, hz'⟩ := hready i x hi hx ho hp hc hw
    exact ⟨h, z, hh, hz, hz'⟩
  case saves =>
    intro hd hm hv hw
    have hgl := graph?_leaveCore (s := s.imageWritten m) k hg
    obtain ⟨-, -, hclk, hgddr⟩ := leaveCore_keeps (s.imageWritten m) k j.inst
    have hnow : ((s.imageWritten m).leaveCore k j.inst).now = s.now := by rw [State.now, hclk]; rfl
    refine ⟨_, congrArg Host.Outcome.next (rucksackWrite_eq hj hd hm hv hw), vacant_leaveCore (s := s.imageWritten m) hk j.inst, hgddr, ?_⟩
    refine nodeIs_modNode (P := fun x => ∃ v, x.saved = n.saved ++ [v] ∧ v.ria = j.ria ∧ v.reloc = j.reloc ∧
      v.desc = j.desc.set 1 (j.desc.getD 1 0 ||| bitAt 63 true) ∧ x.live = n.live - 1 ∧ (x.live = 0 → x.phase = .saved ∧ x.readyAt = s.now))
      hgl hn ⟨c.savedJob k j, ?_⟩
    dsimp only
    split_ifs with h0
    · exact ⟨rfl, rfl, rfl, rfl, rfl, fun _ => ⟨rfl, hnow⟩⟩
    · exact ⟨rfl, rfl, rfl, rfl, rfl, fun h => absurd h h0⟩
  case starts =>
    intro hr
    have hc := core_startMember hk1 j'
    refine ⟨_, congrArg Host.Outcome.next (jobLaunchComplete_starts hj hp hgang hl hj' hr), ?_⟩
    rw [hc]
    exact ⟨rfl, rfl, rfl, rfl, rfl⟩
  case stops =>
    intro hr hk128
    have hc : ((s1.startMember k j').core k).job = some { j' with phase := .running } := congrArg Core.job (core_startMember hk1 j')
    obtain ⟨cs, hcs⟩ := preemptRequest_cores (s1.startMember k j') k
    have hlen : k < (s1.startMember k j').cores.length := (modCore_length (s := s1.modNode _ _ _) k _).symm ▸ hk1
    refine ⟨_, congrArg Host.Outcome.next (jobLaunchComplete_stops hj hp hgang hl hj' hr), job_preemptRequest_self (j := { j' with phase := .running }) hlen hk128 hc rfl, ?_⟩
    rw [hcs]
    rfl
  case rejects =>
    intro hl hk1 hj1 hlive hg1
    have he := jobLaunchComplete_rejects hj hp hgang hl hj1 hg1 hn hlive
    obtain ⟨-, -, -, hgddr⟩ := leaveCore_keeps ((s1.modNode j.inst j.node fun n => n.unsave j.desc).logJob j.desc j.inst 2 sub) k j.inst
    exact ⟨_, congrArg Host.Outcome.next he, (vacant_leaveCore (s := (s1.modNode _ _ _).logJob ..) hk1 j.inst).1, hgddr⟩
  case fresh =>
    intro p x y s0 s2 s3 s4 es b ⟨hp, hgang⟩ hr hp12 hm ⟨v, hv, hu, hcores, hsched, hdev⟩ d hx hj2 hy hj3 hhas hs3 hret h0 hf
    obtain ⟨hk3, hpl⟩ := has_iff.1 hhas
    have hju : ((s0.pinned k es).core k).job = some j := (job_pinned hcores hk es).trans hj
    have hg3 : s3.graph? j.inst = some g := (graph?_congr hs3 _).trans hg
    rw [← hs3] at hf
    have hl := launchMember_fresh hj (loadReloc_ok hv hu) hju hr hp12 hm hx hj2 hy hj3 hk3 hg3 hn h0 hf
    have hc : ({ s3.startPrt k p d x y with mem := s4.mem } : State).core k = (s3.core k).modPrt p fun _ => Partition.startWith d x y :=
      core_startPrt hk3 p d x y
    have hjl : (({ s3.startPrt k p d x y with mem := s4.mem } : State).core k).job = some j := by rw [hc]; exact hj3
    have he := jobLaunchComplete_starts hj hp hgang hl hjl hret
    have hlen : k < ({ s3.startPrt k p d x y with mem := s4.mem } : State).cores.length :=
      hk3.trans_eq (modCore_length s3 k fun c => c.modPrt p fun _ => Partition.startWith d x y).symm
    refine ⟨_, congrArg Host.Outcome.next he, rfl, ?_⟩
    have hq : (((s3.core k).modPrt p fun _ => Partition.startWith d x y).begin j).prt p = Partition.startWith d x y := prt_modPrt_same hpl fun _ => Partition.startWith d x y
    rw [core_startMember hlen, hc, hq]
    refine ⟨rfl, rfl, fun i hi => prt_modPrt_ne hi fun _ => Partition.startWith d x y, rfl, rfl, rfl, rfl, rfl, rfl, rfl, fun i hi => parcel_startWith d x y hi,
      fun v => view_startWith d x y v, rfl, rfl, rfl, rfl, rfl, rfl⟩
  case resumes =>
    intro sv im s0 s2 es ⟨hp, hgang⟩ hr hsv ⟨v, hv, hu, hcores, hsched, hdev⟩ hi hst hk2 hj2 hret
    have hl := launchMember_saved hj (loadReloc_ok hv hu) hr ((savedOf_congr hsched j).trans hsv) hi hst
    obtain ⟨hjob, hlow⟩ := comeBack_low (s2.core k) k sv im
    have hc : (s2.modCore k fun c => c.comeBack k sv im).core k = (s2.core k).comeBack k sv im := core_modCore_same hk2 _
    generalize (s2.core k).comeBack k sv im = d at hjob hlow hc
    have hlen : k < (s2.modCore k fun c => c.comeBack k sv im).cores.length := (modCore_length s2 k _).symm ▸ hk2
    have hret' : ¬(s2.modCore k fun c => c.comeBack k sv im).coreRetired k := hret
    generalize (s2.modCore k fun c => c.comeBack k sv im) = s3 at hl hc hlen hret'
    have he := jobLaunchComplete_starts hj hp hgang hl ((congrArg Core.job hc).trans (hjob.trans hj2)) hret'
    refine ⟨_, congrArg Host.Outcome.next he, ?_⟩
    rw [core_startMember hlen, hc]
    exact ⟨rfl, hlow⟩
  case bad =>
    intro sv s0 es ⟨hp, hgang⟩ hr hsv ⟨v, hv, hu, hcores, hsched, hdev⟩ hi hlive hlog hseq hstream
    have hl := launchMember_bad hj (loadReloc_ok hv hu) hr ((savedOf_congr hsched j).trans hsv) hi
    have hju : ((s0.pinned k es).core k).job = some j := (job_pinned hcores hk es).trans hj
    have hgu : ({ s0.pinned k es with mem := m } : State).graph? j.inst = some g := (graph?_congr hsched _).trans hg
    have hlen : k < (s0.pinned k es).cores.length := by
      rw [State.pinned, modCore_length, hcores]
      exact hk
    have he := jobLaunchComplete_rejects hj hp hgang hl hju hgu hn hlive
    obtain ⟨-, -, -, hgddr⟩ := leaveCore_keeps ((({ s0.pinned k es with mem := m } : State).modNode j.inst j.node fun n =>
      n.unsave j.desc).logJob j.desc j.inst 2 5) k j.inst
    obtain ⟨hsq, st, tag, q, hst, hmem⟩ := rejected_logs (s := { s0.pinned k es with mem := m }) (k := k) (sub := 5) hgu hstream
      (hdev.symm ▸ hlog) (hdev.symm ▸ hseq)
    refine ⟨_, congrArg Host.Outcome.next he, vacant_leaveCore (s := (State.modNode _ _ _ _).logJob ..) hlen j.inst, hgddr,
      hsq.trans (hdev ▸ rfl), _, hmem, ?_, ?_, fld_flogDw1 ..⟩
    · rw [fld_flogDw0 hst _ (by decide)]
      decide
    · rw [fld_flogDw0 hst _ (by decide)]
      decide

end Sys2Proof.Machine
end

section
/-! The frame of a group (R57, R59, R66, R71, R74, R76, R78): a relation between a core before and after that every change a
group makes to it keeps, by what the group's executing slots name. -/

namespace Sys2Proof.Machine

/-! ### Units -/

/-- The unit that stands at a position of a partition's list. -/
def unitAt (n : Nat) : UnitName :=
  [UnitName.br, .lp, .sy, .ix0, .ix1, .cmp, .imd, .ks0, .ks1, .va0, .va1, .vf0, .vf1, .vx, .vp, .vc, .fs, .fd, .mx, .kv, .px, .gm0, .gm1,
    .rw, .tg].getD n .br

theorem unitName_idx_injective : Function.Injective UnitName.idx :=
  Function.LeftInverse.injective (g := unitAt) fun u => by cases u <;> rfl

theorem unit_setUnit_ne {q : Partition} {u v : UnitName} (h : v ≠ u) (r : UnitRegs) : (q.setUnit u r).unit v = q.unit v := by
  simp only [Partition.unit, Partition.setUnit, List.getD_eq_getElem?_getD, List.getElem?_set_ne (unitName_idx_injective.ne h.symm)]

/-- Of a unit that is put back, either its new registers are read or, beyond the list, those that were there. -/
theorem unit_setUnit_or (q : Partition) (u : UnitName) (r : UnitRegs) : (q.setUnit u r).unit u = r ∨ (q.setUnit u r).unit u = q.unit u := by
  by_cases h : UnitName.idx u < q.units.length
  · exact .inl (by simp [Partition.unit, Partition.setUnit, h])
  · exact .inr (by simp only [Partition.unit, Partition.setUnit, List.set_eq_of_length_le (Nat.not_lt.1 h)])

theorem port_setPort_ne {r : UnitRegs} {o o' : PortSel} (h : o' ≠ o) (x : Slot) : (r.setPort o x).port o' = r.port o' := by
  cases o' with
  | o1 => cases o with
    | o1 => exact absurd rfl h
    | o2 => rfl
    | o3 => rfl
  | o2 => cases o with
    | o1 => rfl
    | o2 => exact absurd rfl h
    | o3 => rfl
  | o3 => cases o with
    | o1 => rfl
    | o2 => rfl
    | o3 => exact absurd rfl h

theorem latch_setPort (r : UnitRegs) (o : PortSel) (x : Slot) (l : LatchSel) : (r.setPort o x).latch l = r.latch l := by
  cases o <;> cases l <;> rfl

/-! ### Predicates -/

theorem putBit_getLsbD_ne {w k j : Nat} (x : BitVec w) (b : Bool) (h : j ≠ k) : (putBit x k b).getLsbD j = x.getLsbD j := by
  have hk : (1#w <<< k).getLsbD j = false := by
    simp only [BitVec.getLsbD_shiftLeft, BitVec.getLsbD_one]
    simp; omega
  unfold putBit
  split_ifs <;> simp [hk]
  intro h
  exact BitVec.lt_of_getLsbD h

theorem getLsbD_of_low {x y : BitVec 16} (h : x &&& 0x00FF = y &&& 0x00FF) {n : Nat} (hn : n < 8) : x.getLsbD n = y.getLsbD n := by
  have hm : (0x00FF#16).getLsbD n = true := by revert n; decide
  have := congrArg (fun z : BitVec 16 => z.getLsbD n) h
  simpa [BitVec.getLsbD_and, hm] using this

/-! ### What a group names -/

/-- What the executing slots of a group name: destinations, queues that they pop; that none is a command, and that no loop runs or
is started. -/
structure Named where
  dsts : List Dst
  pops : List (BitVec 4)
  quiet : Prop
  calm : Prop

/-- r is q but for the registers that a group names, its stream and its results in flight. -/
structure PrtFrame (N : Named) (q r : Partition) : Prop where
  ofile : ∀ j : BitVec 3, Dst.ofile j ∉ N.dsts → r.ofile.getD j.toNat .zero = q.ofile.getD j.toNat .zero
  port : ∀ u o, Dst.port u o ∉ N.dsts → (r.unit u).port o = (q.unit u).port o
  latch : ∀ u l, (r.unit u).latch l = (q.unit u).latch l
  pred : ∀ n, Dst.pred n ∉ N.dsts → n.toNat < 8 ∨ (N.calm ∧ q.loop.active = false) → r.pred n = q.pred n ∧ r.predPoison n = q.predPoison n
  view : ∀ v : BitVec 3, Dst.creg (0x100#12 ||| v.setWidth 12) ∉ N.dsts → r.view v = q.view v
  bt : ∀ b : BitVec 2, Dst.creg (0x108#12 ||| b.setWidth 12) ∉ N.dsts → Dst.trig (.brTgt b) ∉ N.dsts →
    r.bt.getD b.toNat 0 = q.bt.getD b.toNat 0
  rgn : Dst.creg 0x10C ∉ N.dsts → Dst.trig .syRgn ∉ N.dsts → r.rgnPc = q.rgnPc ∧ r.rgnWrem = q.rgnWrem
  rah : Dst.creg 0x10D ∉ N.dsts → Dst.trig .syRah ∉ N.dsts → r.rah = q.rah
  fpcsr : Dst.creg 0x10E ∉ N.dsts → r.rm = q.rm ∧ r.fpf = q.fpf
  pstat : Dst.creg 0x10F ∉ N.dsts → r.lcol = q.lcol ∧ r.xcol = q.xcol
  padv : Dst.creg 0x120 ∉ N.dsts → r.padv = q.padv
  mxpad : Dst.creg 0x121 ∉ N.dsts → r.mxpad = q.mxpad
  kvpad : Dst.creg 0x122 ∉ N.dsts → r.kvpad = q.kvpad
  kvpos : Dst.creg 0x123 ∉ N.dsts → r.kvpos = q.kvpos
  stack : noTrigger N.dsts (fun x => x = .brRet ∨ ∃ n, x = .brCall n) → r.stack = q.stack
  mops : noTrigger N.dsts (fun x => isGlobal x = true ∨ ∃ sc, x = .syMark sc) → N.quiet → r.mops = q.mops
  loop : N.calm → Dst.trig .syJoin ∉ N.dsts → q.loop.active = false → r.loop = q.loop
  active : N.calm → q.loop.active = false → r.loop.active = false
  joined : Dst.trig .syJoin ∉ N.dsts → r.joined = q.joined
  kept : r.xi = q.xi ∧ r.freq = q.freq ∧ r.store = q.store ∧ r.slen = q.slen ∧ r.fwd = q.fwd

theorem PrtFrame.refl (N : Named) (q : Partition) : PrtFrame N q q where
  ofile _ _ := rfl
  port _ _ _ := rfl
  latch _ _ := rfl
  pred _ _ _ := ⟨rfl, rfl⟩
  view _ _ := rfl
  bt _ _ _ := rfl
  rgn _ _ := ⟨rfl, rfl⟩
  rah _ _ := rfl
  fpcsr _ := ⟨rfl, rfl⟩
  pstat _ := ⟨rfl, rfl⟩
  padv _ := rfl
  mxpad _ := rfl
  kvpad _ := rfl
  kvpos _ := rfl
  stack _ := rfl
  mops _ _ := rfl
  loop _ _ _ := rfl
  active _ h := h
  joined _ := rfl
  kept := ⟨rfl, rfl, rfl, rfl, rfl⟩

theorem PrtFrame.trans {N : Named} {q r t : Partition} (h : PrtFrame N q r) (g : PrtFrame N r t) : PrtFrame N q t where
  ofile j hj := (g.ofile j hj).trans (h.ofile j hj)
  port u o ho := (g.port u o ho).trans (h.port u o ho)
  latch u l := (g.latch u l).trans (h.latch u l)
  pred n hn hl := by
    obtain ⟨h1, h2⟩ := h.pred n hn hl
    obtain ⟨g1, g2⟩ := g.pred n hn (hl.imp_right fun ⟨hc, ha⟩ => ⟨hc, h.active hc ha⟩)
    exact ⟨g1.trans h1, g2.trans h2⟩
  view v hv := (g.view v hv).trans (h.view v hv)
  bt b hb ht := (g.bt b hb ht).trans (h.bt b hb ht)
  rgn hc ht := ⟨(g.rgn hc ht).1.trans (h.rgn hc ht).1, (g.rgn hc ht).2.trans (h.rgn hc ht).2⟩
  rah hc ht := (g.rah hc ht).trans (h.rah hc ht)
  fpcsr hc := ⟨(g.fpcsr hc).1.trans (h.fpcsr hc).1, (g.fpcsr hc).2.trans (h.fpcsr hc).2⟩
  pstat hc := ⟨(g.pstat hc).1.trans (h.pstat hc).1, (g.pstat hc).2.trans (h.pstat hc).2⟩
  padv hc := (g.padv hc).trans (h.padv hc)
  mxpad hc := (g.mxpad hc).trans (h.mxpad hc)
  kvpad hc := (g.kvpad hc).trans (h.kvpad hc)
  kvpos hc := (g.kvpos hc).trans (h.kvpos hc)
  stack ht := (g.stack ht).trans (h.stack ht)
  mops ht hq := (g.mops ht hq).trans (h.mops ht hq)
  loop hc hj ha := (g.loop hc hj (h.active hc ha)).trans (h.loop hc hj ha)
  active hc ha := g.active hc (h.active hc ha)
  joined hj := (g.joined hj).trans (h.joined hj)
  kept := by
    obtain ⟨h1, h2, h3, h4, h5⟩ := h.kept
    obtain ⟨g1, g2, g3, g4, g5⟩ := g.kept
    exact ⟨g1.trans h1, g2.trans h2, g3.trans h3, g4.trans h4, g5.trans h5⟩

/-! ### What a group can change of its partition -/

section
variable (N : Named) (q : Partition)

theorem prtFrame_fly (l : List Fly) : PrtFrame N q { q with fly := l } := { PrtFrame.refl N q with }

theorem prtFrame_ofile {j : BitVec 3} (h : Dst.ofile j ∈ N.dsts) (x : Slot) : PrtFrame N q { q with ofile := q.ofile.set j.toNat x } :=
  { PrtFrame.refl N q with
    ofile := fun i hi => by
      have hij : i ≠ j := fun e => hi (e ▸ h)
      simp only [List.getD_eq_getElem?_getD, List.getElem?_set_ne fun e => hij (BitVec.eq_of_toNat_eq e.symm)] }

theorem prtFrame_port {u : UnitName} {o : PortSel} (h : Dst.port u o ∈ N.dsts) (x : Slot) :
    PrtFrame N q (q.setUnit u ((q.unit u).setPort o x)) :=
  { PrtFrame.refl N q with
    port := fun v i hi => by
      by_cases hv : v = u
      · subst hv
        have hio : i ≠ o := fun e => hi (e ▸ h)
        rcases unit_setUnit_or q v ((q.unit v).setPort o x) with e | e <;> rw [e]
        exact port_setPort_ne hio x
      · rw [unit_setUnit_ne hv]
    latch := fun v l => by
      by_cases hv : v = u
      · subst hv
        rcases unit_setUnit_or q v ((q.unit v).setPort o x) with e | e <;> rw [e]
        exact latch_setPort _ o x l
      · rw [unit_setUnit_ne hv] }

theorem prtFrame_setPred {k : BitVec 4} (h : Dst.pred k ∈ N.dsts) (b psn : Bool) : PrtFrame N q (q.setPred k b psn) := by
  unfold Partition.setPred
  split_ifs
  · exact .refl N q
  · exact { PrtFrame.refl N q with
      pred := fun n hn _ => by
        have hne : n.toNat ≠ k.toNat := fun e => hn (BitVec.eq_of_toNat_eq e ▸ h)
        simp only [Partition.pred, Partition.predPoison, putBit_getLsbD_ne _ _ hne, and_self] }

/-- The loop engine drives p8 to p15 of a loop that runs (R77, R180). -/
theorem prtFrame_drivePreds (hc : N.calm → q.loop.active = true) : PrtFrame N q q.drivePreds :=
  { PrtFrame.refl N q with
    pred := fun n _ hl => by
      have hn : n.toNat < 8 := hl.resolve_right fun ⟨h, ha⟩ => Bool.false_ne_true (ha.symm.trans (hc h))
      have hpsn : q.drivePreds.predPsn &&& 0x00FF = q.predPsn &&& 0x00FF := BitVec.and_assoc q.predPsn 0x00FF 0x00FF
      simp only [Partition.pred, Partition.predPoison, getLsbD_of_low (streamOnly_drivePreds q).low hn, getLsbD_of_low hpsn hn, and_self] }

end

/-! ### The end of the cycle -/

theorem endPass_predPsn (q : Partition) : q.endPass.predPsn &&& 0x00FF = q.predPsn &&& 0x00FF := by
  simp only [Partition.endPass]
  split_ifs
  · rfl
  · exact BitVec.and_assoc q.predPsn 0x00FF 0x00FF
  · rfl

theorem preemptLoop_predPsn (q : Partition) (was : Bool) : (q.preemptLoop was).predPsn = q.predPsn := by
  simp only [Partition.preemptLoop, Partition.stopLoop]
  split_ifs <;> rfl

theorem closeStream_preds (q : Partition) : q.closeStream.preds = q.preds ∧ q.closeStream.predPsn = q.predPsn := by
  unfold Partition.closeStream
  split_ifs <;> exact ⟨rfl, rfl⟩

theorem closeStream_loop (q : Partition) : q.closeStream.loop = if q.joined then .zero else q.loop := by
  unfold Partition.closeStream
  split_ifs <;> rfl

section
variable (q : Partition) (n : Nat) (was pre : Bool)

theorem closed_low_predPsn : (q.closed n was pre).predPsn &&& 0x00FF = q.predPsn &&& 0x00FF := by
  change ((q.countDown).endStream n was pre).predPsn &&& 0x00FF = _
  rw [endStream_eq, (closeStream_preds _).2]
  have h : ((q.countDown).stepped n was).endPass.predPsn &&& 0x00FF = q.predPsn &&& 0x00FF := endPass_predPsn _
  split_ifs
  · rw [preemptLoop_predPsn, h]
  · exact h

variable {q}

/-- Outside a loop the end of a cycle leaves the predicates, and the loop engine idle; but for a join it leaves that too. -/
theorem closed_outside (hl : q.loop.active = false) : (q.closed n false pre).preds = q.preds ∧ (q.closed n false pre).predPsn = q.predPsn ∧
    (q.closed n false pre).loop = if q.joined then .zero else q.loop := by
  have h : (q.closed n false pre).preds = ((q.countDown).endStream n false pre).preds ∧
      (q.closed n false pre).predPsn = ((q.countDown).endStream n false pre).predPsn ∧
      (q.closed n false pre).loop = ((q.countDown).endStream n false pre).loop := ⟨rfl, rfl, rfl⟩
  rw [endStream_outside (q := q.countDown) hl, (closeStream_preds _).1, (closeStream_preds _).2, closeStream_loop] at h
  exact h

/-- The end of a cycle is within the frame of every group that it ends. -/
theorem prtFrame_closed {N : Named} (hw : N.calm → was = false) (hj : Dst.trig .syJoin ∉ N.dsts → q.joined = false) :
    PrtFrame N q (q.closed n was pre) := by
  have hr := closed_registers q n was pre
  obtain ⟨r, hs, he⟩ := closed_same q n was pre
  exact { PrtFrame.refl N q with
    ofile := fun _ _ => by rw [hr.ofile]
    port := fun u _ _ => by rw [Partition.unit, closed_units]; rfl
    latch := fun u _ => by rw [Partition.unit, closed_units]; rfl
    pred := fun m _ hm => by
      unfold Partition.pred Partition.predPoison
      rcases hm with hm | ⟨hc, hl⟩
      · rw [getLsbD_of_low (closed_low_preds q n was pre) hm, getLsbD_of_low (closed_low_predPsn q n was pre) hm]
        exact ⟨rfl, rfl⟩
      · obtain ⟨h1, h2, -⟩ := closed_outside n pre hl
        rw [hw hc, h1, h2]
        exact ⟨rfl, rfl⟩
    view := fun _ _ => by rw [Partition.view, hr.views]; rfl
    bt := fun _ _ _ => by rw [hr.bt]
    rgn := fun _ _ => hr.rgn
    rah := fun _ _ => hr.rah
    fpcsr := fun _ => ⟨closed_rm .., closed_fpf ..⟩
    pstat := fun _ => hr.pstat
    padv := fun _ => hr.pads.1
    mxpad := fun _ => hr.pads.2.1
    kvpad := fun _ => hr.pads.2.2.1
    kvpos := fun _ => hr.pads.2.2.2
    stack := fun _ => hr.stack
    mops := fun _ _ => hr.mops
    loop := fun hc hjn hl => by rw [hw hc, (closed_outside n pre hl).2.2, hj hjn]; rfl
    active := fun hc hl => by
      rw [hw hc, (closed_outside n pre hl).2.2]
      cases q.joined
      · exact hl
      · rfl
    joined := fun _ => closed_joined ..
    kept := ⟨hr.xi, hr.freq, hr.store.1, hr.store.2, by rw [he, hs.same]; rfl⟩ }

end

end Sys2Proof.Machine
end

section
/-! What a group can change of its core's shared storage and of the core (R40, R68, R195, R228), by what its executing slots name. -/

namespace Sys2Proof.Machine

/-! ### What a group can change of its core -/

/-- j is h but for the bytes of the register space that a group names, the core store, macros and counts that its triggers and
control registers change, and the intervals of macros. -/
structure SharedFrame (N : Named) (view : BitVec 3 → Word) (h j : Shared) : Prop where
  reg : Dst.trig .syEvt ∉ N.dsts → ∀ b, (∀ v i, Dst.main v i ∈ N.dsts → ¬(viewAddr (view v) i.toNat ≤ b ∧
    b < viewAddr (view v) i.toNat + viewWidth (view v))) → Cells.byte j.reg b = Cells.byte h.reg b
  store : noTrigger N.dsts (fun x => ∃ u v, x = .ksSt u ∨ x = .ksStx u v) → StoreKept h j
  macros : noTrigger N.dsts (fun x => ∃ m, x = .mxMcfg m ∨ x = .mxBsw m) → MacrosKept h j
  counts : Dst.trig .syEvt ∉ N.dsts → (∀ n, Dst.creg n ∈ N.dsts → n.toNat < 0x130 ∨ 0x400 ≤ n.toNat) → CountsKept h j

/-- d is c but for its partitions, its shared storage and what a group puts in line. -/
structure CoreFrame (N : Named) (view : BitVec 3 → Word) (c d : Core) : Prop where
  sh : SharedFrame N view c.sh d.sh
  sh0 : d.sh0 = c.sh0
  l1 : d.l1 = c.l1
  semAdds : Dst.trig .sySema ∉ N.dsts → d.semAdds = c.semAdds
  semWrs : (∀ n, Dst.creg n ∈ N.dsts → 0x100 ≤ n.toNat) → d.semWrs = c.semWrs
  tagWrs : noTrigger N.dsts (fun x => ∃ op, x = .tg op) → d.tagWrs = c.tagWrs
  bktWr : Dst.trig .brBkt ∉ N.dsts → d.bktWr = c.bktWr
  xfly : (∀ m j, Dst.xo m j ∉ N.dsts) → d.xfly = c.xfly
  ops : N.quiet → d.ops = c.ops
  job : d.job = c.job ∧ d.evseq = c.evseq
  lock : Dst.trig .syLock ∉ N.dsts → d.lwait = c.lwait ∧ d.lpend = c.lpend
  locked : d.locked = c.locked

section
variable (N : Named) (view : BitVec 3 → Word)

theorem macrosKept_of_cims {h j : Shared} (hc : j.cims = h.cims) : MacrosKept h j := fun m => by
  rw [show j.cim m = h.cim m by rw [Shared.cim, hc]; rfl]
  exact ⟨rfl, rfl, rfl, rfl, rfl, rfl, rfl, rfl⟩

theorem CountsKept.refl (h : Shared) : CountsKept h h := ⟨rfl, rfl, ⟨rfl, rfl, rfl⟩, ⟨rfl, rfl⟩, rfl, rfl⟩

theorem CountsKept.trans {h j l : Shared} (a : CountsKept h j) (b : CountsKept j l) : CountsKept h l where
  sema := b.sema.trans a.sema
  rsc := b.rsc.trans a.rsc
  evq := ⟨b.evq.1.trans a.evq.1, b.evq.2.1.trans a.evq.2.1, b.evq.2.2.trans a.evq.2.2⟩
  ftb := ⟨b.ftb.1.trans a.ftb.1, b.ftb.2.trans a.ftb.2⟩
  gap := b.gap.trans a.gap
  scnt := b.scnt.trans a.scnt

theorem MacrosKept.refl (h : Shared) : MacrosKept h h := macrosKept_of_cims rfl

theorem MacrosKept.trans {h j l : Shared} (a : MacrosKept h j) (b : MacrosKept j l) : MacrosKept h l := fun m => by
  obtain ⟨a1, a2, a3, a4, a5, a6, a7, a8⟩ := a m
  obtain ⟨b1, b2, b3, b4, b5, b6, b7, b8⟩ := b m
  exact ⟨b1.trans a1, b2.trans a2, b3.trans a3, b4.trans a4, b5.trans a5, b6.trans a6, b7.trans a7, b8.trans a8⟩

theorem SharedFrame.refl (h : Shared) : SharedFrame N view h h :=
  ⟨fun _ _ _ => rfl, fun _ => ⟨rfl, rfl, rfl⟩, fun _ => .refl h, fun _ _ => .refl h⟩

variable {N view}

theorem SharedFrame.trans {h j l : Shared} (a : SharedFrame N view h j) (b : SharedFrame N view j l) : SharedFrame N view h l where
  reg he i hi := (b.reg he i hi).trans (a.reg he i hi)
  store hs := by
    obtain ⟨a1, a2, a3⟩ := a.store hs
    obtain ⟨b1, b2, b3⟩ := b.store hs
    exact ⟨b1.trans a1, b2.trans a2, b3.trans a3⟩
  macros hm := (a.macros hm).trans (b.macros hm)
  counts he hc := (a.counts he hc).trans (b.counts he hc)

theorem CoreFrame.ofShared {c : Core} {f : Shared → Shared} (h : SharedFrame N view c.sh (f c.sh)) : CoreFrame N view c (c.modSh f) :=
  ⟨h, rfl, rfl, fun _ => rfl, fun _ => rfl, fun _ => rfl, fun _ => rfl, fun _ => rfl, fun _ => rfl, ⟨rfl, rfl⟩, fun _ => ⟨rfl, rfl⟩, rfl⟩

variable (N view)

theorem CoreFrame.refl (c : Core) : CoreFrame N view c c := .ofShared (f := id) (.refl N view c.sh)

variable {N view}

theorem CoreFrame.trans {c d e : Core} (a : CoreFrame N view c d) (b : CoreFrame N view d e) : CoreFrame N view c e where
  sh := a.sh.trans b.sh
  sh0 := b.sh0.trans a.sh0
  l1 := b.l1.trans a.l1
  semAdds h := (b.semAdds h).trans (a.semAdds h)
  semWrs h := (b.semWrs h).trans (a.semWrs h)
  tagWrs h := (b.tagWrs h).trans (a.tagWrs h)
  bktWr h := (b.bktWr h).trans (a.bktWr h)
  xfly h := (b.xfly h).trans (a.xfly h)
  ops h := (b.ops h).trans (a.ops h)
  job := ⟨b.job.1.trans a.job.1, b.job.2.trans a.job.2⟩
  lock h := ⟨(b.lock h).1.trans (a.lock h).1, (b.lock h).2.trans (a.lock h).2⟩
  locked := b.locked.trans a.locked

end

/-! ### Shared storage -/

section
variable {N : Named} {view : BitVec 3 → Word} {h : Shared}

/-- A matrix unit changed in its intervals alone, and in what a trigger of the group that is named may change. -/
theorem sharedFrame_modCim {m : BitVec 3} {f : Cim → Cim}
    (hf : noTrigger N.dsts (fun x => ∃ m, x = .mxMcfg m ∨ x = .mxBsw m) → ∀ c, (f c).cfg = c.cfg ∧ (f c).p0 = c.p0 ∧ (f c).p1 = c.p1 ∧
      (f c).act = c.act ∧ (f c).pblk = c.pblk ∧ (f c).res = c.res ∧ (f c).res1 = c.res1 ∧ (f c).flag = c.flag) :
    SharedFrame N view h (h.modCim m f) where
  reg _ _ _ := rfl
  store _ := ⟨rfl, rfl, rfl⟩
  counts _ _ := ⟨rfl, rfl, ⟨rfl, rfl, rfl⟩, ⟨rfl, rfl⟩, rfl, rfl⟩
  macros hm n := by
    by_cases hn : n = m
    · subst hn
      by_cases hl : n.toNat < h.cims.length
      · have : (h.modCim n f).cim n = f (h.cim n) := by simp [Shared.cim, Shared.modCim, hl]
        rw [this]
        exact hf hm _
      · have : (h.modCim n f).cim n = h.cim n := by
          simp only [Shared.cim, Shared.modCim, List.set_eq_of_length_le (Nat.not_lt.1 hl)]
        rw [this]
        exact ⟨rfl, rfl, rfl, rfl, rfl, rfl, rfl, rfl⟩
    · have : (h.modCim m f).cim n = h.cim n := by
        simp only [Shared.cim, Shared.modCim, List.getD_eq_getElem?_getD,
          List.getElem?_set_ne fun e => hn (BitVec.eq_of_toNat_eq e.symm)]
      rw [this]
      exact ⟨rfl, rfl, rfl, rfl, rfl, rfl, rfl, rfl⟩

theorem sharedFrame_countIntervals (p : Nat) (mask : BitVec 8) : SharedFrame N view h (h.countIntervals p mask) where
  reg _ _ _ := rfl
  store _ := ⟨rfl, rfl, rfl⟩
  counts _ _ := ⟨rfl, rfl, ⟨rfl, rfl, rfl⟩, ⟨rfl, rfl⟩, rfl, rfl⟩
  macros _ n := by
    simp only [Shared.cim, Shared.countIntervals, List.getD_eq_getElem?_getD, List.getElem?_mapIdx]
    cases h.cims[n.toNat]? with
    | none => exact ⟨rfl, rfl, rfl, rfl, rfl, rfl, rfl, rfl⟩
    | some c =>
      simp only [Option.map_some, Option.getD_some]
      split_ifs <;> exact ⟨rfl, rfl, rfl, rfl, rfl, rfl, rfl, rfl⟩

/-- A write of an entry of a view that the group names. -/
theorem sharedFrame_main {v : BitVec 3} {i : BitVec 13} (hd : Dst.main v i ∈ N.dsts) (x : Nat) (psn : Bool) :
    SharedFrame N view h (regWrite h (viewAddr (view v) i.toNat) (viewWidth (view v)) x psn) where
  reg _ b hb := Cells.byte_write_outside _ _ _ _ _ (by have := hb v i hd; omega)
  store _ := ⟨rfl, rfl, rfl⟩
  macros _ := .refl h
  counts _ _ := ⟨rfl, rfl, ⟨rfl, rfl, rfl⟩, ⟨rfl, rfl⟩, rfl, rfl⟩

/-- An event that is taken changes the register space and the event queue, and no matrix unit. -/
theorem sharedFrame_event (hd : Dst.trig .syEvt ∈ N.dsts) (evq : List EvRec) (a n x : Nat) (psn : Bool) :
    SharedFrame N view h (regWrite { h with evq := evq } a n x psn) where
  reg hn := absurd hd hn
  store _ := ⟨rfl, rfl, rfl⟩
  macros _ := .refl h
  counts hn := absurd hd hn

theorem foldl_keeps {α β γ : Type} (f : α → β → α) (g : α → γ) (h : ∀ a b, g (f a b) = g a) (l : List β) (a : α) : g (l.foldl f a) = g a := by
  induction l generalizing a with
  | nil => rfl
  | cons b l ih => exact (ih _).trans (h a b)

/-- What is left of shared storage beside the core store and its tags. -/
def Shared.besideStore (h : Shared) : Shared := { h with cs := [], csPsn := [], tags := [] }

theorem csStore_besideStore (h : Shared) (a n x : Nat) : (csStore h a n x).besideStore = h.besideStore := by
  unfold csStore
  split_ifs
  · rfl
  · exact foldl_keeps (fun h sl => h.modTag sl TagEntry.stored) Shared.besideStore (fun _ _ => rfl) _ _

theorem ksScatter_besideStore (h : Shared) (w e t offs x : Nat) : (ksScatter h w e t offs x).besideStore = h.besideStore :=
  foldl_keeps _ Shared.besideStore (fun _ _ => csStore_besideStore ..) _ _

/-- A store into the core store changes nothing else of shared storage. -/
theorem sharedFrame_store {j : Shared} (hj : j.besideStore = h.besideStore)
    (hn : ¬noTrigger N.dsts (fun x => ∃ u v, x = .ksSt u ∨ x = .ksStx u v)) : SharedFrame N view h j := by
  have hf {α : Type} (g : Shared → α) (hg : ∀ h : Shared, g h.besideStore = g h) : g j = g h := by rw [← hg j, ← hg h, hj]
  exact {
    reg := fun _ _ _ => by rw [hf Shared.reg fun _ => rfl]
    store := fun h => absurd h hn
    macros := fun _ => macrosKept_of_cims (hf Shared.cims fun _ => rfl)
    counts := fun _ _ => ⟨hf Shared.sema fun _ => rfl, hf Shared.rsc fun _ => rfl,
      ⟨hf Shared.evq fun _ => rfl, hf Shared.evLost fun _ => rfl, hf Shared.evOvf fun _ => rfl⟩,
      ⟨hf Shared.ftb fun _ => rfl, hf Shared.fillptr fun _ => rfl⟩, hf Shared.gap fun _ => rfl, hf Shared.scnt fun _ => rfl⟩ }

end

end Sys2Proof.Machine
end

section
/-! The effects of triggers, control-register writes and commands, each within the frame of a group that names it (R57, R79, R148). -/

namespace Sys2Proof.Machine

/-! ### Cores and environments -/

/-- d is c but for what a group of partition p can change. -/
structure Core.Framed (N : Named) (view : BitVec 3 → Word) (p : Nat) (c d : Core) : Prop where
  len : d.prts.length = c.prts.length
  prt : PrtFrame N (c.prt p) (d.prt p)
  core : CoreFrame N view c d

/-- r is e but for what a group can change. -/
structure Env.Framed (N : Named) (e r : Env) : Prop where
  k : r.k = e.k
  p : r.p = e.p
  q0 : r.q0 = e.q0
  core : Core.Framed N e.q0.view e.p e.core r.core
  hq : ∀ n, (∀ m, hqIndex e.k m = n → Dst.hq m ∉ N.dsts ∧ m ∉ N.pops) → hqAt r.hq n = hqAt e.hq n

section
variable {N : Named} {view : BitVec 3 → Word} {p : Nat} {c d : Core}

theorem Core.Framed.trans {e : Core} (a : Core.Framed N view p c d) (b : Core.Framed N view p d e) : Core.Framed N view p c e :=
  ⟨b.len.trans a.len, a.prt.trans b.prt, a.core.trans b.core⟩

theorem framed_ofCore (hp : d.prts = c.prts) (h : CoreFrame N view c d) : Core.Framed N view p c d := by
  refine ⟨congrArg List.length hp, ?_, h⟩
  have : d.prt p = c.prt p := by simp only [Core.prt, hp]
  rw [this]
  exact .refl N _

theorem framed_modPrt {f : Partition → Partition} (h : PrtFrame N (c.prt p) (f (c.prt p))) : Core.Framed N view p c (c.modPrt p f) := by
  refine ⟨List.length_set, ?_, { CoreFrame.refl N view c with }⟩
  by_cases hp : p < c.prts.length
  · rw [prt_modPrt_same hp]
    exact h
  · rw [Core.modPrt, Core.setPrt, List.set_eq_of_length_le (Nat.not_lt.1 hp)]
    exact .refl N _

end

section
variable {N : Named} {e r : Env}

theorem Env.Framed.refl (N : Named) (e : Env) : e.Framed N e := ⟨rfl, rfl, rfl, framed_ofCore rfl (.refl N _ _), fun _ _ => rfl⟩

theorem Env.Framed.trans {t : Env} (a : e.Framed N r) (b : r.Framed N t) : e.Framed N t where
  k := b.k.trans a.k
  p := b.p.trans a.p
  q0 := b.q0.trans a.q0
  core := a.core.trans (by have h := b.core; rw [a.q0, a.p] at h; exact h)
  hq n hn := (b.hq n (a.k ▸ hn)).trans (a.hq n hn)

theorem framed_modQ {f : Partition → Partition} (h : PrtFrame N e.q (f e.q)) : e.Framed N (e.modQ f) :=
  ⟨rfl, rfl, rfl, framed_modPrt h, fun _ _ => rfl⟩

theorem framed_withCore {c : Core} (hp : c.prts = e.core.prts) (h : CoreFrame N e.q0.view e.core c) : e.Framed N { e with core := c } :=
  ⟨rfl, rfl, rfl, framed_ofCore hp h, fun _ _ => rfl⟩

theorem framed_modSh {f : Shared → Shared} (h : SharedFrame N e.q0.view e.core.sh (f e.core.sh)) : e.Framed N (e.modSh f) :=
  framed_withCore rfl (.ofShared h)

theorem framed_fw (e : Env) (f : Firmware) : e.Framed N { e with fw := f } := ⟨rfl, rfl, rfl, framed_ofCore rfl (.refl N _ _), fun _ _ => rfl⟩

/-- A queue that a group names takes whatever the group makes of it. -/
theorem framed_hq {m : BitVec 4} (h : Dst.hq m ∈ N.dsts ∨ m ∈ N.pops) (x : Handoff) : e.Framed N { e with hq := e.hq.set (hqIndex e.k m) x } where
  k := rfl
  p := rfl
  q0 := rfl
  core := framed_ofCore rfl (.refl N _ _)
  hq n hn := by
    have hne : hqIndex e.k m ≠ n := fun he => h.elim (hn m he).1 (hn m he).2
    simp only [hqAt, List.getD_eq_getElem?_getD, List.getElem?_set_ne hne]

/-! ### What a trigger changes -/

/-- The number of the next trigger is no part of the frame. -/
theorem framed_seq (e : Env) (n : Nat) : e.Framed N { e with core := { e.core with seq := n } } :=
  framed_withCore rfl { CoreFrame.refl N _ e.core with }

theorem framed_launch (e : Env) (u : UnitName) (m : BitVec 3) (y : Yield) : e.Framed N (e.launch u m y) := by
  unfold Env.launch
  exact (framed_modQ (prtFrame_fly N e.q _)).trans (framed_seq (e.modQ _) _)

theorem framed_markMx (e : Env) (m : BitVec 3) : e.Framed N (e.markMx m) := by
  unfold Env.markMx
  split_ifs
  · exact framed_withCore rfl { CoreFrame.refl N _ e.core with }
  · exact .refl N e

theorem framed_beginInterval (e : Env) (m : BitVec 3) : e.Framed N (e.beginInterval m) :=
  framed_modSh (sharedFrame_modCim fun _ _ => ⟨rfl, rfl, rfl, rfl, rfl, rfl, rfl, rfl⟩)

theorem framed_bld (e : Env) (m : BitVec 3) (x : Nat) (r : UnitRegs) (psn : Bool) : e.Framed N (e.bld m x r psn) :=
  Env.Framed.trans (r := e.modSh fun h => h.modCim m fun c => { c with bivl := ⟨true, 8, e.p⟩ })
    (framed_modSh (sharedFrame_modCim fun _ _ => ⟨rfl, rfl, rfl, rfl, rfl, rfl, rfl, rfl⟩)) (framed_launch _ ..)

theorem framed_poisonedLoad (e : Env) (t : Trigger) (w : Word) : e.Framed N (e.poisonedLoad t w) :=
  (framed_modQ (prtFrame_fly N e.q _)).trans (framed_seq (e.modQ _) _)

theorem framed_prefetch (e : Env) (va : Addr) : e.Framed N (e.prefetch va) := by
  unfold Env.prefetch
  split
  · exact framed_withCore rfl { CoreFrame.refl N _ e.core with }
  · exact .refl N e

theorem framed_transferTo (e : Env) (g : Pc) : e.Framed N (e.transferTo g) := framed_modQ { PrtFrame.refl N e.q with }

theorem framed_transferFar (e : Env) (n : Nat) : e.Framed N (e.transferFar n) :=
  (framed_transferTo e _).trans (framed_modQ { PrtFrame.refl N _ with })

theorem framed_call {n : BitVec 2} (h : Dst.trig (.brCall n) ∈ N.dsts) (e : Env) (x : Nat) : e.Framed N (e.call n x) :=
  (framed_transferTo e _).trans (framed_modQ { PrtFrame.refl N _ with stack := fun hs => absurd (.inr ⟨n, rfl⟩) (hs _ h) })

theorem framed_ret (h : Dst.trig .brRet ∈ N.dsts) (e : Env) : e.Framed N e.ret := by
  unfold Env.ret
  split
  · exact (framed_transferTo e _).trans (framed_modQ { PrtFrame.refl N _ with })
  · exact (framed_transferTo e _).trans (framed_modQ { PrtFrame.refl N _ with stack := fun hs => absurd (.inl rfl) (hs _ h) })
  · exact .refl N e

theorem framed_bucket (h : Dst.trig .brBkt ∈ N.dsts) (e : Env) (pc len : Nat) : e.Framed N (e.bucket pc len) := by
  unfold Env.bucket
  split
  · exact .refl N e
  · exact (framed_transferFar e _).trans (framed_withCore rfl { CoreFrame.refl N _ _ with bktWr := fun hn => absurd h hn })

theorem framed_leaveLock (e : Env) : e.Framed N e.leaveLock := by
  rw [leaveLock_eq]
  exact framed_withCore rfl { CoreFrame.refl N _ _ with }

theorem framed_mark {sc : Scope} (h : Dst.trig (.syMark sc) ∈ N.dsts) (e : Env) : e.Framed N (e.mark sc) :=
  (framed_modQ (f := fun q => { q with mops := q.mops ++ [e.markOp sc] })
    { PrtFrame.refl N _ with mops := fun hn _ => absurd (.inr ⟨sc, rfl⟩) (hn _ h) }).trans (framed_seq (e.modQ _) _)

theorem framed_takeEvent (h : Dst.trig .syEvt ∈ N.dsts) (e : Env) (x : Nat) : e.Framed N (e.takeEvent x) := by
  unfold Env.takeEvent
  split
  · exact framed_launch e ..
  · exact (framed_modSh (sharedFrame_event h ..)).trans (framed_launch _ ..)

/-- A loop that starts changes its engine, the place of the stream and the predicates that the engine drives (R180). -/
theorem framed_startLoop (hc : N.calm → Dst.trig .lpLoop ∉ N.dsts) (h : Dst.trig .lpLoop ∈ N.dsts) (e : Env) (a x n i : Nat) :
    e.Framed N (e.modQ fun q => q.startLoop a x n i) := by
  have hn : ¬N.calm := fun h' => hc h' h
  refine framed_modQ ?_
  unfold Partition.startLoop
  dsimp only
  split_ifs
  · exact { PrtFrame.refl N e.q with loop := fun h => absurd h hn, active := fun h => absurd h hn }
  · refine PrtFrame.trans (r := { e.q with loop := _ }) ?_ (prtFrame_drivePreds N _ fun h => absurd h hn)
    exact { PrtFrame.refl N e.q with loop := fun h => absurd h hn, active := fun h => absurd h hn }

theorem prtFrame_breakLoop (q : Partition) : PrtFrame N q q.breakLoop := by
  unfold Partition.breakLoop
  split_ifs with ha
  · exact { PrtFrame.refl N q with
      loop := fun _ _ h => absurd ha (by rw [h]; exact Bool.false_ne_true), active := fun _ h => h }
  · exact .refl N q

/-- An access enters the queues of its partition, and a trigger of it is one of gm or rw. -/
theorem isGlobal_of_form {t : Trigger} {f : GmForm} (h : trigGmForm t = some f) : isGlobal t = true := by
  cases t with
  | gmLd u | gmLdSm u | gmSt u | gmStSm u | gmAmo u | gmAmoFadd u | gmAmoNib u => cases u <;> rfl
  | rwWalk => rfl
  | _ => cases h

/-- An access enters the queues of its partition with an operation and, but for a store, a result in flight. -/
theorem enqueue_eq (e : Env) (t : Trigger) (f : GmForm) (x : Nat) (r : UnitRegs) : ∃ (o : MemOp) (g : Partition → List Fly),
    e.enqueue t f x r = { e.modQ fun q => { q with mops := q.mops ++ [o], fly := g q } with
      core := { e.core.modPrt e.p fun q => { q with mops := q.mops ++ [o], fly := g q } with seq := e.core.seq + 1 } } := by
  unfold Env.enqueue
  dsimp only
  exact ⟨_, fun q => if f.kind = .store then q.fly else q.fly ++ [_], rfl⟩

theorem framed_enqueue {t : Trigger} {f : GmForm} (h : Dst.trig t ∈ N.dsts) (hf : trigGmForm t = some f) (e : Env) (x : Nat) (r : UnitRegs) :
    e.Framed N (e.enqueue t f x r) := by
  have hm : ¬noTrigger N.dsts (fun x => isGlobal x = true ∨ ∃ sc, x = .syMark sc) := fun hn => hn t h (.inl (isGlobal_of_form hf))
  obtain ⟨o, g, he⟩ := enqueue_eq e t f x r
  rw [he]
  have hq : PrtFrame N e.q { e.q with mops := e.q.mops ++ [o], fly := g e.q } := { PrtFrame.refl N e.q with mops := fun hn => absurd hn hm }
  exact (framed_modQ (f := fun q => { q with mops := q.mops ++ [o], fly := g q }) hq).trans (framed_seq (e.modQ _) _)

end

/-! ### Triggers -/

section
variable {N : Named} {t : Trigger} (hc : N.calm → Dst.trig .lpLoop ∉ N.dsts) (h : Dst.trig t ∈ N.dsts) (e : Env)
include h

/-- The stores, settings and marks of a trigger that puts no result in flight. -/
theorem framed_fireOther (n x : Nat) (r : UnitRegs) (hc : N.calm → Dst.trig .lpLoop ∉ N.dsts) : e.Framed N (e.fireOther n t x r) := by
  have cim {m : BitVec 3} {f : Cim → Cim} (hm : ∃ m, t = .mxMcfg m ∨ t = .mxBsw m) : e.Framed N (e.modSh fun h => h.modCim m f) :=
    framed_modSh (sharedFrame_modCim fun hn => absurd hm (hn t h))
  have bare (d : Core) (hp : d.prts = e.core.prts) (hd : CoreFrame N e.q0.view e.core d) : e.Framed N { e with core := d } := framed_withCore hp hd
  unfold Env.fireOther
  dsimp only
  split
  case h_1 _ b =>
    refine framed_modQ { PrtFrame.refl N e.q with bt := fun i _ hi => ?_ }
    have hb : i ≠ b := fun e => hi (e ▸ h)
    simp only [List.getD_eq_getElem?_getD, List.getElem?_set_ne fun e => hb (BitVec.eq_of_toNat_eq e.symm)]
  case h_2 => exact framed_transferTo e _
  case h_3 => exact framed_call h e _
  case h_4 => exact framed_ret h e
  case h_5 => exact framed_bucket h e _ _
  case h_6 => exact framed_modQ { PrtFrame.refl N e.q with }
  case h_7 => exact framed_startLoop hc h e _ _ _ _
  case h_8 => exact framed_modQ (prtFrame_breakLoop e.q)
  case h_9 => exact bare _ rfl { CoreFrame.refl N _ e.core with semAdds := fun hn => absurd h hn }
  case h_10 => exact (framed_modQ { PrtFrame.refl N e.q with joined := fun hn => absurd h hn }).trans (framed_leaveLock _)
  case h_11 => exact bare _ rfl { CoreFrame.refl N _ e.core with lock := fun hn => absurd h hn }
  case h_12 => exact framed_leaveLock e
  case h_13 => exact framed_modQ { PrtFrame.refl N e.q with rgn := fun _ hn => absurd h hn }
  case h_14 => exact framed_mark h e
  case h_15 => exact framed_modQ { PrtFrame.refl N e.q with rah := fun _ hn => absurd h hn }
  case h_16 => exact framed_takeEvent h e x
  case h_17 _ u =>
    exact framed_modSh (sharedFrame_store (csStore_besideStore ..) fun hn => hn _ h ⟨u, .d, .inl rfl⟩)
  case h_18 _ u v =>
    exact framed_modSh (sharedFrame_store (ksScatter_besideStore ..) fun hn => hn _ h ⟨u, v, .inr rfl⟩)
  case h_19 _ m => exact (framed_bld e m x r false).trans (framed_markMx _ m)
  case h_20 _ m =>
    refine (framed_beginInterval e m).trans (.trans (framed_modSh (sharedFrame_modCim fun hn => ?_)) (framed_markMx _ m))
    exact absurd ⟨m, .inr rfl⟩ (hn _ h)
  case h_21 _ m => exact (cim ⟨m, .inl rfl⟩).trans (framed_markMx _ m)
  case h_22 => exact framed_prefetch e _
  case h_23 _ op =>
    split_ifs
    · exact framed_launch e ..
    · exact bare _ rfl { CoreFrame.refl N _ e.core with tagWrs := fun hn => absurd ⟨op, rfl⟩ (hn _ h) }
  case h_24 =>
    split
    · next f hf => exact framed_enqueue h hf e x r
    · exact .refl N e

theorem framed_fireClean (n x : Nat) (r : UnitRegs) (hc : N.calm → Dst.trig .lpLoop ∉ N.dsts) : e.Framed N (e.fireClean n t x r) := by
  unfold Env.fireClean
  split
  · exact (framed_beginInterval e _).trans ((framed_markMx _ _).trans (framed_launch _ ..))
  · split
    · exact framed_launch e ..
    · exact framed_fireOther h e n x r hc

omit h in
theorem framed_firePoisoned (x : Nat) (r : UnitRegs) (w : Word) : e.Framed N (e.firePoisoned t x r w) := by
  unfold Env.firePoisoned
  split
  · exact (framed_bld e _ x r true).trans (framed_markMx _ _)
  · exact (framed_beginInterval e _).trans ((framed_markMx _ _).trans (framed_launch _ ..))
  · exact framed_launch e ..
  · exact .refl N e
  · split
    · exact framed_poisonedLoad e ..
    · split
      · exact framed_launch e ..
      · exact .refl N e

theorem framed_fire (n : Nat) (d : Read) (hc : N.calm → Dst.trig .lpLoop ∉ N.dsts) : e.Framed N (e.fire n t d) := by
  unfold Env.fire
  dsimp only
  split
  · exact framed_firePoisoned e ..
  · exact framed_fireClean h e _ _ _ hc

end

/-! ### Destinations and commands -/

theorem cregNumber_view_eq (v : BitVec 3) : (0x100#12 ||| v.setWidth 12).toNat = 0x100 + v.toNat := by revert v; decide
theorem cregNumber_bucket_eq (b : BitVec 2) : (0x108#12 ||| b.setWidth 12).toNat = 0x108 + b.toNat := by revert b; decide

/-- A control register that a group names is written. -/
theorem framed_cregWrite {N : Named} {l : BitVec 12} (h : Dst.creg l ∈ N.dsts) (e : Env) (x : Word) : e.Framed N (e.cregWrite l.toNat x) := by
  have named {n : Nat} {i : BitVec 12} (hn : l.toNat = n) (hi : i.toNat = n) : Dst.creg i ∈ N.dsts :=
    BitVec.eq_of_toNat_eq (hn.trans hi.symm) ▸ h
  have count (hl : 0x130 ≤ l.toNat ∧ l.toNat < 0x400) : ¬∀ n, Dst.creg n ∈ N.dsts → n.toNat < 0x130 ∨ 0x400 ≤ n.toNat := fun hn => by
    have := hn l h
    omega
  have shared {f : Shared → Shared} (hl : 0x130 ≤ l.toNat ∧ l.toNat < 0x400)
      (hf : ∀ h : Shared, (f h).reg = h.reg ∧ StoreKept h (f h) ∧ (f h).cims = h.cims) :
      e.Framed N (e.modSh f) :=
    framed_modSh {
      reg := fun _ _ _ => by rw [(hf _).1]
      store := fun _ => (hf _).2.1
      macros := fun _ => macrosKept_of_cims (hf _).2.2
      counts := fun _ hn => absurd hn (count hl) }
  by_cases hevq : l.toNat = 0x140
  · rw [hevq, cregWrite_event]
    exact shared (by omega) fun h => by split_ifs <;> exact ⟨rfl, ⟨rfl, rfl, rfl⟩, rfl⟩
  unfold Env.cregWrite
  dsimp only
  split_ifs with h1 h2 h3 h4 h5 h6 h7 h8 h9
  · exact framed_withCore rfl { CoreFrame.refl N _ e.core with semWrs := fun hn => absurd (hn l h) (Nat.not_le.2 h1) }
  · refine framed_modQ { PrtFrame.refl N e.q with view := fun v hv => ?_ }
    have hne : l.toNat - 0x100 ≠ v.toNat := fun hl => hv (named (n := 0x100 + v.toNat) (by omega) (cregNumber_view_eq v))
    simp only [Partition.view, List.getD_eq_getElem?_getD, List.getElem?_set_ne hne]
  · refine framed_modQ { PrtFrame.refl N e.q with bt := fun b hb _ => ?_ }
    have hne : l.toNat - 0x108 ≠ b.toNat := fun hl => hb (named (n := 0x108 + b.toNat) (by omega) (cregNumber_bucket_eq b))
    simp only [List.getD_eq_getElem?_getD, List.getElem?_set_ne hne]
  · exact shared (by omega) fun _ => ⟨rfl, ⟨rfl, rfl, rfl⟩, rfl⟩
  · exact .refl N e
  · exact framed_fw e _
  · exact .refl N e
  · exact shared (by omega) fun _ => ⟨rfl, ⟨rfl, rfl, rfl⟩, rfl⟩
  · exact .refl N e
  all_goals
    split
    next hl => exact framed_modQ { PrtFrame.refl N e.q with rgn := fun hn => absurd (named hl rfl) hn }
    next hl => exact framed_modQ { PrtFrame.refl N e.q with rah := fun hn => absurd (named hl rfl) hn }
    next hl => exact framed_modQ { PrtFrame.refl N e.q with fpcsr := fun hn => absurd (named hl rfl) hn }
    next hl => exact framed_modQ { PrtFrame.refl N e.q with pstat := fun hn => absurd (named hl rfl) hn }
    next hl => exact framed_modQ { PrtFrame.refl N e.q with padv := fun hn => absurd (named hl rfl) hn }
    next hl => exact framed_modQ { PrtFrame.refl N e.q with mxpad := fun hn => absurd (named hl rfl) hn }
    next hl => exact framed_modQ { PrtFrame.refl N e.q with kvpad := fun hn => absurd (named hl rfl) hn }
    next hl => exact framed_modQ { PrtFrame.refl N e.q with kvpos := fun hn => absurd (named hl rfl) hn }
    next hl => exact absurd hl hevq
    · exact .refl N e

theorem framed_writeDst {N : Named} {d : Dst} (h : d ∈ N.dsts) (e : Env) (x : Read) : e.Framed N (e.writeDst x d) := by
  cases d with
  | main v i => exact framed_modSh (sharedFrame_main h ..)
  | ofile j => exact framed_modQ (prtFrame_ofile N e.q h _)
  | pred k => exact framed_modQ (prtFrame_setPred N e.q h _ _)
  | xo m j => exact framed_withCore rfl { CoreFrame.refl N _ e.core with xfly := fun hn => absurd h (hn m j) }
  | hq n => exact framed_hq (.inl h) _
  | creg l => exact framed_cregWrite h e _
  | port u o => exact framed_modQ (prtFrame_port N e.q h _)
  | sink => exact .refl N e
  | trig t => exact .refl N e

theorem framed_command {N : Named} (h : ¬N.quiet) (e : Env) (op : CmdOp) (f : CmdFields) : e.Framed N (e.command op f) :=
  (framed_modQ { PrtFrame.refl N e.q with mops := fun _ hn => absurd hn h }).trans
    (framed_withCore rfl { CoreFrame.refl N _ _ with ops := fun hn => absurd hn h })

/-! ### The slots of a group -/

/-- A value is written to a destination, in a group of n words. -/
def Env.writeTo (e : Env) (n : Nat) (x : Read) : Dst → Env
  | .trig t => e.fire n t x
  | d => e.writeDst x d

theorem writeItem_of_dst {d : Dst} : ∀ {it : Item}, slotDst it = some d → ∀ (e : Env) (n : Nat) (x : Read), e.writeItem n it x = e.writeTo n x d
  | ⟨_, _, _, .move _ d⟩, rfl, _, _, _ => by cases d <;> rfl
  | ⟨_, _, _, .imm _ d⟩, rfl, _, _, _ => by cases d <;> rfl

theorem writeItem_of_none {it : Item} (h : slotDst it = none) (e : Env) (n : Nat) (x : Read) : ∃ op f, e.writeItem n it x = e.command op f := by
  obtain ⟨_, _, _, act⟩ := it
  cases act with
  | cmd op f => exact ⟨op, f, rfl⟩
  | _ => cases h

/-- What a slot does is named: its destination, the queue that it pops, and that it is a command. -/
structure Named.Has (N : Named) (it : Item) : Prop where
  dst : ∀ d, slotDst it = some d → d ∈ N.dsts
  pop : ∀ n, slotPop it = some n → n ∈ N.pops
  cmd : slotDst it = none → ¬N.quiet

section
variable {N : Named} {it : Item} (h : N.Has it) (e : Env)
include h

theorem framed_readItem : e.Framed N (e.readItem it).1 := by
  unfold Env.readItem
  split
  · next src d ha =>
    cases src with
    | hq n => exact framed_hq (.inr (h.pop n (by rw [slotPop, ha]))) _
    | _ => exact .refl N e
  · exact .refl N e
  · exact .refl N e

theorem framed_writeItem (n : Nat) (x : Read) (hc : N.calm → Dst.trig .lpLoop ∉ N.dsts) : e.Framed N (e.writeItem n it x) := by
  cases hd : slotDst it with
  | some d =>
    rw [writeItem_of_dst hd]
    cases d with
    | trig t => exact framed_fire (h.dst _ hd) e n x hc
    | _ => exact framed_writeDst (h.dst _ hd) e x
  | none =>
    obtain ⟨op, f, hw⟩ := writeItem_of_none hd e n x
    rw [hw]
    exact framed_command (h.cmd hd) e op f

end

theorem framed_readItems {N : Named} : ∀ {its : List Item}, (∀ it ∈ its, N.Has it) → ∀ e : Env, e.Framed N (e.readItems its).1
  | [], _, _ => .refl N _
  | it :: _, h, e =>
    (framed_readItem (h it List.mem_cons_self) e).trans (framed_readItems (fun _ hi => h _ (List.mem_cons_of_mem it hi)) _)

theorem readItems_fst : ∀ (its : List Item) (e : Env), (e.readItems its).2.map Prod.fst = its
  | [], _ => rfl
  | it :: its, _ => congrArg (it :: ·) (readItems_fst its _)

theorem framed_writeItems {N : Named} (hc : N.calm → Dst.trig .lpLoop ∉ N.dsts) (n : Nat) :
    ∀ {its : List (Item × Read)}, (∀ it ∈ its.map Prod.fst, N.Has it) → ∀ e : Env, e.Framed N (e.writeItems n its)
  | [], _, _ => .refl N _
  | (it, x) :: _, h, e =>
    (framed_writeItem (h it List.mem_cons_self) e n x hc).trans
      (framed_writeItems hc n (fun _ hi => h _ (List.mem_cons_of_mem it hi)) _)

/-- What the executing slots of a group name in a partition. -/
def namedBy (q : Partition) (g : Group) : Named :=
  ⟨dstsOf q g, popsOf q g, noCommand q g, Dst.trig .lpLoop ∉ dstsOf q g ∧ q.loop.active = false⟩

theorem namedBy_has (q : Partition) (g : Group) : ∀ it ∈ executed q g, (namedBy q g).Has it := fun it hi =>
  ⟨fun _ hd => List.mem_filterMap.2 ⟨it, hi, hd⟩, fun _ hn => List.mem_filterMap.2 ⟨it, hi, hn⟩, fun hd hq => hq it hi hd⟩

theorem framed_perform (e : Env) (g : Group) : e.Framed (namedBy e.q0 g) (e.perform g) := by
  have hh := namedBy_has e.q0 g
  have hr := framed_readItems hh e
  have hw : e.Framed (namedBy e.q0 g) ((e.readItems (executed e.q0 g)).1.writeItems g.len (e.readItems (executed e.q0 g)).2) :=
    hr.trans (framed_writeItems (N := namedBy e.q0 g) And.left g.len (by rw [readItems_fst]; exact hh) _)
  unfold Env.perform
  dsimp only
  split_ifs with hs
  · exact hw.trans (framed_modQ (prtFrame_drivePreds _ _ fun _ => (Bool.and_eq_true_iff.1 hs).1))
  · exact hw

end Sys2Proof.Machine
end

section
/-! Groups as a whole: their cycle's end, stalls, traps on user and firmware cores, and the frame that every outcome keeps (R42, R78, R342,
R363). -/

namespace Sys2Proof.Machine

/-! ### Groups -/

section
variable {N : Named} {view : BitVec 3 → Word} {p : Nat} {c : Core}

theorem framed_endRefill : Core.Framed N view p c (c.endRefill p) := framed_ofCore rfl { CoreFrame.refl N view c with }

theorem framed_countIntervals (mask : BitVec 8) : Core.Framed N view p c (c.modSh fun h => h.countIntervals p mask) :=
  framed_ofCore rfl (.ofShared (sharedFrame_countIntervals p mask))

theorem framed_endCycle {n : Nat} {was : Bool} (hw : N.calm → was = false) (hj : Dst.trig .syJoin ∉ N.dsts → (c.prt p).joined = false) :
    Core.Framed N view p c (c.endCycle p n was) :=
  (framed_modPrt (f := fun q => q.closed n was c.preempting) (prtFrame_closed n was _ hw hj)).trans
    (framed_endRefill.trans (framed_countIntervals 0xFF))

theorem framed_miss (va : Addr) (kind : AccKind) : Core.Framed N view p c ((c.miss p va kind).getD c) := by
  unfold Core.miss
  split
  · exact framed_ofCore rfl { CoreFrame.refl N view c with }
  · split_ifs
    · exact framed_ofCore rfl { CoreFrame.refl N view c with }
    · exact framed_ofCore rfl (.refl N view c)

theorem framed_stall (v : Verdict) : Core.Framed N view p c (c.stall p v) := by
  unfold Core.stall
  dsimp only
  have hm {f : Partition → Partition} (hf : PrtFrame N (c.prt p) (f (c.prt p))) (b : Bool) (mask : BitVec 8) :
      Core.Framed N view p c (if b then (c.modPrt p f).modSh fun h => h.countIntervals p mask else c.modPrt p f) := by
    split_ifs
    · exact (framed_modPrt hf).trans (framed_countIntervals mask)
    · exact framed_modPrt hf
  split
  · exact (hm { PrtFrame.refl N _ with } _ _).trans (framed_miss _ _)
  · exact hm { PrtFrame.refl N _ with } _ _

theorem framed_trap (k : Nat) (cause : BitVec 8) (i1 i2 : Word) (pc : Pc) : Core.Framed N view p c (c.trap k p cause i1 i2 pc) :=
  (framed_modPrt (f := fun q => q.trapped ⟨cause, i1, i2, pc⟩) { PrtFrame.refl N _ with }).trans
    (framed_ofCore rfl { CoreFrame.refl N view _ with })

end

/-! ### Traps on the firmware core (R363) -/

/-- A core whose helper dies and whose partition p looks anew for what failed. -/
def Core.dropHelper (c : Core) (p : Nat) : Core := { c.killHelper with refillFault := c.refillFault.filter fun f => f.1 != p }

/-- A partition that has trapped while the firmware core halts. -/
def Partition.halted (q : Partition) (x : TrapInfo) : Partition :=
  { q with trap := some x, swtrap := none, stalled := true, qwait := none, probed := false, spill := .idle }

/-- A trap comes at a partition's turn. -/
def State.inTurn (s : State) : Bool := match s.phase with | .prt _ _ => true | _ => false

/-- The firmware registers that a trap tests (R79). -/
def State.trapFw (s : State) : Firmware := if s.inTurn then s.fw0 else s.fw

/-- A trap of partition p halts the firmware core: no vector, or a record of it that stands. -/
def Firmware.haltsOn (f : Firmware) (p : Nat) : Prop := f.fwtvec = 0 ∨ (fld f.rec0 60 4 = 0xF ∧ fld f.rec0 56 4 = p)

/-- Partition p of the firmware core begins its transfer, and in its turn counts its intervals. -/
def Core.enterVector (c : Core) (p : Nat) (f : Firmware) (turn : Bool) : Core :=
  let c := c.modPrt p fun q => q.trapTo (BitVec.ofNat 13 (fld f.fwtvec 2 13)) turn
  if turn then c.modSh fun h => h.countIntervals p 0xFF else c

section
variable {s : State} {p : Nat} {cause : BitVec 8} {i1 i2 : Word} {pc : Pc}

theorem fwTrap_halts (h : s.trapFw.haltsOn p) : s.fwTrap p cause i1 i2 pc =
    { (s.modCore 0 fun c => c.dropHelper p).modPrt 0 p (·.halted ⟨cause, i1, i2, pc⟩) with dev := { s.dev with fwhalt := true } } := if_pos h

theorem fwTrap_enters (h : ¬s.trapFw.haltsOn p) : s.fwTrap p cause i1 i2 pc =
    { (s.modCore 0 fun c => c.dropHelper p).modCore 0 fun c => c.enterVector p s.trapFw s.inTurn with
      fw := { s.fw with
        rec0 := (trapRecord 0 p (s.core 0) cause i1 i2 pc).dw0, rec1 := (trapRecord 0 p (s.core 0) cause i1 i2 pc).dw1,
        rec2 := (trapRecord 0 p (s.core 0) cause i1 i2 pc).dw2, rec3 := (trapRecord 0 p (s.core 0) cause i1 i2 pc).dw3 } } := if_neg h

end

/-! ### States -/

/-- t is s but for what a group of partition p of core k can change. -/
structure State.Framed (N : Named) (view : BitVec 3 → Word) (k p : Nat) (s t : State) : Prop where
  core : Core.Framed N view p (s.core k) (t.core k)
  hq : ∀ n, (∀ m, hqIndex k m = n → Dst.hq m ∉ N.dsts ∧ m ∉ N.pops) → hqAt (t.cluster (cluOf k)).hq n = hqAt (s.cluster (cluOf k)).hq n
  mem : t.mem = s.mem

section
variable {N : Named} {view : BitVec 3 → Word} {k p : Nat} {s : State}

theorem State.Framed.refl (s : State) : State.Framed N view k p s s := ⟨framed_ofCore rfl (.refl N _ _), fun _ _ => rfl, rfl⟩

theorem State.Framed.trans {t u : State} (a : State.Framed N view k p s t) (b : State.Framed N view k p t u) : State.Framed N view k p s u :=
  ⟨a.core.trans b.core, fun n hn => (b.hq n hn).trans (a.hq n hn), b.mem.trans a.mem⟩

theorem stateFramed_modCore {f : Core → Core} (h : Core.Framed N view p (s.core k) (f (s.core k))) : State.Framed N view k p s (s.modCore k f) := by
  refine ⟨?_, fun _ _ => rfl, rfl⟩
  by_cases hk : k < s.cores.length
  · rw [core_modCore_same hk]
    exact h
  · have : (s.modCore k f).core k = s.core k := by
      simp only [State.core, State.modCore, State.setCore, List.set_eq_of_length_le (Nat.not_lt.1 hk)]
    rw [this]
    exact framed_ofCore rfl (.refl N _ _)

theorem prtFrame_trapTo (q : Partition) (target : Pc) (turn : Bool) : PrtFrame N q (q.trapTo target turn) := by
  have idle : q.loop.active = false → { q.loop with active := false } = q.loop := fun h => by rw [← h]
  cases turn <;> exact { PrtFrame.refl N q with loop := fun _ _ h => idle h, active := fun _ _ => rfl }

theorem prtFrame_halted (q : Partition) (x : TrapInfo) : PrtFrame N q (q.halted x) := { PrtFrame.refl N q with }

/-- A trap on the firmware core is within the frame of every group (R363). -/
theorem stateFramed_fwTrap (cause : BitVec 8) (i1 i2 : Word) (pc : Pc) : State.Framed N view 0 p s (s.fwTrap p cause i1 i2 pc) := by
  have hdrop : State.Framed N view 0 p s (s.modCore 0 fun c => c.dropHelper p) :=
    stateFramed_modCore (framed_ofCore rfl { CoreFrame.refl N view (s.core 0) with })
  have puts {u t : State} (h : State.Framed N view 0 p u t) (d : Device) (fw : Firmware) : State.Framed N view 0 p u { t with dev := d, fw := fw } :=
    ⟨h.core, h.hq, h.mem⟩
  by_cases hh : s.trapFw.haltsOn p
  · rw [fwTrap_halts hh]
    exact hdrop.trans (puts (stateFramed_modCore (framed_modPrt (prtFrame_halted _ _))) _ _)
  · rw [fwTrap_enters hh]
    refine hdrop.trans (puts (stateFramed_modCore ?_) _ _)
    unfold Core.enterVector
    split_ifs
    · exact (framed_modPrt (prtFrame_trapTo _ _ _)).trans (framed_countIntervals _)
    · exact framed_modPrt (prtFrame_trapTo _ _ _)

theorem stateFramed_takeTrap (cause : BitVec 8) (i1 i2 : Word) (pc : Pc) : State.Framed N view k p s (s.takeTrap k p cause i1 i2 pc) := by
  unfold State.takeTrap
  split_ifs with h
  · rw [beq_iff_eq.1 h]
    exact stateFramed_fwTrap cause i1 i2 pc
  · exact stateFramed_modCore (framed_trap k cause i1 i2 pc)

theorem stateFramed_withEnv {e : Env} (h : (s.env k p).Framed N e) : State.Framed N ((s.core k).prt p).view k p s (s.withEnv e) := by
  obtain ⟨hk, -, -, hc, hq⟩ := h
  obtain ⟨rfl⟩ : e.k = k := hk
  refine ⟨?_, fun n hn => ?_, rfl⟩
  · by_cases hl : e.k < s.cores.length
    · rw [core_withEnv_same hl]
      exact hc
    · have : (s.withEnv e).core e.k = s.core e.k := by
        simp only [State.withEnv, State.core, State.setCore, State.modCluster, List.set_eq_of_length_le (Nat.not_lt.1 hl)]
      rw [this]
      exact framed_ofCore rfl (.refl N _ _)
  · by_cases hl : cluOf e.k < s.clusters.length
    · have : ((s.withEnv e).cluster (cluOf e.k)).hq = e.hq := by
        simp [State.withEnv, State.cluster, State.setCore, State.modCluster, hl]
      rw [this]
      exact hq n hn
    · have : (s.withEnv e).cluster (cluOf e.k) = s.cluster (cluOf e.k) := by
        simp only [State.withEnv, State.cluster, State.setCore, State.modCluster, List.set_eq_of_length_le (Nat.not_lt.1 hl)]
      rw [this]

end

/-- What a group at its partition's turn can come to: nothing, a trap, a stall, or its issue. -/
theorem issueGroup_cases (s : State) (k p : Nat) (g : Group) : ∃ u, s.issueGroup k p g = u.nextTurn k p ∧
    (u = s ∨ (∃ cause i1 i2, u = s.takeTrap k p cause i1 i2 ((s.core k).prt p).pc) ∨ (∃ v, u = s.modCore k fun c => c.stall p v) ∨
      (s.canIssue k p = true ∧ u = s.withEnv ((s.env k p).issue g))) := by
  unfold State.issueGroup
  refine ⟨_, rfl, ?_⟩
  by_cases hc : s.canIssue k p = false
  · rw [if_pos hc]
    exact .inl rfl
  · rw [if_neg hc]
    cases firstCause ((s.env k p).verdict g).causes with
    | some c =>
      by_cases hh : (s.env k p).core.held p = true
      · exact .inl (if_pos hh)
      · exact .inr (.inl ⟨_, _, _, if_neg hh⟩)
    | none =>
      dsimp only
      split_ifs
      · exact .inr (.inr (.inl ⟨_, rfl⟩))
      · exact .inl rfl
      · exact .inr (.inr (.inr ⟨by simpa using hc, rfl⟩))

theorem framed_idle {N : Named} (e : Env) (n : Nat) : e.Framed N (e.modQ fun q => { q with idle := n }) :=
  framed_modQ { PrtFrame.refl N e.q with }

theorem framed_issue {e : Env} {g : Group} (hq : e.q = e.q0) (hj : e.q0.joined = false) : e.Framed (namedBy e.q0 g) (e.issue g) := by
  have hp := framed_perform e g
  have hi : e.Framed (namedBy e.q0 g) ((e.perform g).modQ fun q => { q with idle := groupIdle g }) :=
    hp.trans (framed_idle _ _)
  unfold Env.issue
  dsimp only
  generalize (e.perform g).modQ (fun q => { q with idle := groupIdle g }) = r at hi ⊢
  have hend : Core.Framed (namedBy e.q0 g) e.q0.view e.p r.core (r.core.endCycle e.p g.len e.q0.loop.active) :=
    framed_endCycle (fun hcalm => hcalm.2) fun hn => (hi.core.prt.joined hn).trans ((congrArg Partition.joined hq).trans hj)
  exact ⟨hi.k, hi.p, hi.q0, hi.core.trans hend, hi.hq⟩

/-- A group at its partition's turn changes no more than its frame (R78, R342). -/
theorem stateFramed_issueGroup (s : State) (k p : Nat) (g : Group) :
    State.Framed (namedBy ((s.core k).prt p) g) ((s.core k).prt p).view k p s (s.issueGroup k p g) := by
  obtain ⟨u, hu, h⟩ := issueGroup_cases s k p g
  have next (hf : State.Framed (namedBy ((s.core k).prt p) g) ((s.core k).prt p).view k p s u) :
      State.Framed (namedBy ((s.core k).prt p) g) ((s.core k).prt p).view k p s (u.nextTurn k p) := ⟨hf.core, hf.hq, hf.mem⟩
  rw [hu]
  refine next ?_
  rcases h with rfl | ⟨cause, i1, i2, rfl⟩ | ⟨v, rfl⟩ | ⟨hc, rfl⟩
  · exact .refl u
  · exact stateFramed_takeTrap cause i1 i2 _
  · exact stateFramed_modCore (framed_stall v)
  · exact stateFramed_withEnv (framed_issue (e := s.env k p) rfl (canIssue_iff.1 hc).2.1)

/-- Settles O51: whatever a group comes to at its turn is within its frame (stateFramed_issueGroup), clause by clause. -/
theorem groupFrame : Obligations.GroupFrame := by
  unfold Obligations.GroupFrame
  intro i g s t k p hi hph hs ht c q d r D reg not hq
  have he : t = s.issueGroup k p g := by
    rw [exec_group hi, execGroup_turn hph] at ht
    exact (Host.Outcome.next.inj ht).symm
  obtain ⟨⟨-, prt, core⟩, hqs, hmem⟩ := stateFramed_issueGroup s k p g
  rw [← he] at prt core hqs hmem
  have sh := core.sh
  obtain ⟨hxi, hfreq, hstore, hslen, hfwd⟩ := prt.kept
  exact ⟨prt.ofile, prt.port, prt.latch, fun n hn hl => prt.pred n hn (hl.imp_right fun h => ⟨h, h.2⟩), prt.view, prt.bt, prt.rgn, prt.rah,
    prt.fpcsr, prt.pstat, prt.padv, prt.mxpad, prt.kvpad, prt.kvpos, prt.stack, prt.mops, fun hl hj ha => prt.loop ⟨hl, ha⟩ hj ha,
    hxi, hfreq, hstore, hslen, hfwd, hmem, core.sh0, core.l1, sh.reg, sh.store, sh.macros, sh.counts, core.semAdds, core.semWrs, core.tagWrs,
    core.bktWr, core.xfly, core.ops, core.job.1, core.job.2, core.lock, core.locked, hqs⟩

end Sys2Proof.Machine
end

section
/-! The words that the spec writes out (R78, R138 to R145, R152): decoding them is a computation. -/

namespace Sys2Proof.Machine

/-- Settles O58: each word is decoded. -/
theorem decodeSamples : Obligations.DecodeSamples := by
  unfold Obligations.DecodeSamples
  exact ⟨rfl, rfl, rfl, rfl, rfl, rfl, rfl, rfl, rfl, rfl, rfl, rfl⟩

end Sys2Proof.Machine
end


section
/-! Handoff queues that wait (R75, R402, R408, R409): when an entry becomes visible, when a token is sent, and what one that
returns over a cycle leaves; no cycle of waits is without a full port. -/

namespace Sys2Proof.Machine

/-! ### Queues of a cluster -/

theorem hqAt_modify_same {l : List Handoff} {i : Nat} (h : i < l.length) (f : Handoff → Handoff) : hqAt (l.modify i f) i = f (hqAt l i) := by
  simp [hqAt, h]

theorem hqAt_modify_ne {l : List Handoff} {i j : Nat} (h : j ≠ i) (f : Handoff → Handoff) : hqAt (l.modify i f) j = hqAt l j := by
  simp [hqAt, h.symm]

/-- A cluster with one of its queues changed. -/
def State.modHq (s : State) (c i : Nat) (f : Handoff → Handoff) : State := s.modCluster c fun y => { y with hq := y.hq.modify i f }

section
variable {s : State} {c i : Nat} {f : Handoff → Handoff}

theorem hqAt_modHq_same (hc : c < s.clusters.length) (hi : i < (s.cluster c).hq.length) :
    hqAt ((s.modHq c i f).cluster c).hq i = f (hqAt (s.cluster c).hq i) := by
  rw [State.modHq, cluster_modCluster_same hc]
  exact hqAt_modify_same hi f

theorem hqAt_modHq_ne (hc : c < s.clusters.length) {j : Nat} (hj : j ≠ i) : hqAt ((s.modHq c i f).cluster c).hq j = hqAt (s.cluster c).hq j := by
  rw [State.modHq, cluster_modCluster_same hc]
  exact hqAt_modify_ne hj f

end

/-! ### Entries that become visible -/

section
variable {h : Handoff} {xs ys : List HqEntry} {y : HqEntry} (he : h.ents = xs ++ y :: ys) (hx : ∀ x ∈ xs, x.vis = true) (hy : y.vis = false)
include he hx hy

theorem nextAge_split : h.nextAge = some y.age := by
  have hn : xs.find? (fun e => !e.vis) = none := List.find?_eq_none.2 fun x hm => by simp [hx x hm]
  rw [Handoff.nextAge, he, List.find?_append, hn, List.find?_cons, hy]
  rfl

theorem reveal_split : h.reveal.ents = xs ++ { y with vis := true } :: ys := by
  have hv : h.visible = xs.length := by
    rw [Handoff.visible, he, List.takeWhile_append_of_pos hx, List.takeWhile_cons_of_neg (by rw [hy]; exact Bool.false_ne_true),
      List.append_nil]
  refine List.ext_getElem? fun n => ?_
  simp only [Handoff.reveal, hv, he, List.getElem?_mapIdx]
  rcases Nat.lt_trichotomy n xs.length with hn | rfl | hn
  · simp [List.getElem?_append_left hn, Nat.ne_of_lt hn]
  · simp
  · obtain ⟨m, rfl⟩ : ∃ m, n = xs.length + (m + 1) := ⟨n - xs.length - 1, by omega⟩
    simp [List.getElem?_append_right]

end

/-! ### The record of a deadlock -/

/-- The region in which a deadlock is logged that a party's token has found (R402). -/
def State.deadlockRegion (s : State) : Party → Nat
  | .partition k _ => match (s.core k).job with | some j => descRegion j.desc | none => 0
  | .codec c => match (s.core (8 * c + 7)).ops.find? fun o => o.popping with | some o => s.opRegion (8 * c + 7) o | none => 0

/-- The job that its record names. -/
def State.deadlockJob (s : State) : Party → BitVec 32
  | .partition k _ => match (s.core k).job with | some j => descJob j.desc | none => 0
  | .codec c => match (s.core (8 * c + 7)).ops.find? fun o => o.popping with | some o => o.job | none => 0

/-- Every stream that a graph in flight names is one of the stream table (R286). -/
def State.StreamsNamed (s : State) : Prop := ∀ g ∈ s.sched.graphs, ∀ j, g.stream = some j → j < 1024

theorem graphTag_named {s : State} (h : s.StreamsNamed) (i n : Nat) (hn : (s.graphTag i).1 = some n) : n < 1024 := by
  cases hg : s.graph? i with
  | none =>
    rw [State.graphTag, hg] at hn
    exact absurd hn.symm (Option.some_ne_none n)
  | some g => exact graphTag_stream hg (h g (List.mem_of_find?_eq_some hg)) hn

theorem logDeadlock_eq (s : State) (x : Party) (sub : Nat) : ∃ st tag, (s.StreamsNamed → ∀ n, st = some n → n < 1024) ∧
    s.logDeadlock x sub = s.logFailure (s.deadlockRegion x) 8 sub st tag (s.deadlockJob x) := by
  cases x with
  | partition k p =>
    unfold State.logDeadlock State.deadlockRegion State.deadlockJob
    dsimp only
    cases (s.core k).job with
    | none => exact ⟨none, 0, fun _ _ hn => absurd hn.symm (Option.some_ne_none _), rfl⟩
    | some j => exact ⟨_, _, fun h n => graphTag_named h j.inst n, rfl⟩
  | codec c =>
    unfold State.logDeadlock State.deadlockRegion State.deadlockJob
    dsimp only
    cases (s.core (8 * c + 7)).ops.find? fun o => o.popping with
    | none => exact ⟨none, 0, fun _ _ hn => absurd hn.symm (Option.some_ne_none _), rfl⟩
    | some o => exact ⟨_, _, fun h n => graphTag_named h (s.instOf o.job) n, rfl⟩

theorem fld_flogDw1_seq (job q : BitVec 32) : fld (at' 32 job.toNat ||| q.setWidth 64) 0 32 = q.toNat := by
  have hq := q.isLt
  have ha : fld (at' 32 job.toNat) 0 32 = 0 := by
    rw [fld, at', BitVec.toNat_ofNat, Nat.pow_zero, Nat.div_one]
    omega
  rw [fld_or, ha, Nat.zero_or, fld, BitVec.toNat_setWidth_of_le (by decide), Nat.pow_zero, Nat.div_one, Nat.mod_eq_of_lt hq]

/-- A deadlock that is logged has its record in the region of its job, and the region counts it (R401, R402). -/
theorem logDeadlock_logs {s : State} {x : Party} {sub : Nat} (hsub : sub < 2) (hl : s.deadlockRegion x < s.dev.flog.length)
    (hq : s.deadlockRegion x < s.dev.flogseq.length) (hg : s.StreamsNamed) :
    (s.logDeadlock x sub).dev.flogseq.getD (s.deadlockRegion x) 0 = s.dev.flogseq.getD (s.deadlockRegion x) 0 + 1 ∧
      ∃ r ∈ (s.logDeadlock x sub).dev.flog.getD (s.deadlockRegion x) [], fld r.dw0 56 8 = 8 ∧ fld r.dw0 48 8 = sub ∧
        fld r.dw1 0 32 = (s.dev.flogseq.getD (s.deadlockRegion x) 0).toNat ∧ fld r.dw1 32 32 = (s.deadlockJob x).toNat := by
  obtain ⟨st, tag, hst, he⟩ := logDeadlock_eq s x sub
  rw [he]
  refine ⟨flogseq_logFailure_same hq .., _, flog_logFailure hl .., ?_, ?_, fld_flogDw1_seq .., fld_flogDw1 ..⟩
  · rw [fld_flogDw0 (hst hg) tag (by decide)]
    interval_cases sub <;> decide
  · rw [fld_flogDw0 (hst hg) tag (by decide)]
    interval_cases sub <;> decide

/-- A record in the failure log is all that a deadlock's leaves. -/
theorem logDeadlock_dev (s : State) (x : Party) (sub : Nat) : ∃ d, s.logDeadlock x sub = { s with dev := d } := by
  obtain ⟨st, tag, -, he⟩ := logDeadlock_eq s x sub
  exact ⟨_, he⟩

/-! ### Cycles of waits -/

/-- How far a party that waits for entries is from those that push: an engine waits for the F-core, and an F-core for the
others (R25). -/
def partyRank : Party → Nat
  | .partition k _ => if isFcore k then 1 else 0
  | .codec _ => 2

theorem waitersOf_partition {s : State} {k : Nat} {y : Party} (h : y ∈ s.waitersOf k) : ∃ p, y = .partition k p := by
  obtain ⟨p, -, rfl⟩ := List.mem_map.1 (List.mem_filter.1 h).1
  exact ⟨p, rfl⟩

/-- A party that waits for entries waits for one of a lower rank. -/
theorem partyRank_lt_of_pops {s : State} {x y : Party} {i n : Nat} (hw : s.waitsOn x = some (i, n)) (hp : pushes x i = false)
    (hy : y ∈ s.otherEnd x) : partyRank y < partyRank x := by
  have hend : y ∈ s.waitersOf (8 * partyClu x + if 14 ≤ i then 7 else i / 2) := by
    simpa [State.otherEnd, hw, hp] using hy
  obtain ⟨p, rfl⟩ := waitersOf_partition hend
  cases x with
  | codec c =>
    simp only [partyRank]
    split_ifs <;> decide
  | partition k q =>
    simp only [pushes, Bool.or_eq_false_iff, Bool.not_eq_false', decide_eq_false_iff_not] at hp
    have hf : isFcore (8 * partyClu (.partition k q) + if 14 ≤ i then 7 else i / 2) = false := by
      rw [if_neg hp.2, isFcore]
      simp only [beq_eq_false_iff_ne]
      omega
    simp only [partyRank, hp.1, hf, Bool.false_eq_true, ↓reduceIte, Nat.lt_one_iff]

/-- A copy of a token that has met no full port is on its way down. -/
def Descends (r : Nat) (ts : List (Party × Option Nat)) : Prop := ∀ x, (x, none) ∈ ts → partyRank x ≤ r

theorem hop_descends {s : State} {r : Nat} {ts : List (Party × Option Nat)} (h : Descends r ts) {y : Party} (hy : (y, none) ∈ s.hop ts) :
    partyRank y < r := by
  obtain ⟨⟨x, f⟩, hx, hm⟩ := List.mem_flatMap.1 (List.mem_dedup.1 hy)
  obtain ⟨z, hz, he⟩ := List.mem_map.1 hm
  obtain ⟨rfl, hf⟩ := Prod.mk.inj he
  cases hw : s.waitsOn x with
  | none => simp [State.otherEnd, hw] at hz
  | some port =>
    obtain ⟨i, n⟩ := port
    cases f with
    | some f => simp [State.fullSoFar] at hf
    | none =>
      simp only [State.fullSoFar, hw] at hf
      have hp : pushes x i = false := by
        by_contra hp
        rw [if_pos (by simpa using hp)] at hf
        exact Option.some_ne_none i hf
      exact Nat.lt_of_lt_of_le (partyRank_lt_of_pops hw hp hz) (h x hx)

theorem none_notMem_comesBack {s : State} {origin : Party} : ∀ (n : Nat) {ts : List (Party × Option Nat)}, Descends (partyRank origin) ts →
    none ∉ s.comesBack origin n ts
  | 0, _, _ => List.not_mem_nil
  | n + 1, ts, h => by
    have hd : ∀ y, (y, none) ∈ s.hop ts → partyRank y < partyRank origin := fun y hy => hop_descends h hy
    intro hm
    rcases List.mem_append.1 hm with hm | hm
    · obtain ⟨⟨y, f⟩, hr, rfl⟩ := List.mem_map.1 hm
      obtain ⟨hy, ho⟩ := List.mem_filter.1 hr
      obtain rfl : y = origin := beq_iff_eq.1 ho
      exact Nat.lt_irrefl _ (hd y hy)
    · exact none_notMem_comesBack n (fun y hy => Nat.le_of_lt (hd y (List.mem_filter.1 hy).1)) hm

/-- Every cycle of waits has a full port (R409). -/
theorem none_notMem_cycles (s : State) (origin : Party) : none ∉ s.cycles origin := fun h =>
  none_notMem_comesBack 16 (fun x hx => by
    obtain ⟨rfl, -⟩ := Prod.mk.inj (List.mem_singleton.1 hx)
    exact Nat.le_refl _) (List.mem_dedup.1 h)

/-! ### Tokens -/

theorem probeTokenSend_due {s : State} {x : Party} (h : s.probeDue x = true) : s.probeTokenSend x =
    { (match x with
        | .partition k p => s.modPrt k p fun q => { q with probed := true }
        | .codec c => s.modCluster c fun y => { y with codecProbed := true }) with
      probes := s.probes ++ [⟨s.probeId, partyClu x, x⟩], probeId := s.probeId + 1 } := by
  cases x <;> exact if_pos h

theorem probeTokenSend_early {s : State} {x : Party} (h : s.probeDue x = false) : s.probeTokenSend x = s := if_neg (by rw [h]; exact Bool.false_ne_true)

/-- A token that returns over the cycles on which its origin waits. -/
theorem probeTokenReturn_eq {s s' : State} {tk : Probe} {l : List (Option Nat)} (h : s.probes.find? (fun x => x.id == tk.id) = some tk)
    (hs : s' = { s with probes := s.probes.filter fun x => x.id != tk.id }) (hc : s'.cycles tk.origin = l) :
    s.probeTokenReturn tk.id = l.foldl (fun s f => s.confirm tk f) s' := by
  subst hs hc
  rw [State.probeTokenReturn, h]
  rfl

section
variable {s : State} {tk : Probe} {i : Nat}

theorem confirm_again (hg : (hqAt (s.cluster tk.clu).hq i).granted = true) : s.confirm tk (some i) = s := if_pos hg

variable (hg : (hqAt (s.cluster tk.clu).hq i).granted = false)
include hg

theorem confirm_unresolved (hr : (hqAt (s.cluster tk.clu).hq i).reserve = true) : s.confirm tk (some i) = s.unresolved tk.origin (some i) :=
  (if_neg (by rw [hg]; exact Bool.false_ne_true)).trans (if_pos hr)

theorem confirm_grants (hr : (hqAt (s.cluster tk.clu).hq i).reserve = false) :
    s.confirm tk (some i) = (s.modHq tk.clu i fun q => { q with granted := true }).logDeadlock tk.origin 0 :=
  (if_neg (by rw [hg]; exact Bool.false_ne_true)).trans (if_neg (by rw [hr]; exact Bool.false_ne_true))

end

/-- The jobs of an unresolved cycle are to be ended, beside those that were (log 120). -/
theorem mem_ending_unresolved {s : State} {x : Party} {f : Option Nat} {j : BitVec 32} : j ∈ (s.unresolved x f).sched.ending ↔
    j ∈ s.sched.ending ∨ ∃ y ∈ s.onCycle x f, s.partyJob y = some j := by
  obtain ⟨d, hd⟩ := logDeadlock_dev s x 1
  simp only [State.unresolved, hd, List.mem_dedup, List.mem_append, List.mem_filterMap]

/-- Settles O34: each event of a queue or a token is one of the equations above, and a party that waits for entries waits
for one of a lower rank, so that every cycle meets a full port. -/
theorem queueProbeEvents : Obligations.QueueProbeEvents := by
  unfold Obligations.QueueProbeEvents
  intro s clu port xs ys y k p n i c tk q s' returns full there popper region job seq logged unresolved
  have hregion : s.deadlockRegion tk.origin = region := by
    simp only [region]
    cases tk.origin <;> rfl
  have hjob : (s.deadlockJob tk.origin).toNat = job := by
    simp only [job, State.deadlockJob]
    cases tk.origin with
    | partition j _ => dsimp only; cases (s.core j).job <;> rfl
    | codec e => dsimp only [popper]; cases (s.core (8 * e + 7)).ops.find? fun o => o.popping <;> rfl
  have logs (u : State) (hcores : u.cores = s.cores) (hsched : u.sched = s.sched) (hdev : u.dev = s.dev) {sub : Nat} (hsub : sub < 2) :
      logged (u.logDeadlock tk.origin sub) sub := by
    intro hl hq hg
    have hcore (j : Nat) : u.core j = s.core j := by rw [State.core, hcores]; rfl
    have hr : u.deadlockRegion tk.origin = region := by
      rw [← hregion]
      simp only [State.deadlockRegion, State.opRegion, hcore]
    have hj : (u.deadlockJob tk.origin).toNat = job := by
      rw [← hjob]
      simp only [State.deadlockJob, hcore]
    have := logDeadlock_logs (s := u) (x := tk.origin) hsub (by rw [hr, hdev]; exact hl) (by rw [hr, hdev]; exact hq)
      (by rw [State.StreamsNamed, hsched]; exact hg)
    rw [hr, hj, hdev] at this
    exact this
  refine ⟨fun hc hp he hx hy => ⟨fun ha => ?visible, fun ha => ?hidden⟩, fun hs hp hw => ⟨fun hn => ?sends, fun hn => ?waits⟩, fun hp => ?sent,
    fun hc hp hw hn => ?engine, fun hret hcy ht hg hr => ?grants, fun hret hcy hg => ?again, fun hret hcy hg hr => ?unresolved,
    none_notMem_cycles s tk.origin, fun hret hcy => ?gone⟩
  case visible =>
    have : s.queueEntryVisible clu port = s.modHq clu port Handoff.reveal := by
      rw [State.queueEntryVisible, nextAge_split he hx hy]
      exact if_pos ha
    refine ⟨_, congrArg Host.Outcome.next this, ?_, rfl, rfl, fun j hj => hqAt_modHq_ne hc hj⟩
    rw [hqAt_modHq_same hc hp]
    exact reveal_split he hx hy
  case hidden =>
    refine congrArg Host.Outcome.next ?_
    rw [State.queueEntryVisible, nextAge_split he hx hy]
    exact if_neg (Nat.not_le.2 ha)
  case sends =>
    obtain ⟨hk, hpl⟩ := has_iff.1 hs
    have hd : s.probeDue (.partition k p) = true := by simp [State.probeDue, hp, hw, hn]
    refine ⟨_, congrArg Host.Outcome.next (probeTokenSend_due hd), ?_, rfl, rfl⟩
    change (((s.modPrt k p fun q => { q with probed := true }).core k).prt p).probed = true
    rw [State.modPrt, core_modCore_same hk, prt_modPrt_same hpl]
  case waits =>
    have hd : s.probeDue (.partition k p) = false := by simp [State.probeDue, hw, hn]
    exact congrArg Host.Outcome.next (probeTokenSend_early hd)
  case sent =>
    have hd : s.probeDue (.partition k p) = false := by simp [State.probeDue, hp]
    exact congrArg Host.Outcome.next (probeTokenSend_early hd)
  case engine =>
    have hd : s.probeDue (.codec c) = true := by simp [State.probeDue, hp, hw, hn]
    refine ⟨_, congrArg Host.Outcome.next (probeTokenSend_due hd), ?_, rfl, rfl, rfl⟩
    exact congrArg Cluster.codecProbed (cluster_modCluster_same hc fun y => { y with codecProbed := true })
  case grants =>
    obtain ⟨hc, hi⟩ := ht
    have he : s.probeTokenReturn tk.id = (s'.modHq tk.clu i fun q => { q with granted := true }).logDeadlock tk.origin 0 :=
      (probeTokenReturn_eq hret rfl hcy).trans (confirm_grants (s := s') hg hr)
    have hlog := logs (s'.modHq tk.clu i fun q => { q with granted := true }) rfl rfl rfl (sub := 0) (by decide)
    obtain ⟨d, hd⟩ := logDeadlock_dev (s'.modHq tk.clu i fun q => { q with granted := true }) tk.origin 0
    rw [hd] at he hlog
    have hport := hqAt_modHq_same (s := s') (f := fun q => { q with granted := true }) hc hi
    refine ⟨_, congrArg Host.Outcome.next he, ?_, ?_, rfl, hlog, rfl, fun j hj => hqAt_modHq_ne (s := s') hc hj⟩
    · exact (congrArg Handoff.granted hport :)
    · exact (congrArg Handoff.ents hport :)
  case again => exact congrArg Host.Outcome.next ((probeTokenReturn_eq hret rfl hcy).trans (confirm_again (s := s') hg))
  case unresolved =>
    have he : s.probeTokenReturn tk.id = s'.unresolved tk.origin (some i) :=
      (probeTokenReturn_eq hret rfl hcy).trans (confirm_unresolved (s := s') hg hr)
    have hlog := logs s' rfl rfl rfl (sub := 1) (by decide)
    obtain ⟨d, hd⟩ := logDeadlock_dev s' tk.origin 1
    have hu : (s'.unresolved tk.origin (some i)).clusters = s.clusters ∧ (s'.unresolved tk.origin (some i)).probes = s'.probes ∧
        (s'.unresolved tk.origin (some i)).dev = (s'.logDeadlock tk.origin 1).dev := by
      rw [State.unresolved, hd]
      exact ⟨rfl, rfl, rfl⟩
    obtain ⟨hclu, hpr, hdev⟩ := hu
    refine ⟨_, congrArg Host.Outcome.next he, hclu, hpr, ?_, fun x hx j hj => mem_ending_unresolved.2 (.inr ⟨x, hx, hj⟩),
      fun j hj => (mem_ending_unresolved (s := s')).1 hj⟩
    intro h1 h2 h3
    rw [hdev]
    exact hlog h1 h2 h3
  case gone => exact congrArg Host.Outcome.next (probeTokenReturn_eq hret rfl hcy)

end Sys2Proof.Machine
end

section
/-! Taking a trap (R342 to R344, R363): the fields of its record, and what it leaves on a user core and on the firmware core. -/

namespace Sys2Proof.Machine

/-! ### Fields of a word that is put together -/

theorem fld_at'_same {lo len x : Nat} (h : x < 2 ^ len) (hl : lo + len ≤ 64) : fld (at' lo x) lo len = x := by
  have hb : x * 2 ^ lo < 2 ^ 64 := by
    calc x * 2 ^ lo < 2 ^ len * 2 ^ lo := Nat.mul_lt_mul_of_pos_right h (Nat.two_pow_pos lo)
      _ = 2 ^ (lo + len) := by rw [← Nat.pow_add, Nat.add_comm]
      _ ≤ 2 ^ 64 := Nat.pow_le_pow_right (by decide) hl
  rw [fld, at', BitVec.toNat_ofNat, Nat.mod_eq_of_lt hb, Nat.mul_div_cancel _ (Nat.two_pow_pos lo), Nat.mod_eq_of_lt h]

theorem fld_at'_below {m lo x : Nat} (h : x * 2 ^ m < 2 ^ lo) (len : Nat) : fld (at' m x) lo len = 0 :=
  fld_of_lt ((toNat_at'_le m x).trans_lt h) len

theorem fld_at'_above {m lo len : Nat} (h : lo + len ≤ m) (x : Nat) : fld (at' m x) lo len = 0 := by
  have hz : (at' m x).extractLsb' lo len = 0#len := BitVec.eq_of_getLsbD_eq fun i hi => by
    have hm : (x * 2 ^ m).testBit (lo + i) = false := by
      rw [Nat.testBit_mul_two_pow, decide_eq_false (by omega), Bool.false_and]
    simp [at', BitVec.getLsbD_ofNat, hm]
  rw [fld_eq_extract, hz, BitVec.toNat_zero]

theorem bitAt_eq (lo : Nat) (b : Bool) : bitAt lo b = at' lo b.toNat := by
  cases b with
  | false => simp [bitAt, at']
  | true => rfl

theorem setWidth_eq_at' (x : BitVec 32) : x.setWidth 64 = at' 0 x.toNat := by
  rw [at', Nat.pow_zero, Nat.mul_one, BitVec.setWidth]
  exact BitVec.eq_of_toNat_eq (by simp)

theorem getLsbD_of_fld {x : Word} {i : Nat} {b : Bool} (h : fld x i 1 = b.toNat) : x.getLsbD i = b := by
  rw [show fld x i 1 = (x.getLsbD i).toNat from (Nat.toNat_testBit x.toNat i).symm] at h
  revert h
  cases x.getLsbD i <;> cases b <;> decide

/-- The fields of a trap record (R344). -/
theorem trapRecord_fields {k p : Nat} (hk : k < 128) (hp : p < 12) (c : Core) (cause : BitVec 8) (i1 i2 : Word) (pc : Pc) :
    let r := trapRecord k p c cause i1 i2 pc
    fld r.dw0 60 4 = 0xF ∧ fld r.dw0 56 4 = p ∧ fld r.dw0 48 8 = cause.toNat ∧ fld r.dw0 44 4 = k % 8 ∧ fld r.dw0 40 4 = k / 8 ∧
      r.dw0.getLsbD 39 = c.isLocked p ∧ fld r.dw0 32 7 = 0 ∧ fld r.dw0 0 32 = c.jobId.toNat ∧ r.dw1 = i1 ∧ r.dw2 = i2 ∧
      fld r.dw3 32 32 = c.sh.scnt.toNat % 2 ^ 32 ∧ fld r.dw3 15 17 = 0 ∧ fld r.dw3 2 13 = pc.toNat ∧ fld r.dw3 0 2 = 0 := by
  intro r
  have hcause := cause.isLt
  have hb := (c.isLocked p).toNat_lt
  have hj := c.jobId.isLt
  have hpc := pc.isLt
  have hs : fld c.sh.scnt 0 32 = c.sh.scnt.toNat % 2 ^ 32 := by rw [fld, Nat.pow_zero, Nat.div_one]
  have hlt : c.sh.scnt.toNat % 2 ^ 32 < 2 ^ 32 := Nat.mod_lt _ (by decide)
  have h0 : r.dw0 = at' 60 0xF ||| at' 56 p ||| at' 48 cause.toNat ||| at' 44 (k % 8) ||| at' 40 (k / 8) ||| at' 39 (c.isLocked p).toNat |||
      at' 0 c.jobId.toNat := by
    rw [← bitAt_eq, ← setWidth_eq_at']
    rfl
  have h3 : r.dw3 = at' 32 (c.sh.scnt.toNat % 2 ^ 32) ||| at' 2 pc.toNat := by
    rw [← hs]
    rfl
  have hbit : fld r.dw0 39 1 = (c.isLocked p).toNat := by
    rw [h0]
    simp (disch := omega) only [fld_or, fld_at'_same, fld_at'_below, fld_at'_above, Nat.or_zero, Nat.zero_or]
  refine ⟨?_, ?_, ?_, ?_, ?_, getLsbD_of_fld hbit, ?_, ?_, rfl, rfl, ?_⟩
  any_goals (rw [h0]; simp (disch := omega) only [fld_or, fld_at'_same, fld_at'_below, fld_at'_above, Nat.or_zero, Nat.zero_or])
  rw [h3]
  refine ⟨?_, ?_, ?_, ?_⟩ <;>
    simp (disch := omega) only [fld_or, fld_at'_same, fld_at'_below, fld_at'_above, Nat.or_zero, Nat.zero_or]

/-! ### What a trap leaves -/

theorem issueGroup_traps {s : State} {k p : Nat} {g : Group} {x : Cause} (hi : s.canIssue k p = true) (hh : (s.core k).held p = false)
    (hx : firstCause ((s.env k p).verdict g).causes = some x) :
    s.issueGroup k p g = (s.takeTrap k p x.kind.code x.info1 x.info2 ((s.core k).prt p).pc).nextTurn k p := by
  simp only [State.issueGroup, hi, Bool.true_eq_false, ↓reduceIte, hx]
  rw [if_neg (show ¬(s.env k p).core.held p = true by rw [show (s.env k p).core = s.core k from rfl, hh]; exact Bool.false_ne_true)]
  rfl

theorem prt_dropHelper (c : Core) (p j : Nat) : (c.dropHelper p).prt j = c.prt j := rfl

/-- A core's helper has died. -/
def HelperDead (c : Core) : Prop := ∀ h, c.helper = some h → h.dead = true

theorem helperDead_of_killed {c d : Core} (hd : d.helper = c.helper.map fun h => { h with dead := true }) : HelperDead d := by
  intro h hh
  obtain ⟨x, -, rfl⟩ := Option.map_eq_some_iff.1 (hd ▸ hh)
  rfl

theorem registersKept_trapped (q : Partition) (x : TrapInfo) : RegistersKept { q with trap := some x } (q.trapped x) :=
  ⟨rfl, rfl, rfl, rfl, ⟨rfl, rfl⟩, rfl, rfl, ⟨rfl, rfl⟩, ⟨rfl, rfl, rfl, rfl⟩, rfl, rfl, rfl, rfl, ⟨rfl, rfl⟩⟩

/-- The firmware core as its partition p begins a transfer to the vector. -/
theorem prt_enterVector {c : Core} {p : Nat} (hp : p < c.prts.length) (f : Firmware) :
    ((c.dropHelper p).enterVector p f true).prt p = (c.prt p).trapTo (f.fwtvec.extractLsb' 2 13) true := by
  rw [Core.enterVector, if_pos rfl, prt_modSh, prt_modPrt_same (c := c.dropHelper p) hp, ofNat_fld]
  rfl

theorem prt_enterVector_ne {c : Core} {p j : Nat} (hj : j ≠ p) (f : Firmware) : ((c.dropHelper p).enterVector p f true).prt j = c.prt j := by
  rw [Core.enterVector, if_pos rfl, prt_modSh, prt_modPrt_ne hj]
  rfl

theorem registersKept_halted (q : Partition) (x : TrapInfo) : RegistersKept { q with trap := some x } (q.halted x) :=
  ⟨rfl, rfl, rfl, rfl, ⟨rfl, rfl⟩, rfl, rfl, ⟨rfl, rfl⟩, ⟨rfl, rfl, rfl, rfl⟩, rfl, rfl, rfl, rfl, ⟨rfl, rfl⟩⟩

theorem registersKept_trapTo (q : Partition) (target : Pc) : RegistersKept q (q.trapTo target true) :=
  ⟨rfl, rfl, rfl, rfl, ⟨rfl, rfl⟩, rfl, rfl, ⟨rfl, rfl⟩, ⟨rfl, rfl, rfl, rfl⟩, rfl, rfl, rfl, rfl, ⟨rfl, rfl⟩⟩

/-- What a trap of partition p of core k leaves: the core d, and everything else as it was but for whose turn it is, the firmware's
registers and the device. -/
structure TrapLeaves (s t : State) (k p : Nat) (d : Core) : Prop where
  outside : OutsideKept s t k p
  clusters : t.clusters = s.clusters
  core : t.core k = d

theorem trapLeaves_modCore {s t : State} {k p : Nat} {f : Core → Core} (hk : k < s.cores.length)
    (hf : ∀ j, j ≠ p → (f (s.core k)).prt j = (s.core k).prt j)
    (ht : t = { s.modCore k f with phase := t.phase, fw := t.fw, dev := t.dev }) : TrapLeaves s t k p (f (s.core k)) := by
  obtain ⟨hm, hsc, hpr, hin, hout, hfc, hcores, hprts⟩ := outsideKept_modCore hk hf
  have hc : t.core k = f (s.core k) := by
    rw [ht]
    exact core_modCore_same hk f
  rw [ht] at hc ⊢
  exact ⟨⟨hm, hsc, hpr, hin, hout, hfc, hcores, hprts⟩, rfl, hc⟩

section
variable {s : State} {k p : Nat} {cause : BitVec 8} {i1 i2 : Word} {pc : Pc} (hk : k < s.cores.length)

include hk in
theorem takeTrap_user (hk0 : k ≠ 0) : ∃ t, (s.takeTrap k p cause i1 i2 pc).nextTurn k p = t ∧
    TrapLeaves s t k p ((s.core k).trap k p cause i1 i2 pc) ∧ t.fw = s.fw ∧ t.dev = s.dev := by
  rw [State.takeTrap, if_neg (by simpa [isFwCore] using hk0)]
  exact ⟨_, rfl, trapLeaves_modCore (f := fun c => c.trap k p cause i1 i2 pc) hk (fun j hj => by rw [prt_trap, prt_modPrt_ne hj]) rfl, rfl, rfl⟩

variable (h0 : 0 < s.cores.length)
include h0

theorem takeTrap_halts (h : s.trapFw.haltsOn p) : ∃ t, (s.takeTrap 0 p cause i1 i2 pc).nextTurn 0 p = t ∧
    TrapLeaves s t 0 p (((s.core 0).dropHelper p).modPrt p (·.halted ⟨cause, i1, i2, pc⟩)) ∧ t.fw = s.fw ∧ t.dev.fwhalt = true := by
  rw [State.takeTrap, if_pos (by rfl), fwTrap_halts h, State.modPrt, modCore_modCore h0]
  refine ⟨_, rfl, trapLeaves_modCore (f := fun c => (c.dropHelper p).modPrt p (·.halted ⟨cause, i1, i2, pc⟩)) h0 (fun j hj => ?_) rfl, rfl, rfl⟩
  exact prt_modPrt_ne (c := (s.core 0).dropHelper p) hj _

theorem takeTrap_enters (h : ¬s.trapFw.haltsOn p) (hturn : s.inTurn = true) : ∃ t, (s.takeTrap 0 p cause i1 i2 pc).nextTurn 0 p = t ∧
    TrapLeaves s t 0 p (((s.core 0).dropHelper p).enterVector p s.trapFw true) ∧ t.dev = s.dev ∧
    ⟨t.fw.rec0, t.fw.rec1, t.fw.rec2, t.fw.rec3⟩ = trapRecord 0 p (s.core 0) cause i1 i2 pc := by
  rw [State.takeTrap, if_pos (by rfl), fwTrap_enters h, modCore_modCore h0, hturn]
  exact ⟨_, rfl, trapLeaves_modCore (f := fun c => (c.dropHelper p).enterVector p s.trapFw true) h0 (fun j hj => prt_enterVector_ne hj _) rfl, rfl, rfl⟩

end

/-- Settles O53: a user core's trap is Core.trap, and the firmware core's is fwTrap_halts or fwTrap_enters. -/
theorem trapTaken : Obligations.TrapTaken := by
  unfold Obligations.TrapTaken
  intro i g s k p x hg hph hs hi hh hx hk128 hp12 c q again isRecord same
  obtain ⟨hk, hp⟩ := has_iff.1 hs
  have he : exec i s = .next ((s.takeTrap k p x.kind.code x.info1 x.info2 q.pc).nextTurn k p) := by
    rw [exec_group hg, execGroup_turn hph, issueGroup_traps hi hh hx]
  have hrec := trapRecord_fields hk128 hp12 c x.kind.code x.info1 x.info2 q.pc
  by_cases hk0 : k = 0
  case neg =>
    obtain ⟨t, ht, ⟨hout, hclu, hd⟩, hfw, hdev⟩ := takeTrap_user (p := p) (cause := x.kind.code) (i1 := x.info1) (i2 := x.info2) (pc := q.pc) hk hk0
    refine ⟨t, he.trans (congrArg _ ht), hout, ?_⟩
    rw [hd]
    dsimp only
    rw [prt_trap, prt_modPrt_same hp]
    exact ⟨rfl, rfl, hclu, ⟨registersKept_trapped q _, rfl, rfl⟩, helperDead_of_killed (c := c) rfl, fun _ => ⟨rfl, rfl⟩,
      fun _ => ⟨rfl, rfl, rfl, rfl, rfl, rfl, ⟨_, rfl, hrec⟩, hfw, hdev⟩, fun h => absurd h hk0, fun h => absurd h hk0⟩
  case pos =>
    subst hk0
    have hturn : s.inTurn = true := by rw [State.inTurn, hph]
    have hvec : s.trapFw = s.fw0 := if_pos hturn
    by_cases ha : again
    case pos =>
      obtain ⟨t, ht, ⟨hout, hclu, hd⟩, hfw, hdev⟩ :=
        takeTrap_halts (cause := x.kind.code) (i1 := x.info1) (i2 := x.info2) (pc := q.pc) hk (by rw [hvec]; exact ha)
      refine ⟨t, he.trans (congrArg _ ht), hout, ?_⟩
      rw [hd]
      dsimp only
      rw [prt_modPrt_same (c := c.dropHelper p) hp, prt_dropHelper]
      exact ⟨rfl, rfl, hclu, ⟨registersKept_halted q _, rfl, rfl⟩, helperDead_of_killed (c := c) rfl, fun _ => ⟨rfl, rfl⟩, fun h => absurd rfl h,
        fun _ h => absurd ha h, fun _ _ => ⟨rfl, hdev, hfw⟩⟩
    case neg =>
      obtain ⟨t, ht, ⟨hout, hclu, hd⟩, hdev, hfw⟩ :=
        takeTrap_enters (cause := x.kind.code) (i1 := x.info1) (i2 := x.info2) (pc := q.pc) hk (by rw [hvec]; exact ha) hturn
      refine ⟨t, he.trans (congrArg _ ht), hout, ?_⟩
      rw [hd, hvec]
      dsimp only
      rw [prt_enterVector hp]
      rw [← hfw] at hrec
      exact ⟨rfl, rfl, hclu, ⟨registersKept_trapTo _ _, rfl, rfl⟩, helperDead_of_killed (c := c) rfl,
        fun h => absurd h (not_or.2 ⟨fun h => h rfl, ha⟩), fun h => absurd rfl h, fun _ _ => ⟨rfl, rfl, rfl, rfl, rfl, rfl, hrec, hdev⟩, fun _ h => absurd h ha⟩

end Sys2Proof.Machine
end

section
/-! Exchanges that land, the higher sender last, and acceptance intervals that end (R73, R228). -/

namespace Sys2Proof.Machine

/-! ### Macros of a core -/

section
variable {h : Shared} {m : BitVec 3} {f : Cim → Cim}

theorem cim_modCim_same (hl : h.cims.length = 8) : (h.modCim m f).cim m = f (h.cim m) := by
  have hm : m.toNat < h.cims.length := hl ▸ m.isLt
  simp [Shared.cim, Shared.modCim, hm]

theorem cim_modCim_ne {j : BitVec 3} (hj : j ≠ m) : (h.modCim m f).cim j = h.cim j := by
  have hn : m.toNat ≠ j.toNat := fun he => hj (BitVec.eq_of_toNat_eq he.symm)
  simp [Shared.cim, Shared.modCim, List.getElem?_set_ne hn]

end

/-! ### Exchanges -/

/-- The exchanges of a core that have not arrived. -/
def Core.exchangesLeft (c : Core) : Core := { c with xfly := c.xfly.filter fun z => z.rem != 0 }

/-- Two exchanges of a core land, the one of the higher sender last. -/
theorem exchangesDue_of_lt {c : Core} {x y : Exchange} (hd : (c.xfly.filter fun z => z.rem == 0) = [x, y] ∨ (c.xfly.filter fun z => z.rem == 0) = [y, x])
    (hlt : x.snd < y.snd) : c.exchangesDue = [x, y] := by
  have hle := Nat.le_of_lt hlt
  have hn : ¬y.snd ≤ x.snd := Nat.not_le.2 hlt
  rcases hd with hd | hd
  · simp [Core.exchangesDue, hd, sortBy, insertBy, hle]
  · simp [Core.exchangesDue, hd, sortBy, insertBy, hn]

theorem exchangesDue_one {c : Core} {x : Exchange} (hd : (c.xfly.filter fun z => z.rem == 0) = [x]) : c.exchangesDue = [x] := by
  rw [Core.exchangesDue, hd]
  rfl

/-- Whether two of a list of exchanges come from different senders to the slot of one of them. -/
def collides (due : List Exchange) (x : Exchange) : Bool := due.any fun y => y.rcv == x.rcv && y.slot == x.slot && y.snd != x.snd

theorem prt_exchangesLeft (c : Core) (p : Nat) : c.exchangesLeft.prt p = c.prt p := rfl

theorem landExchange_eq (due : List Exchange) (c : Core) (x : Exchange) : c.landExchange due x =
    c.modPrt x.rcv fun q => { q with xi := q.xi.set x.slot.toNat x.val, xcol := q.xcol || collides due x } := rfl

theorem exchangeLands_eq {s : State} {k : Nat} {due : List Exchange} (hd : (s.core k).exchangesDue = due) :
    s.exchangeLands k = s.modCore k fun c => due.foldl (Core.landExchange due) c.exchangesLeft := by
  subst hd
  exact modCore_congr rfl

/-- Settles O27: what lands is one update of its receiver (landExchange_eq), two in the order of their senders (exchangesDue_of_lt). -/
theorem exchangeIntervalEvents : Obligations.ExchangeIntervalEvents := by
  unfold Obligations.ExchangeIntervalEvents
  intro s k m x y c q due n cim ended
  refine ⟨fun hs hxi hdue => ?one, fun hs hxi hdue hrcv hslot hlt => ?two, fun hk hl => ?interval⟩
  case one =>
    obtain ⟨hk, hp⟩ := has_iff.1 hs
    have hcol : collides [x] x = false := by simp [collides]
    refine ⟨_, congrArg Host.Outcome.next (exchangeLands_eq (exchangesDue_one hdue)),
      outsideKept_modCore hk fun j hj => ?_, ?_⟩
    · rw [List.foldl_cons, List.foldl_nil, landExchange_eq, prt_modPrt_ne hj, prt_exchangesLeft]
    rw [core_modCore_same hk, List.foldl_cons, List.foldl_nil, landExchange_eq]
    dsimp only
    rw [prt_modPrt_same (c := c.exchangesLeft) hp, hcol]
    exact ⟨rfl, Bool.or_false _, rfl, rfl⟩
  case two =>
    obtain ⟨hk, hp⟩ := has_iff.1 hs
    have hcol : collides [x, y] y = true := by simp [collides, hrcv, hslot, Nat.ne_of_lt hlt]
    refine ⟨_, congrArg Host.Outcome.next (exchangeLands_eq (exchangesDue_of_lt hdue hlt)), ?_⟩
    rw [core_modCore_same hk, List.foldl_cons, List.foldl_cons, List.foldl_nil, landExchange_eq, landExchange_eq, hrcv, hslot, hcol]
    dsimp only
    rw [prt_modPrt_same (by simpa [Core.modPrt, Core.setPrt, Core.exchangesLeft] using hp), prt_modPrt_same (c := c.exchangesLeft) hp]
    exact ⟨List.set_set _, Bool.or_true _⟩
  case interval =>
    refine ⟨_, rfl, ?_⟩
    have hd : (s.mxAcceptIntervalEnds k m).core k = c.modSh fun h => h.modCim n fun x => { x with ivl := x.ivl.finish, bivl := x.bivl.finish } :=
      core_modCore_same hk _
    have hf (i : Interval) : i.finish = ended i := rfl
    rw [hd]
    dsimp only [Core.modSh]
    rw [cim_modCim_same hl]
    exact ⟨hf _, hf _, rfl, rfl, rfl, rfl, fun j hj => cim_modCim_ne hj, rfl, rfl⟩

end Sys2Proof.Machine
end

section
/-! Results that land (R59 to R64, R94, R232, R240, R241): latches and flags of a unit and of a matrix unit, two on one latch, and the
planes, rows and tables that change beside them. -/

namespace Sys2Proof.Machine

/-! ### Bytes written as a list -/

theorem cellsOfBytes_eq (a : Nat) (bs : List Byte) : cellsOfBytes a bs =
    (List.range bs.length).filterMap fun j => if bs.getD j 0 = 0 then none else some (a + j, bs.getD j 0) := by
  have hz : bs.zipIdx a = (List.range bs.length).map fun j => (bs.getD j 0, a + j) :=
    List.ext_getElem (by simp) fun i h1 h2 => by simp at h1 ⊢; simp [h1]
  rw [cellsOfBytes, hz, List.filterMap_map]
  rfl

theorem find?_filter_ne {m : List Host.Cell} {f : Host.Cell → Bool} {b : Nat} (h : ∀ c, f c = true → c.1 ≠ b) :
    (m.filter f).find? (fun c => c.1 == b) = none :=
  List.find?_eq_none.2 fun c hc => by simpa using h c (List.mem_filter.1 hc).2

/-- A byte after a list of bytes is written at a. -/
theorem byte_writeBytes (m : List Host.Cell) (a : Nat) (bs : List Byte) (b : Nat) : Cells.byte (Cells.writeBytes m a bs) b =
    if a ≤ b ∧ b < a + bs.length then bs.getD (b - a) 0 else Cells.byte m b := by
  split_ifs with h
  · obtain ⟨i, rfl⟩ := Nat.le.dest h.1
    have hf := Cells.find_cells a bs.length (fun j => bs.getD j 0) i (by omega)
    rw [← cellsOfBytes_eq] at hf
    simp only [Cells.byte, Cells.writeBytes, Cells.splice, List.find?_append, hf, Nat.add_sub_cancel_left]
    rw [find?_filter_ne fun c hc => by simp at hc; omega, find?_filter_ne fun c hc => by simp at hc; omega, Option.none_or, Option.or_none]
    split_ifs with hz
    · exact hz.symm
    · rfl
  · exact Cells.byte_splice_outside m a _ _ (cellsOfBytes_fits a bs).2 b (by omega)

/-! ### A block of a plane (R232) -/

section
variable (c : Cim) (pl : Bool) (j : BitVec 3) (fmt : BitVec 4) (cells eqs : List Byte) (psn : Bool)

theorem bldLand_plane_same : (c.bldLand pl j fmt cells eqs psn).plane pl =
    ⟨fmt, Cells.writeBytes (if (c.plane pl).fmt == fmt then (c.plane pl).cells else []) (8192 * j.toNat) cells,
      Cells.writeBytes (if (c.plane pl).fmt == fmt then (c.plane pl).eq else []) (1024 * j.toNat) eqs⟩ := by cases pl <;> rfl

theorem bldLand_plane_other : (c.bldLand pl j fmt cells eqs psn).plane (!pl) = c.plane (!pl) := by cases pl <;> rfl

theorem bldLand_act : (c.bldLand pl j fmt cells eqs psn).act = c.act := by cases pl <;> rfl

end

theorem land_plane (c : Cim) (f : Fly) (pl : Bool) : (c.land f).plane pl = c.plane pl := by cases pl <;> rfl

/-! ### One result -/

theorem modPrt_modPrt {c : Core} {p : Nat} {f g : Partition → Partition} (hp : p < c.prts.length) :
    (c.modPrt p f).modPrt p g = c.modPrt p fun q => g (f q) := by
  rw [Core.modPrt, prt_modPrt_same hp]
  simp only [Core.modPrt, Core.setPrt, List.set_set]

theorem prts_length_modPrt (c : Core) (p : Nat) (f : Partition → Partition) : (c.modPrt p f).prts.length = c.prts.length := List.length_set

/-- A result is in flight no more, and raises its flags. -/
def Partition.leave (q : Partition) (f : Fly) : Partition := { q with fly := q.fly.filter fun g => g.seq != f.seq }.raise f.fpf

/-- Two results have met in a latch of the partition. -/
def Partition.collided (q : Partition) : Partition := { q with lcol := true }

/-- A result of a unit beside mx lands. -/
def Partition.landed (q : Partition) (f : Fly) : Partition := (q.leave f).setUnit f.unit ((q.unit f.unit).land f)

section
variable {c : Core} {i : Nat} {f : Fly}

theorem landOne_unit (hp : i < c.prts.length) (hm : f.unit ≠ .mx) : c.landOne (i, f) = (c.modPrt i (·.landed f)).landEffect i f := by
  rw [Core.landOne, if_neg hm, modPrt_modPrt hp]
  rfl

theorem landOne_mx (hm : f.unit = .mx) : c.landOne (i, f) = ((c.modPrt i (·.leave f)).modSh fun h => h.modCim f.mac fun m => m.land f).landEffect i f := by
  rw [Core.landOne, if_pos hm]
  rfl

theorem prt_landEffect_ne {j : Nat} (hj : j ≠ i) : (c.landEffect i f).prt j = c.prt j := by
  unfold Core.landEffect
  split
  · rfl
  · rfl
  · rfl
  · exact prt_modPrt_ne hj _

theorem prt_landOne_ne (hp : i < c.prts.length) {j : Nat} (hj : j ≠ i) : (c.landOne (i, f)).prt j = c.prt j := by
  by_cases hm : f.unit = .mx
  · rw [landOne_mx hm, prt_landEffect_ne hj, prt_modSh, prt_modPrt_ne hj]
  · rw [landOne_unit hp hm, prt_landEffect_ne hj, prt_modPrt_ne hj]

theorem landEffect_none (he : f.eff = .none) : c.landEffect i f = c := by rw [Core.landEffect, he]

end

/-! ### What is due -/

theorem collides_self (f : Fly) : f.collides f = false := by simp [Fly.collides]

theorem collides_comm (f g : Fly) : f.collides g = g.collides f := by
  simp only [Fly.collides, BEq.comm (a := f.unit), BEq.comm (a := f.mac), bne_comm (a := f.seq), Bool.and_comm, Bool.and_left_comm]

theorem collides_unit {f g : Fly} (h : f.collides g = true) : f.unit = g.unit := by
  simp only [Fly.collides, Bool.and_eq_true, beq_iff_eq, and_assoc] at h
  exact h.1

theorem land_one {c : Core} {p : Nat} {x : Nat × Fly} (h : c.landing p = [x]) : c.land p = c.landOne x := by
  simp [Core.land, h, collides_self]

/-- Of two that fall due on one latch both land, and their partition marks the collision. -/
theorem land_two {c : Core} {p i : Nat} {f g : Fly} (hp : i < c.prts.length) (h : c.landing p = [(i, f), (i, g)]) (hc : f.collides g = true) :
    c.land p = ((c.modPrt i (·.collided)).landOne (i, f)).landOne (i, g) := by
  have hc' : g.collides f = true := collides_comm f g ▸ hc
  simp only [Core.land, h, List.filter_cons, List.any_cons, List.any_nil, hc, hc', collides_self, Bool.or_true,
    Bool.or_false, ↓reduceIte, List.filter_nil, List.foldl_cons, List.foldl_nil, modPrt_modPrt hp]
  rfl

section
variable (q : Partition) (f : Fly)

theorem unit_landed_same (h : q.units.length = 25) : (q.landed f).unit f.unit = (q.unit f.unit).land f := unit_setUnit_same (q := q.leave f) h

theorem unit_landed_ne {u : UnitName} (h : u ≠ f.unit) : (q.landed f).unit u = q.unit u := unit_setUnit_ne (q := q.leave f) h _

theorem units_length_landed : (q.landed f).units.length = q.units.length := List.length_set

end

/-- Settles O25: each result is one update of its unit or matrix unit (landOne_unit, landOne_mx) and its effect. -/
theorem resultLandingEffects : Obligations.ResultLandingEffects := by
  unfold Obligations.ResultLandingEffects
  intro s k p i f g c q done latched hs hu hl
  obtain ⟨hk, hp⟩ := has_iff.1 hs
  have lands {d : Core} (hd : c.land p = d) (hne : ∀ j, j ≠ i → d.prt j = c.prt j) :
      ∃ t, exec (.resultLands k p) s = .next t ∧ OutsideKept s t k i ∧ t.core k = d := by
    refine ⟨_, rfl, outsideKept_modCore hk fun j hj => ?_, (core_modCore_same hk _).trans hd⟩
    rw [hd]
    exact hne j hj
  have one (hd : c.landing p = [(i, f)]) := lands (land_one hd) fun j hj => prt_landOne_ne hp hj
  refine ⟨fun hd hm he => ?unit, fun hd hc hm he he' => ?two, fun hd hm he => ?matrix, fun pl j fmt cells eqs psn hd hm he hlen => ?bld,
    fun ka va key val hd hm he => ?kvap, fun n data hd hm he => ?kvfrq⟩
  case unit =>
    obtain ⟨t, ht, hout, hd⟩ := one hd
    refine ⟨t, ht, hout, ?_⟩
    rw [hd, landOne_unit hp hm, landEffect_none he, prt_modPrt_same hp]
    dsimp only
    rw [unit_landed_same _ _ hu]
    exact ⟨⟨rfl, rfl, rfl, rfl, rfl, rfl⟩, fun u hn => unit_landed_ne q f hn, rfl, rfl, rfl, rfl, rfl⟩
  case two =>
    have hm' : g.unit ≠ .mx := collides_unit hc ▸ hm
    obtain ⟨t, ht, hout, hd⟩ := lands (d := c.modPrt i fun q => (q.collided.landed f).landed g) (by
      rw [land_two hp hd hc, landOne_unit (by rwa [prts_length_modPrt]) hm, landEffect_none he, modPrt_modPrt hp,
        landOne_unit (by rwa [prts_length_modPrt]) hm', landEffect_none he', modPrt_modPrt hp]) fun j hj => prt_modPrt_ne hj _
    refine ⟨t, ht, hout, ?_⟩
    rw [hd, prt_modPrt_same hp]
    dsimp only
    rw [unit_landed_same (q.collided.landed f) g ((units_length_landed _ f).trans hu)]
    exact ⟨rfl, rfl, fun x hx => by rw [UnitRegs.land, hx]; rfl⟩
  case matrix =>
    obtain ⟨t, ht, hout, hd⟩ := one hd
    refine ⟨t, ht, hout, ?_⟩
    rw [hd, landOne_mx hm, landEffect_none he, prt_modSh, prt_modPrt_same hp]
    dsimp only [Core.modSh]
    rw [core_modPrt_sh, cim_modCim_same hl]
    exact ⟨rfl, rfl, rfl, rfl, rfl, rfl, fun j hj => cim_modCim_ne hj⟩
  case bld =>
    obtain ⟨t, ht, hout, hd⟩ := one hd
    refine ⟨t, ht, hout, ?_⟩
    rw [hd, landOne_mx hm, Core.landEffect, he]
    dsimp only [Core.modSh]
    have hl' : (c.sh.modCim f.mac fun m => m.land f).cims.length = 8 := List.length_set.trans hl
    have hcim : ((c.sh.modCim f.mac fun m => m.land f).modCim f.mac fun m => m.bldLand pl j fmt cells eqs psn).cim f.mac =
        ((c.sh.cim f.mac).land f).bldLand pl j fmt cells eqs psn := by
      rw [cim_modCim_same hl', cim_modCim_same hl]
    refine hcim ▸ ?_
    rw [bldLand_plane_same, bldLand_plane_other, bldLand_act, land_plane, land_plane]
    refine ⟨rfl, rfl, rfl, fun b => ?_⟩
    rw [byte_writeBytes, hlen]
    by_cases hf : (c.sh.cim f.mac |>.plane pl).fmt = fmt
    · rw [if_pos (beq_iff_eq.2 hf), if_pos hf]
    · rw [if_neg (mt beq_iff_eq.1 hf), if_neg hf]
      rfl
  case kvap =>
    obtain ⟨t, ht, hout, hd⟩ := one hd
    refine ⟨t, ht, hout, ?_⟩
    rw [hd, landOne_unit hp (by rw [hm]; decide), Core.landEffect, he]
    exact ⟨rfl, rfl⟩
  case kvfrq =>
    obtain ⟨t, ht, hout, hd⟩ := one hd
    refine ⟨t, ht, hout, ?_⟩
    intro b
    rw [hd, landOne_unit hp (by rw [hm]; decide), Core.landEffect, he]
    dsimp only
    rw [modPrt_modPrt hp, prt_modPrt_same hp]
    exact byte_writeBytes ..

end Sys2Proof.Machine
end

section
/-! Words of one move (R65, R66, R69 to R75, R144): what a destination does with a clean value, and what the word leaves of its
partition, its core and the queues of its cluster. -/

namespace Sys2Proof.Machine

/-! ### Where a stream stands -/

/-- A partition's stream stands where it stood, and so does its loop. -/
structure StreamKept (q r : Partition) : Prop where
  pc : r.pc = q.pc
  left : r.left = q.left
  joined : r.joined = q.joined
  loop : r.loop = q.loop

theorem StreamKept.refl (q : Partition) : StreamKept q q := ⟨rfl, rfl, rfl, rfl⟩

theorem StreamKept.trans {q r t : Partition} (a : StreamKept q r) (b : StreamKept r t) : StreamKept q t :=
  ⟨b.pc.trans a.pc, b.left.trans a.left, b.joined.trans a.joined, b.loop.trans a.loop⟩

theorem streamKept_setPred (q : Partition) (n : BitVec 4) (b psn : Bool) : StreamKept q (q.setPred n b psn) := by
  unfold Partition.setPred
  split_ifs
  · exact .refl q
  · exact ⟨rfl, rfl, rfl, rfl⟩

/-- Outside a loop a group that leaves the stream where it was, and its loop, ends with the stream n words on. -/
theorem advances_kept {s : State} {k p : Nat} {e : Env} (hs : s.has k p = true) (he : e.Of s k p) (hj : ((s.core k).prt p).joined = false)
    (hq : StreamKept ((s.core k).prt p) e.q) (n : Nat) : Advances ((s.core k).prt p) (((s.endGroup k p n e).core k).prt p) n := fun hl =>
  advances_endGroup hs he hl ⟨hq.pc, hq.left, hq.joined.trans hj, (congrArg LoopState.active hq.loop).trans hl⟩ n hl

/-- The queues of a cluster after a group are those that it has left. -/
theorem hq_endGroup {s : State} {k p : Nat} {e : Env} (he : e.Of s k p) (hc : cluOf k < s.clusters.length) (n : Nat) :
    ((s.endGroup k p n e).cluster (cluOf k)).hq = e.hq := by
  rw [← he.atCore] at hc ⊢
  exact congrArg Cluster.hq (cluster_modCluster_same (s := s.setCore e.k _) hc fun y => { y with hq := e.hq })

/-! ### Writes of destinations -/

section
variable {s : State} {k p : Nat} {e : Env} (he : e.Of s k p) (x : Read) (d : Dst)
include he

theorem writeDst_of : (e.writeDst x d).Of s k p := by
  cases d with
  | ofile j => exact modQ_of he _
  | pred n => exact modQ_of he _
  | port u o => exact modQ_of he _
  | main v i => exact withCore_of he rfl
  | xo m j => exact withCore_of he rfl
  | hq n => exact ⟨he.atCore, he.atPrt, he.prts⟩
  | creg l => exact cregWrite_of he _ _
  | sink => exact he
  | trig t => exact he

theorem streamKept_writeDst (hs : s.has k p = true) : StreamKept e.q (e.writeDst x d).q := by
  have mods (f : Partition → Partition) (hf : StreamKept e.q (f e.q)) : StreamKept e.q (e.modQ f).q := by rwa [q_modQ he hs]
  cases d with
  | ofile j => exact mods (fun q => { q with ofile := q.ofile.set j.toNat (x.slot (prtWidth e.p)) }) ⟨rfl, rfl, rfl, rfl⟩
  | pred n => exact mods _ (streamKept_setPred _ _ _ _)
  | port u o => exact mods (fun q => q.setUnit u ((q.unit u).setPort o (x.slot (portWidth (prtWidth e.p) u o)))) ⟨rfl, rfl, rfl, rfl⟩
  | creg l =>
    obtain ⟨hpc, hleft, hjoined, hloop⟩ := q_cregWrite he hs l.toNat ((x.at 8).setWidth 64)
    exact ⟨hpc, hleft, hjoined, hloop⟩
  | main v i => exact .refl _
  | xo m j => exact .refl _
  | hq n => exact .refl _
  | sink => exact .refl _
  | trig t => exact .refl _

end

/-! ### A word of one move -/

/-- What a destination needs to take a clean value; what registers and triggers need is said of each. -/
def Env.takes (e : Env) : Dst → Prop
  | .main v i => viewOk (e.q0.view v) i.toNat = true
  | .hq n => (hqAt e.hq (hqIndex e.k n)).room ≠ 0
  | .creg _ | .trig _ => False
  | _ => True

theorem dest_takes (j : Judge) {d : Dst} (g : Group) (it : Item) {x : Read} (ht : j.e.takes d) (hx : x.psn = false) :
    j.dest g it d (some x) = .go := by
  have hsink : (if x.psn then poisonTrap it.slot ⟨x.pw, highDw x.bits⟩ else Verdict.go) = .go := by rw [hx]; rfl
  cases d with
  | main v i =>
    have hv : viewOk (j.e.q0.view v) i.toNat = true := ht
    simp only [Judge.dest, mainCheck, hv, Bool.not_true, Verdict.trapIf_false]
  | hq n =>
    have hr : decide ((hqAt j.e.hq (hqIndex j.e.k n)).room = 0) = false := decide_eq_false ht
    simp only [Judge.dest, hr, hsink, Bool.false_eq_true, ↓reduceIte, Verdict.go_and]
  | port u o => exact (congrArg (fun v => if u = .br ∨ u = .lp ∨ u = .sy then v else .go) hsink).trans (ite_self _)
  | creg l => exact ht.elim
  | trig t => exact ht.elim
  | _ => rfl

section
variable {s : State} {k p : Nat} {g : Guard} {src : Src} {d : Dst} {i : Instr}

theorem moved_writeDst (hd : ∀ t, d ≠ .trig t) : (s.env k p).moved src d = (s.moveEnv k p src).writeDst ((s.env k p).readPlain src) d := by
  rw [Env.moved, readSrc_snd]
  cases d with
  | trig t => exact absurd rfl (hd t)
  | _ => rfl

/-- A word of one move to a destination that takes its clean value. -/
theorem exec_move (hi : i.group = some (oneMove g src d)) (hs : s.has k p = true) (hr : s.ready k p g src d = true) (ht : (s.env k p).takes d) :
    exec i s = .next (s.endGroup k p 1 ((s.moveEnv k p src).writeDst ((s.env k p).readPlain src) d)) := by
  have hm : (s.env k p).moved src d = (s.moveEnv k p src).writeDst ((s.env k p).readPlain src) d :=
    moved_writeDst fun t h => by subst h; exact ht
  have hl := (streamKept_writeDst (moveEnv_of s k p src) ((s.env k p).readPlain src) d hs).loop
  rw [moveEnv_q] at hl
  obtain ⟨hturn, -, -, -, -, hpsn⟩ := ready_iff.1 hr
  rw [exec_group hi, execGroup_turn (atTurn_iff.1 hturn).1,
    issue_one (placed_of_ready hr) (dest_takes ⟨s.env k p, [], .go⟩ _ _ ht hpsn) (by rw [hm, hl]; exact Bool.and_not_self _), hm]
  rfl

/-- What a word of one move leaves of its partition, its core and the queues of its cluster, and the stream that goes on. -/
theorem move_leaves {e : Env} (hi : i.group = some (oneMove g src d)) (ht : (s.env k p).takes d)
    (he : (s.moveEnv k p src).writeDst ((s.env k p).readPlain src) d = e) (hs : s.has k p = true) (hr : s.ready k p g src d = true) :
    ∃ u, exec i s = .next u ∧ Advances ((s.core k).prt p) ((u.core k).prt p) 1 ∧
      u.core k = (e.core.modPrt p fun q => { q with idle := 0 }).endCycle p 1 ((s.core k).prt p).loop.active ∧
      (u.core k).prt p = ({ e.q with idle := 0 } : Partition).closed 1 ((s.core k).prt p).loop.active e.core.preempting ∧
      (cluOf k < s.clusters.length → (u.cluster (cluOf k)).hq = e.hq) := by
  have hm := moveEnv_of s k p src
  have ho := writeDst_of hm ((s.env k p).readPlain src) d
  have hq := streamKept_writeDst hm ((s.env k p).readPlain src) d hs
  rw [he] at ho hq
  rw [moveEnv_q] at hq
  exact ⟨_, (exec_move hi hs hr ht).trans (by rw [he]), advances_kept hs ho (joined_of_ready hr) hq 1, core_endGroup hs ho 1, prt_endGroup hs ho 1,
    fun hc => hq_endGroup ho hc 1⟩

/-- A move that changes registers of its partition alone. -/
theorem move_partition {P : Partition → Prop} (f : Partition → Partition) (hi : i.group = some (oneMove g src d)) (ht : (s.env k p).takes d)
    (he : (s.moveEnv k p src).writeDst ((s.env k p).readPlain src) d = (s.moveEnv k p src).modQ f)
    (hP : P (({ f ((s.core k).prt p) with idle := 0 } : Partition).closed 1 ((s.core k).prt p).loop.active (s.core k).preempting))
    (hs : s.has k p = true) (hr : s.ready k p g src d = true) :
    ∃ u, exec i s = .next u ∧ P ((u.core k).prt p) ∧ Advances ((s.core k).prt p) ((u.core k).prt p) 1 := by
  obtain ⟨u, hu, ha, -, hq, -⟩ := move_leaves hi ht he hs hr
  rw [q_modQ (moveEnv_of s k p src) hs, moveEnv_q] at hq
  have hpre : ((s.moveEnv k p src).modQ f).core.preempting = (s.core k).preempting := by
    change (s.moveEnv k p src).core.preempting = _
    rw [moveEnv_core]
  rw [hpre] at hq
  exact ⟨u, hu, hq ▸ hP, ha⟩

end

/-! ### What each destination keeps -/

theorem canPop_fcore {c : Ctx} {n : BitVec 4} (h : c.canPop n = true) : c.fcore = true ∧ n.toNat < 14 := by
  unfold Ctx.canPop at h
  split at h
  · simpa using h
  · simpa using h
  · exact absurd h Bool.false_ne_true

theorem canPush_fcore {c : Ctx} {n : BitVec 4} (h : c.canPush n = true) (hf : c.fcore = true) : 14 ≤ n.toNat := by
  unfold Ctx.canPush at h
  split at h
  · simp [hf] at h
  · simpa [hf] using h
  · exact absurd h Bool.false_ne_true

/-- A port that a partition pops is none that it pushes (R74). -/
theorem hqIndex_ne {k p : Nat} {n m : BitVec 4} (hn : (ctxOf k p).canPop n = true) (hm : (ctxOf k p).canPush m = true) : hqIndex k m ≠ hqIndex k n := by
  obtain ⟨hf, hlt⟩ := canPop_fcore hn
  have hge := canPush_fcore hm hf
  have hf : isFcore k = true := hf
  rw [hqIndex, hqIndex, if_pos hf, if_pos hf]
  omega

theorem hqAt_set_same {l : List Handoff} {i : Nat} (h : i < l.length) (x : Handoff) : hqAt (l.set i x) i = x := by simp [hqAt, h]

theorem hqAt_set_ne {l : List Handoff} {i j : Nat} (h : j ≠ i) (x : Handoff) : hqAt (l.set i x) j = hqAt l j := by simp [hqAt, h.symm]

section
variable {s : State} {k p : Nat} {g : Guard} {src : Src}

/-- The source of a ready word of one move leaves the queue that its destination names. -/
theorem moveEnv_hq_dst {n : BitVec 4} (hr : s.ready k p g src (.hq n) = true) :
    hqAt (s.moveEnv k p src).hq (hqIndex k n) = hqAt (s.cluster (cluOf k)).hq (hqIndex k n) := by
  have hw := (ready_iff.1 hr).2.1
  cases src with
  | hq m =>
    simp only [oneMove, Group.wf, WordF.wf, Move.wf, Src.wf, Dst.wf, Bool.and_eq_true] at hw
    obtain ⟨⟨⟨hpop, hpush⟩, -⟩, -⟩ := hw
    exact hqAt_set_ne (hqIndex_ne hpop hpush) _
  | _ => rfl

theorem moveEnv_hq_length : (s.moveEnv k p src).hq.length = (s.cluster (cluOf k)).hq.length := by
  cases src with
  | hq m => exact List.length_set
  | _ => rfl

end

/-- The bytes of a write of n bytes at a. -/
theorem byte_write (m : List Host.Cell) (a n x b : Nat) : Cells.byte (Cells.write m a n x) b =
    if a ≤ b ∧ b < a + n then BitVec.ofNat 8 (x / 2 ^ (8 * (b - a))) else Cells.byte m b := by
  split_ifs with h
  · obtain ⟨i, rfl⟩ := Nat.le.dest h.1
    rw [Nat.add_sub_cancel_left]
    exact Cells.byte_write_inside m a n x i (by omega)
  · exact Cells.byte_write_outside m a n x b (by omega)

theorem putBit_getLsbD_same {w k : Nat} (x : BitVec w) (b : Bool) (h : k < w) : (putBit x k b).getLsbD k = b := by
  cases b with
  | true => exact putBit_getLsbD x h
  | false => simp [putBit, h]

section
variable {q : Partition} {n : BitVec 4}

theorem pred_setPred_same (hn : n ≠ 0) (hl : n.toNat < 8 ∨ q.loop.active = false) (b psn : Bool) : (q.setPred n b psn).pred n = b := by
  have hd : ¬(n = 0 ∨ (q.loop.active = true ∧ 8 ≤ n.toNat)) := by
    rintro (h | ⟨h, h8⟩)
    · exact hn h
    · rcases hl with hl | hl
      · omega
      · simp [hl] at h
  have hz : (n == 0) = false := beq_false_of_ne hn
  rw [Partition.setPred, if_neg hd, Partition.pred, hz, Bool.false_or]
  exact putBit_getLsbD_same q.preds b n.isLt

theorem pred_setPred_ne {m : BitVec 4} (hm : m ≠ n) (b psn : Bool) : (q.setPred n b psn).pred m = q.pred m := by
  have hne : m.toNat ≠ n.toNat := fun h => hm (BitVec.eq_of_toNat_eq h)
  unfold Partition.setPred
  split_ifs
  · rfl
  · exact congrArg (m == 0 || ·) (putBit_getLsbD_ne q.preds b hne)

/-- The end of a cycle keeps the predicates but for those that a loop drives (R77, R180). -/
theorem closed_pred {was : Bool} (w : Nat) (pre : Bool) (hj : q.joined = false) (hl : n.toNat < 8 ∨ (q.loop.active = false ∧ was = false)) :
    (q.closed w was pre).pred n = q.pred n := by
  rcases hl with h | ⟨h, rfl⟩
  · exact congrArg (n == 0 || ·) (getLsbD_of_low (closed_low_preds ..) h)
  · rw [Partition.pred, closed_preds w pre h hj]
    rfl

end

/-- Settles O21: each destination is a case of what a word of one move leaves (move_leaves, move_partition). -/
theorem moveDestinations : Obligations.MoveDestinations := by
  unfold Obligations.MoveDestinations
  intro s k p g src c q v move done
  have prt {d : Dst} (f : Partition → Partition) {P : Partition → Prop} (ht : (s.env k p).takes d)
      (he : (s.moveEnv k p src).writeDst v d = (s.moveEnv k p src).modQ f)
      (hP : s.ready k p g src d = true → P (({ f q with idle := 0 } : Partition).closed 1 q.loop.active c.preempting)) : done d fun r _ _ => P r :=
    fun hs hr => move_partition f rfl ht he (hP hr) hs hr
  refine ⟨fun j => ?ofile, fun u o hp hu => ?port, fun n hn hl => ?pred, fun n hn hl => ?driven, ?always, fun x i hv => ?main, fun m j => ?exchange,
    fun n hroom hclu hlen => ?push, fun n hsrc hclu hlen => ?pop⟩
  case ofile =>
    refine prt _ (P := fun r => r.ofile = q.ofile.set j.toNat (v.slot (prtWidth p))) trivial rfl fun _ => ?_
    rw [closed_ofile, moveEnv_p]
  case port =>
    refine prt _ (P := fun r => (r.unit u).port o = v.slot (portWidth (prtWidth p) u o) ∧
      ∀ o', o' ≠ o → (r.unit u).port o' = (q.unit u).port o') trivial rfl fun _ => ?_
    have hunit (r : Partition) (was pre : Bool) : (({ r with idle := 0 } : Partition).closed 1 was pre).unit u = r.unit u := by
      simp only [Partition.unit, closed_units]
    rw [hunit, unit_setUnit_same hu, port_setPort_same, moveEnv_p]
    exact ⟨rfl, fun o' ho => port_setPort_ne ho _⟩
  case pred =>
    refine prt (fun q => q.setPred n ((v.at 1).getLsbD 0) v.psn)
      (P := fun r => r.pred n = (v.at 1).getLsbD 0 ∧ ∀ m, m ≠ n → (m.toNat < 8 ∨ q.loop.active = false) → r.pred m = q.pred m)
      trivial rfl fun hr => ?_
    have hs := streamKept_setPred q n ((v.at 1).getLsbD 0) v.psn
    have hkept (m : BitVec 4) (hm : m.toNat < 8 ∨ q.loop.active = false) :=
      closed_pred (q := { q.setPred n ((v.at 1).getLsbD 0) v.psn with idle := 0 }) 1 c.preempting (hs.joined.trans (joined_of_ready hr))
        (hm.imp_right fun h => ⟨(congrArg LoopState.active hs.loop).trans h, h⟩)
    refine ⟨(hkept n hl).trans (pred_setPred_same hn hl _ _), fun m hm hlm => (hkept m hlm).trans (pred_setPred_ne hm _ _)⟩
  case driven =>
    refine prt (fun q => q.setPred n ((v.at 1).getLsbD 0) v.psn) (P := fun r => r.preds &&& 0x00FF = q.preds &&& 0x00FF) trivial rfl fun _ => ?_
    rw [closed_low_preds, Partition.setPred, if_pos (.inr ⟨hl, hn⟩)]
  case always =>
    refine prt (fun q => q.setPred 0 ((v.at 1).getLsbD 0) v.psn) (P := fun r => r.pred 0 = true ∧ PredsKept q r) trivial rfl fun hr => ?_
    rw [Partition.setPred, if_pos (.inl rfl)]
    refine ⟨rfl, closed_low_preds .., fun hl => ?_⟩
    rw [hl]
    exact closed_preds (q := { q with idle := 0 }) _ _ hl (joined_of_ready hr)
  case main =>
    intro hs hr
    obtain ⟨u, hu, ha, hc, -, -⟩ := move_leaves (i := move (.main x i)) rfl hv rfl hs hr
    refine ⟨u, hu, fun b => ?_, ha⟩
    have hreg : (u.core k).sh.reg = Cells.write c.sh.reg (viewAddr (q.view x) i.toNat) (viewWidth (q.view x)) (v.at (viewWidth (q.view x))).toNat := by
      rw [hc, endCycle_sh, core_modPrt_sh, countIntervals_reg]
      simp only [Env.writeDst, moveEnv_q0]
      exact congrArg (fun d : Core => Cells.write d.sh.reg _ _ _) (moveEnv_core s k p src)
    rw [hreg]
    exact byte_write ..
  case exchange =>
    intro hs hr
    obtain ⟨u, hu, ha, hc, -, -⟩ := move_leaves (i := move (.xo m j)) (d := .xo m j) rfl trivial rfl hs hr
    refine ⟨u, hu, (congrArg Core.xfly hc).trans ?_, ha⟩
    change ((s.moveEnv k p src).core.xfly ++ [_]) = _
    rw [moveEnv_core, moveEnv_p]
  case push =>
    intro hs hr
    obtain ⟨u, hu, ha, -, -, hq⟩ := move_leaves (i := move (.hq n)) (d := .hq n) rfl hroom rfl hs hr
    refine ⟨u, hu, ?_, ha⟩
    dsimp only
    rw [hq hclu]
    simp only [Env.writeDst, moveEnv_k]
    rw [hqAt_set_same (moveEnv_hq_length.symm ▸ hlen), moveEnv_hq_dst hr]
    rfl
  case pop =>
    intro hs hr
    obtain ⟨u, hu, ha, -, -, hq⟩ := move_leaves (i := move .sink) (d := .sink) rfl trivial rfl hs hr
    refine ⟨u, hu, ?_, ha⟩
    subst hsrc
    rw [hq hclu]
    exact congrArg Handoff.ents (hqAt_set_same hlen _)

end Sys2Proof.Machine
end

section
/-! Groups of moves (R66, R73, R75, R76, R78): sources are read as the cycle starts, destinations written in slot order, and two pops
of one port deliver its two oldest entries. -/

namespace Sys2Proof.Machine

/-! ### What a slot reads while ports are written -/

/-- An environment with other partitions in its core; what the cycle began with stays. -/
def Env.withPrts (e : Env) (ps : List Partition) : Env := { e with core := { e.core with prts := ps } }

section
variable (e : Env) (ps : List Partition)

theorem readPlain_withPrts (src : Src) : (e.withPrts ps).readPlain src = e.readPlain src := by cases src <;> rfl

theorem readable_withPrts (src : Src) : (e.withPrts ps).readable src = e.readable src := by cases src <;> rfl

theorem writeDst_withPrts {d : Dst} (hd : plainDst d = true) (x : Read) : ∃ ps', (e.withPrts ps).writeDst x d = e.withPrts ps' := by
  cases d with
  | ofile j => exact ⟨_, rfl⟩
  | pred n => exact ⟨_, rfl⟩
  | port u o => exact ⟨_, rfl⟩
  | sink => exact ⟨_, rfl⟩
  | _ => cases hd

end

theorem takes_plain {d : Dst} (hd : plainDst d = true) (e : Env) : e.takes d := by
  cases d with
  | ofile j => trivial
  | pred n => trivial
  | port u o => trivial
  | sink => trivial
  | _ => cases hd

/-! ### The checks of one slot -/

section
variable {j : Judge} {g : Group} {it : Item} {d : Dst} {x : Read} (hv : j.v = .go) (hp : j.e.q0.predPoison it.g.pred = false)
include hv hp

/-- A slot whose value can be read and whose destination takes it meets nothing. -/
theorem item_takes (hd : slotDst it = some d) (hg : j.e.q0.holds it.g = true) (hl : j.e.look it = (.go, some x)) (hx : x.psn = false)
    (ht : j.e.takes d) : Judge.item g j it = { j.advance it d (some x) with v := .go } := by
  have hdest := dest_takes j g it ht hx
  obtain ⟨slot, n, gd, act⟩ := it
  cases act with
  | cmd op f => cases hd
  | move src d' =>
    obtain rfl : d' = d := Option.some.inj hd
    simp only [Judge.item, hp, hg, hv, hl, hdest, Bool.false_eq_true, ↓reduceIte, Verdict.go_and]
  | imm y d' =>
    obtain rfl : d' = d := Option.some.inj hd
    simp only [Judge.item, hp, hg, hv, hl, hdest, Bool.false_eq_true, ↓reduceIte, Verdict.go_and]

theorem item_skip (hg : j.e.q0.holds it.g = false) : Judge.item g j it = j := by
  simp only [Judge.item, hp, hg, hv, Bool.false_eq_true, ↓reduceIte, Verdict.go_and]
  rw [← hv]

end

theorem readItem_advance (j : Judge) (it : Item) (i : BitVec 3) (x : Read) :
    j.advance it (.ofile i) (some x) = { j with e := (j.e.readItem it).1 } := by
  obtain ⟨slot, n, g, act⟩ := it
  cases act with
  | move src d => cases src <;> rfl
  | _ => rfl

/-- After a slot to a plain destination its source has been read, and its port written where it has one. -/
theorem advance_plain (j : Judge) (it : Item) {d : Dst} (x : Read) (hd : plainDst d = true) : (j.advance it d (some x)).v = j.v ∧
    ((j.advance it d (some x)).e = (j.e.readItem it).1 ∨ (j.advance it d (some x)).e = (j.e.readItem it).1.writeDst x d) := by
  obtain ⟨slot, n, g, act⟩ := it
  have he : (Judge.advance j ⟨slot, n, g, act⟩ .sink (some x)).e = (j.e.readItem ⟨slot, n, g, act⟩).1 := by
    cases act with
    | move src d => cases src <;> rfl
    | _ => rfl
  rw [← he]
  cases d with
  | ofile i => exact ⟨rfl, .inl rfl⟩
  | pred n => exact ⟨rfl, .inl rfl⟩
  | sink => exact ⟨rfl, .inl rfl⟩
  | port u o => exact ⟨rfl, .inr rfl⟩
  | _ => cases hd

/-! ### Groups of clean moves -/

/-- The value that a slot moves, read as the cycle starts. -/
def Env.slotValue (e : Env) (it : Item) : Read :=
  match it.act with
  | .move src _ => e.readPlain src
  | .imm x _ => ⟨x.setWidth 8192, false, 0, .imm64⟩
  | .cmd _ _ => .clean 8 0

/-- What is known of a simple slot that executes: its value is that of the cycle's start, whatever ports have been written. -/
structure Env.Moves (e : Env) (it : Item) (d : Dst) : Prop where
  dst : slotDst it = some d
  plain : plainDst d = true
  psn : (e.slotValue it).psn = false
  look : ∀ ps, (e.withPrts ps).look it = (.go, some (e.slotValue it))
  read : ∀ ps, (e.withPrts ps).readItem it = (e.withPrts ps, e.slotValue it)

theorem moves_of_simple {e : Env} {it : Item} (h : e.simple it = true) (hg : e.q0.holds it.g = true) (hb : e.core.dbg = false) :
    ∃ d, e.Moves it d := by
  obtain ⟨slot, n, g, act⟩ := it
  simp only [Env.simple, Bool.and_eq_true] at h
  obtain ⟨-, h⟩ := h
  cases act with
  | cmd op f => cases h
  | imm x d => exact ⟨d, rfl, h, rfl, fun _ => rfl, fun _ => rfl⟩
  | move src d =>
    have hsrc : ∀ m, src ≠ .hq m := by
      rintro m rfl
      cases h
    have hc : plainDst d = true ∧ e.clean src = true := by
      have hg : e.q0.holds g = true := hg
      cases src with
      | hq m => exact absurd rfl (hsrc m)
      | _ => simpa [hg] using h
    obtain ⟨hd, hc⟩ := hc
    simp only [Env.clean, Bool.and_eq_true, Bool.not_eq_true'] at hc
    refine ⟨d, rfl, hd, hc.2, fun ps => ?_, fun ps => ?_⟩
    · rw [look_readable rfl ((readable_withPrts e ps src).trans hc.1) hb, readPlain_withPrts]
      rfl
    · cases src with
      | hq m => exact absurd rfl (hsrc m)
      | _ => rfl

theorem predPoison_of_simple {e : Env} {it : Item} (h : e.simple it = true) : e.q0.predPoison it.g.pred = false := by
  simp only [Env.simple, Bool.and_eq_true, Bool.not_eq_true'] at h
  exact h.1

/-- The checks of simple slots meet nothing. -/
theorem judge_simple {e : Env} (g : Group) (hb : e.core.dbg = false) : ∀ {its : List Item}, its.all e.simple = true →
    ∀ {j : Judge} {ps : List Partition}, j.e = e.withPrts ps → j.v = .go → (its.foldl (Judge.item g) j).v = .go
  | [], _, _, _, _, hv => hv
  | it :: its, h, j, ps, he, hv => by
    obtain ⟨hit, hits⟩ := Bool.and_eq_true_iff.1 h
    have hp : j.e.q0.predPoison it.g.pred = false := by rw [he]; exact predPoison_of_simple hit
    cases hg : e.q0.holds it.g with
    | false =>
      rw [List.foldl_cons, item_skip hv hp (by rw [he]; exact hg)]
      exact judge_simple g hb hits he hv
    | true =>
      obtain ⟨d, hd, hplain, hx, hlook, hread⟩ := moves_of_simple hit hg hb
      rw [List.foldl_cons, item_takes hv hp hd (by rw [he]; exact hg) (by rw [he]; exact hlook ps) hx (takes_plain hplain _)]
      obtain ⟨-, ha⟩ := advance_plain j it (e.slotValue it) hplain
      rw [he, hread] at ha
      rcases ha with ha | ha
      · exact judge_simple g hb hits ha rfl
      · obtain ⟨ps', hps⟩ := writeDst_withPrts e ps hplain (e.slotValue it)
        exact judge_simple g hb hits (ha.trans hps) rfl

/-- What a simple slot writes. -/
def Env.writeSlot (e : Env) (f : Env) (it : Item) : Env :=
  match it.act with
  | .move _ d | .imm _ d => f.writeDst (e.slotValue it) d
  | .cmd _ _ => f

theorem writeSlot_of_dst {e f : Env} {it : Item} {d : Dst} (hd : slotDst it = some d) : e.writeSlot f it = f.writeDst (e.slotValue it) d := by
  obtain ⟨slot, n, g, act⟩ := it
  cases act <;> cases hd <;> rfl

section
variable {e : Env} {its : List Item} (h : ∀ it ∈ its, ∃ d, e.Moves it d)
include h

theorem readItems_moves : e.readItems its = (e, its.map fun it => (it, e.slotValue it)) := by
  induction its with
  | nil => rfl
  | cons it its ih =>
    obtain ⟨d, hm⟩ := h it List.mem_cons_self
    have hr : e.readItem it = (e, e.slotValue it) := hm.read e.core.prts
    rw [Env.readItems, hr, ih fun x hx => h x (List.mem_cons_of_mem it hx)]
    rfl

theorem writeItems_moves (n : Nat) (f : Env) : f.writeItems n (its.map fun it => (it, e.slotValue it)) = its.foldl e.writeSlot f := by
  induction its generalizing f with
  | nil => rfl
  | cons it its ih =>
    obtain ⟨d, hm⟩ := h it List.mem_cons_self
    have hw : f.writeItem n it (e.slotValue it) = e.writeSlot f it := by
      have hd := hm.plain
      rw [writeSlot_of_dst hm.dst, writeItem_of_dst hm.dst]
      cases d with
      | trig t => cases hd
      | _ => rfl
    rw [List.map_cons, Env.writeItems, hw, ih fun x hx => h x (List.mem_cons_of_mem it hx)]
    rfl

theorem foldl_writeSlot_kept {s : State} {k p : Nat} (hs : s.has k p = true) {f : Env} (hf : f.Of s k p) :
    (its.foldl e.writeSlot f).Of s k p ∧ StreamKept f.q (its.foldl e.writeSlot f).q := by
  induction its generalizing f with
  | nil => exact ⟨hf, .refl _⟩
  | cons it its ih =>
    obtain ⟨d, hm⟩ := h it List.mem_cons_self
    have hw := writeSlot_of_dst (e := e) (f := f) hm.dst
    have ho := writeDst_of hf (e.slotValue it) d
    have hq := streamKept_writeDst hf (e.slotValue it) d hs
    rw [← hw] at ho hq
    obtain ⟨hi, hk⟩ := ih (fun x hx => h x (List.mem_cons_of_mem it hx)) ho
    exact ⟨hi, hq.trans hk⟩

end

/-! ### Groups that issue -/

/-- A group that meets nothing and starts no IDLE count ends its cycle with what it has done. -/
theorem exec_word {i : Instr} {s : State} {k p : Nat} {g : Group} (hi : i.group = some g) (hr : s.wordReady k p g = true) (hw : ∀ n, g.w0 ≠ .idle n)
    (hv : (s.env k p).judge g = .go) : exec i s = .next (s.endGroup k p g.len ((s.env k p).perform g)) := by
  obtain ⟨-, ht, hwf⟩ := wordReady_iff.1 hr
  obtain ⟨hph, hc, hh, -, -⟩ := atTurn_iff.1 ht
  have hverdict : (s.env k p).verdict g = .go := (if_neg (Bool.not_eq_false _ ▸ hwf)).trans hv
  have hidle : groupIdle g = 0 := by
    unfold groupIdle
    split
    · next n hn => exact absurd hn (hw n)
    · rfl
  rw [exec_group hi, execGroup_turn hph, issue_go hc hh hverdict, Env.issue, hidle]
  rfl

/-- What is written by a group whose loop engine stays as it was. -/
theorem perform_eq {e f : Env} {g : Group} {its : List Item} {rs : List (Item × Read)} (hits : (groupItems g).filter (fun it => e.q0.holds it.g) = its)
    (hr : e.readItems its = (f, rs)) (hl : (f.writeItems g.len rs).q.loop = e.q0.loop) : e.perform g = f.writeItems g.len rs := by
  subst hits
  simp only [Env.perform, hr, hl, Bool.and_not_self, Bool.false_eq_true, ↓reduceIte]

/-- Simple slots: the group's step. -/
theorem exec_simple {s : State} {k p : Nat} {g : Group} (hr : s.wordReady k p g = true) (hall : (groupItems g).all (s.env k p).simple = true)
    (hw : ∀ n, g.w0 ≠ .idle n) : exec (.mmWord g) s = .next (s.endGroup k p g.len
      (((groupItems g).filter fun it => ((s.core k).prt p).holds it.g).foldl (s.env k p).writeSlot (s.env k p))) := by
  obtain ⟨hs, ht, -⟩ := wordReady_iff.1 hr
  obtain ⟨-, -, -, hm, hb⟩ := atTurn_iff.1 ht
  have hv : (s.env k p).judge g = .go := by
    have hm : (s.env k p).q0.meshWait = false := hm
    rw [Env.judge, hm]
    exact judge_simple g hb hall (ps := (s.core k).prts) rfl rfl
  have hmoves : ∀ it ∈ (groupItems g).filter fun it => ((s.core k).prt p).holds it.g, ∃ d, (s.env k p).Moves it d := fun it hit => by
    obtain ⟨hmem, hg⟩ := List.mem_filter.1 hit
    exact moves_of_simple (List.all_eq_true.1 hall it hmem) hg hb
  have hwrite := writeItems_moves hmoves g.len (s.env k p)
  have hl := (foldl_writeSlot_kept hmoves hs (env_of s k p)).2.loop
  rw [← hwrite] at hl
  have hp : (s.env k p).perform g = _ := (perform_eq (e := s.env k p) rfl (readItems_moves hmoves) hl).trans hwrite
  have hx := exec_word (i := .mmWord g) rfl hr hw hv
  rwa [hp] at hx

/-! ### Two pops of one port -/

/-- A slot that pops a port into an operand-file entry. -/
def popSlot (slot : Nat) (g : Guard) (n : BitVec 4) (i : BitVec 3) : Item := ⟨slot, 0, g, .move (.hq n) (.ofile i)⟩

/-- A word of two pops of one port into operand-file entries. -/
def twoPops (g h : Guard) (n : BitVec 4) (i j : BitVec 3) : Group := ⟨.mm ⟨g, .hq n, .ofile i⟩ ⟨h, .hq n, .ofile j⟩, none⟩

/-- An environment whose port n has been popped. -/
def Env.popped (e : Env) (n : BitVec 4) : Env := (e.readSrc (.hq n)).1

theorem hqAt_popped {e : Env} {n : BitVec 4} (hl : hqIndex e.k n < e.hq.length) :
    hqAt (e.popped n).hq (hqIndex e.k n) = (hqAt e.hq (hqIndex e.k n)).pop := hqAt_set_same hl _

theorem readPlain_hq {e : Env} {n : BitVec 4} {x : HqEntry} {rest : List HqEntry} (h : (hqAt e.hq (hqIndex e.k n)).ents = x :: rest) :
    e.readPlain (.hq n) = .clean 128 x.data.toNat := by
  simp only [Env.readPlain, h]

theorem readable_hq {e : Env} {n : BitVec 4} {x : HqEntry} {rest : List HqEntry} (h : (hqAt e.hq (hqIndex e.k n)).ents = x :: rest)
    (hx : x.vis = true) : e.readable (.hq n) = true := by
  simp [Env.readable, Handoff.visible, h, hx]

/-- The low bytes of a queue entry in an operand-file entry. -/
theorem clean_slot_bits (x : BitVec 1024) (w : Nat) : ((Read.clean 128 x.toNat).slot w).bits.toNat = x.toNat % 2 ^ (8 * w) := by
  have hlt := BitVec.toNat_lt_twoPow_of_le (x := x) (show 1024 ≤ 8192 by decide)
  have hb : (Read.clean 128 x.toNat).bits.toNat = x.toNat := by
    rw [Read.clean, BitVec.toNat_ofNat, Nat.mod_eq_of_lt hlt]
  have hat : (Read.clean 128 x.toNat).at w = BitVec.ofNat 8192 (lowBytes (min 128 w) x.toNat) :=
    congrArg (fun y => BitVec.ofNat 8192 (lowBytes (min 128 w) y)) hb
  rw [Read.slot, hat, BitVec.toNat_ofNat, lowBytes, Nat.mod_eq_of_lt ((Nat.mod_le _ _).trans_lt hlt)]
  rcases Nat.le_total 128 w with h | h
  · rw [Nat.min_eq_left h, Nat.mod_eq_of_lt x.isLt, Nat.mod_eq_of_lt (BitVec.toNat_lt_twoPow_of_le (by omega))]
  · rw [Nat.min_eq_right h]

section
variable {s : State} {k p : Nat} {g h : Guard} {n : BitVec 4} {i j : BitVec 3} {x y : HqEntry} {rest : List HqEntry}
  (hr : s.wordReady k p (twoPops g h n i j) = true) (hg : ((s.core k).prt p).holds g = true) (hh : ((s.core k).prt p).holds h = true)
  (hpg : ((s.core k).prt p).predPoison g.pred = false) (hph : ((s.core k).prt p).predPoison h.pred = false)
  (hl : hqIndex k n < (s.cluster (cluOf k)).hq.length) (he : (hqAt (s.cluster (cluOf k)).hq (hqIndex k n)).ents = x :: y :: rest)

include hl he in
theorem ents_popped : (hqAt ((s.env k p).popped n).hq (hqIndex k n)).ents = y :: rest := by
  rw [show hqAt ((s.env k p).popped n).hq (hqIndex k n) = _ from hqAt_popped (e := s.env k p) hl]
  exact congrArg (List.drop 1) he

include hr hg hh hpg hph hl he in
/-- The two slots meet nothing: after the first has popped the port the second sees the entry that followed. -/
theorem judge_twoPops (hx : x.vis = true) (hy : y.vis = true) : (s.env k p).judge (twoPops g h n i j) = .go := by
  obtain ⟨-, ht, -⟩ := wordReady_iff.1 hr
  obtain ⟨-, -, -, hm, hb⟩ := atTurn_iff.1 ht
  have hm : (s.env k p).q0.meshWait = false := hm
  have he' := ents_popped (p := p) hl he
  have hlook := look_readable (e := s.env k p) (it := popSlot 0 g n i) rfl (readable_hq he hx) hb
  have hlook' := look_readable (e := (s.env k p).popped n) (it := popSlot 1 h n j) rfl (readable_hq he' hy) hb
  have hi : groupItems (twoPops g h n i j) = [popSlot 0 g n i, popSlot 1 h n j] := rfl
  have h0 := item_takes (j := ⟨s.env k p, [], .go⟩) (g := twoPops g h n i j) (it := popSlot 0 g n i) rfl hpg rfl hg hlook
    (by rw [readPlain_hq (e := s.env k p) he]; rfl) trivial
  have h1 := item_takes (j := ⟨(s.env k p).popped n, [], .go⟩) (g := twoPops g h n i j) (it := popSlot 1 h n j) rfl hph rfl hh hlook'
    (by rw [readPlain_hq (e := (s.env k p).popped n) he']; rfl) trivial
  rw [readItem_advance] at h0 h1
  rw [Env.judge, hi, hm, List.foldl_cons, List.foldl_cons, List.foldl_nil, Verdict.stallIf_false, h0]
  exact congrArg Judge.v h1

/-- What two pops leave of the environment: the values in their entries, and the port without them. -/
def State.twoPopped (s : State) (k p : Nat) (n : BitVec 4) (i j : BitVec 3) (x y : HqEntry) : Env :=
  ((((s.env k p).popped n).popped n).writeDst (.clean 128 x.data.toNat) (.ofile i)).writeDst (.clean 128 y.data.toNat) (.ofile j)

theorem popped_of {e : Env} (ho : e.Of s k p) : (e.popped n).Of s k p := readSrc_of ho _

theorem twoPopped_of : (s.twoPopped k p n i j x y).Of s k p :=
  writeDst_of (writeDst_of (popped_of (popped_of (env_of s k p))) _ _) _ _

theorem twoPopped_kept (hs : s.has k p = true) : StreamKept ((s.core k).prt p) (s.twoPopped k p n i j x y).q := by
  have ho := popped_of (n := n) (popped_of (n := n) (env_of s k p))
  exact (streamKept_writeDst ho _ (.ofile i) hs).trans (streamKept_writeDst (writeDst_of ho _ _) _ (.ofile j) hs)

theorem twoPopped_ofile (hs : s.has k p = true) : (s.twoPopped k p n i j x y).q.ofile =
    (((s.core k).prt p).ofile.set i.toNat ((Read.clean 128 x.data.toNat).slot (prtWidth p))).set j.toNat
      ((Read.clean 128 y.data.toNat).slot (prtWidth p)) := by
  have ho := popped_of (n := n) (popped_of (n := n) (env_of s k p))
  have hw := writeDst_of ho (.clean 128 x.data.toNat) (.ofile i)
  rw [State.twoPopped, Env.writeDst, q_modQ hw hs, hw.atPrt, Env.writeDst, q_modQ ho hs, ho.atPrt]
  rfl

include hg hh hl he in
theorem perform_twoPops (hs : s.has k p = true) : (s.env k p).perform (twoPops g h n i j) = s.twoPopped k p n i j x y := by
  have hits : (groupItems (twoPops g h n i j)).filter (fun it => (s.env k p).q0.holds it.g) =
      [popSlot 0 g n i, popSlot 1 h n j] := by
    have hg : (s.env k p).q0.holds g = true := hg
    have hh : (s.env k p).q0.holds h = true := hh
    simp [groupItems, twoPops, wordItems, popSlot, hg, hh]
  have hreads : (s.env k p).readItems [popSlot 0 g n i, popSlot 1 h n j] =
      (((s.env k p).popped n).popped n, [(popSlot 0 g n i, .clean 128 x.data.toNat),
        (popSlot 1 h n j, .clean 128 y.data.toNat)]) := by
    rw [← readPlain_hq (e := s.env k p) he, ← readPlain_hq (e := (s.env k p).popped n) (ents_popped hl he)]
    rfl
  exact perform_eq hits hreads (twoPopped_kept hs).loop

end

/-- Settles O20: simple slots are exec_simple; of two pops the second reads the port that the first has left (ents_popped). -/
theorem moveGroupOrder : Obligations.MoveGroupOrder := by
  unfold Obligations.MoveGroupOrder
  refine ⟨fun s k p g => ?order, fun s k p g h n i j => ?pops⟩
  case order => exact fun hr hall hw _ => exec_simple hr hall hw
  case pops =>
    intro q port w hr hg hh hpg hph hij hclu hl hlen x y rest he hx hy
    obtain ⟨hs, ht, -⟩ := wordReady_iff.1 hr
    obtain ⟨-, hc, -⟩ := atTurn_iff.1 ht
    have hj : q.joined = false := (canIssue_iff.1 hc).2.1
    have ho := twoPopped_of (s := s) (k := k) (p := p) (n := n) (i := i) (j := j) (x := x) (y := y)
    have hexec : exec (.mmWord w) s = .next (s.endGroup k p 1 (s.twoPopped k p n i j x y)) := by
      rw [← perform_twoPops hg hh hl he hs]
      exact exec_word rfl hr (fun _ => WordF.noConfusion) (judge_twoPops hr hg hh hpg hph hl he hx hy)
    refine ⟨_, hexec, ?_⟩
    have hne : i.toNat ≠ j.toNat := fun h => hij (BitVec.eq_of_toNat_eq h)
    have hport : (hqAt (s.twoPopped k p n i j x y).hq (hqIndex k n)).ents = rest := by
      have hl' : hqIndex k n < ((s.env k p).popped n).hq.length := List.length_set.symm ▸ hl
      exact (congrArg Handoff.ents (hqAt_popped (e := (s.env k p).popped n) hl')).trans (congrArg (List.drop 1) (ents_popped hl he))
    have hi8 : i.toNat < ((s.core k).prt p).ofile.length := hlen.symm ▸ i.isLt
    have hj8 : j.toNat < ((s.core k).prt p).ofile.length := hlen.symm ▸ j.isLt
    dsimp only
    rw [prt_endGroup hs ho, closed_ofile, hq_endGroup ho hclu, ← prt_endGroup hs ho]
    simp only [twoPopped_ofile hs, List.getD_eq_getElem?_getD]
    rw [List.getElem?_set_ne hne.symm, List.getElem?_set_self hi8, List.getElem?_set_self (by rwa [List.length_set])]
    exact ⟨clean_slot_bits .., clean_slot_bits .., hport, advances_kept hs ho hj (twoPopped_kept hs) 1⟩

end Sys2Proof.Machine
end

section
/-! The integer units (R190): the value of every operation of ix on numbers is that of an operation on bit vectors. -/

namespace Sys2Proof.Machine

/-! ### Numbers and bit vectors -/

section
variable {n : Nat} (c : BitVec n)

/-- The signed value of a number is that of its bit vector. -/
theorem signed_toNat (hn : 0 < n) : signed n c.toNat = c.toInt := by
  have h2 : 2 ^ n = 2 * 2 ^ (n - 1) := by rw [← Nat.pow_succ']; congr 1; omega
  rw [signed, BitVec.toNat_mod_cancel, BitVec.toInt_eq_toNat_cond]
  split_ifs with h h' h'
  · rfl
  · omega
  · omega
  · push_cast; rfl

theorem andNot_toNat (a : BitVec n) : andNot n a.toNat c.toNat = (a &&& ~~~c).toNat := by
  rw [andNot, BitVec.toNat_mod_cancel, BitVec.toNat_and, BitVec.toNat_not]

/-! ### Counts of zeros and ones -/

theorem clzNat_toNat (hn : 0 < n) : clzNat n c.toNat = c.clz.toNat := by
  have hlt : n < 2 ^ n := Nat.lt_two_pow_self
  rw [clzNat]
  split_ifs with h
  · rw [BitVec.clz_eq_iff_eq_zero.2 (BitVec.eq_of_toNat_eq h), BitVec.natCast_eq_ofNat, BitVec.toNat_ofNat, Nat.mod_eq_of_lt hlt]
  · have hne : c ≠ 0#n := fun e => h (congrArg BitVec.toNat e)
    have hlow := BitVec.two_pow_sub_clz_le_toNat_of_ne_zero hn hne
    have hhigh := BitVec.toNat_lt_two_pow_sub_clz (x := c)
    have hc : c.clz.toNat < n := by
      have := BitVec.lt_def.1 (BitVec.clz_lt_iff_ne_zero.2 hne)
      rwa [BitVec.natCast_eq_ofNat, BitVec.toNat_ofNat, Nat.mod_eq_of_lt hlt] at this
    have hlog : c.toNat.log2 = n - 1 - c.clz.toNat := (Nat.log2_eq_iff h).2 ⟨hlow, by rwa [show n - 1 - c.clz.toNat + 1 = n - c.clz.toNat by omega]⟩
    rw [hlog]
    omega

/-- The trailing zeros end at the first bit that is set. -/
theorem ctzNat_eq {m x i : Nat} (hi : i < m) (hx : x.testBit i = true) (hlow : ∀ j < i, x.testBit j = false) : ctzNat m x = i := by
  induction m generalizing x i with
  | zero => omega
  | succ m ih =>
    cases i with
    | zero => simp_all [ctzNat]
    | succ i =>
      have h0 : ¬x % 2 = 1 := by simpa using hlow 0 (Nat.succ_pos i)
      have := ih (x := x / 2) (Nat.lt_of_succ_lt_succ hi) (by rwa [Nat.testBit_div_two]) fun j hj => by
        rw [Nat.testBit_div_two]; exact hlow (j + 1) (by omega)
      rw [ctzNat, if_neg h0, this, Nat.add_comm]

theorem ctzNat_zero (m : Nat) : ctzNat m 0 = m := by
  induction m with
  | zero => rfl
  | succ m ih => rw [ctzNat, if_neg (by decide), Nat.zero_div, ih, Nat.add_comm]

theorem reverse_zero : (0#n).reverse = 0#n := BitVec.eq_of_getLsbD_eq fun i hi => by simp [BitVec.getLsbD_reverse]

theorem ctzNat_toNat : ctzNat n c.toNat = c.ctz.toNat := by
  have hlt : n < 2 ^ n := Nat.lt_two_pow_self
  by_cases h : c = 0#n
  · subst h
    rw [BitVec.toNat_ofNat, Nat.zero_mod, ctzNat_zero, BitVec.ctz_eq_reverse_clz, reverse_zero,
      BitVec.clz_eq_iff_eq_zero.2 rfl, BitVec.natCast_eq_ofNat, BitVec.toNat_ofNat, Nat.mod_eq_of_lt hlt]
  · have hc : c.ctz.toNat < n := by
      have := BitVec.lt_def.1 (BitVec.ctz_lt_iff_ne_zero.2 h)
      rwa [BitVec.natCast_eq_ofNat, BitVec.toNat_ofNat, Nat.mod_eq_of_lt hlt] at this
    exact ctzNat_eq hc (BitVec.getLsbD_true_ctz_of_ne_zero h) fun j hj => BitVec.getLsbD_false_of_lt_ctz hj

theorem popcNat_succ (m x : Nat) : popcNat (m + 1) x = popcNat m x + (x.testBit m).toNat := by
  induction m generalizing x with
  | zero => rw [Nat.toNat_testBit]; simp [popcNat]
  | succ m ih =>
    rw [popcNat, ih, popcNat, Nat.testBit_div_two, Nat.add_assoc]

theorem cpopNatRec_eq_popcNat (m acc : Nat) : c.cpopNatRec m acc = popcNat m c.toNat + acc := by
  induction m generalizing acc with
  | zero => simp [popcNat]
  | succ m ih =>
    rw [BitVec.cpopNatRec_succ, ih, popcNat_succ, BitVec.testBit_toNat]
    omega

theorem popcNat_toNat : popcNat n c.toNat = c.cpop.toNat := by rw [BitVec.toNat_cpop, cpopNatRec_eq_popcNat, Nat.add_zero]

/-! ### Bytes reversed -/

/-- The first m bytes of a number, the last of them lowest. -/
def bytesReversed (x : Nat) : Nat → Nat
  | 0 => 0
  | m + 1 => 2 ^ 8 * bytesReversed x m + x / 2 ^ (8 * m) % 2 ^ 8

theorem bytesReversed_lt (x m : Nat) : bytesReversed x m < 2 ^ (8 * m) := by
  induction m with
  | zero => exact Nat.one_pos
  | succ m ih =>
    have : x / 2 ^ (8 * m) % 2 ^ 8 < 2 ^ 8 := Nat.mod_lt _ (by decide)
    rw [bytesReversed, Nat.mul_succ, Nat.pow_add]
    omega

theorem testBit_bytesReversed (x m : Nat) {j : Nat} (hj : j < 8 * m) :
    (bytesReversed x m).testBit j = x.testBit (8 * (m - 1 - j / 8) + j % 8) := by
  induction m generalizing j with
  | zero => omega
  | succ m ih =>
    rw [bytesReversed, Nat.testBit_two_pow_mul_add _ (Nat.mod_lt _ (by decide))]
    split_ifs with h
    · rw [Nat.testBit_mod_two_pow, Nat.testBit_div_two_pow, decide_eq_true h, Bool.true_and]
      congr 1
      omega
    · rw [ih (by omega)]
      congr 1
      omega

/-- The sum of bswap is that number moved to the top bytes. -/
theorem foldl_bswap (x m k : Nat) (hk : k ≤ m) :
    (List.range k).foldl (fun acc i => acc + x / 2 ^ (8 * i) % 256 * 2 ^ (8 * (m - 1 - i))) 0 = bytesReversed x k * 2 ^ (8 * (m - k)) := by
  induction k with
  | zero => simp [bytesReversed]
  | succ k ih =>
    have hp : 2 ^ (8 * (m - k)) = 2 ^ 8 * 2 ^ (8 * (m - 1 - k)) := by rw [← Nat.pow_add]; congr 1; omega
    rw [List.range_succ, List.foldl_append, ih (by omega), List.foldl_cons, List.foldl_nil, bytesReversed, hp,
      show m - (k + 1) = m - 1 - k by omega, show (256 : Nat) = 2 ^ 8 from rfl]
    generalize x / 2 ^ (8 * k) % 2 ^ 8 = d
    ring

theorem bswapNat_eq (x m : Nat) : bswapNat m x = bytesReversed x m := by
  rw [bswapNat, foldl_bswap x m m (Nat.le_refl m), Nat.sub_self, Nat.mul_zero, Nat.pow_zero, Nat.mul_one]

theorem bswapNat_toNat (m : Nat) (c : BitVec (8 * m)) : bswapNat m c.toNat =
    (BitVec.ofFnLE fun i : Fin (8 * m) => c.getLsbD (8 * (8 * m / 8 - 1 - i.val / 8) + i.val % 8)).toNat := by
  rw [bswapNat_eq]
  refine Nat.eq_of_testBit_eq fun j => ?_
  rw [BitVec.testBit_toNat, BitVec.getLsbD_ofFnLE]
  split_ifs with h
  · rw [testBit_bytesReversed _ _ h, BitVec.testBit_toNat, Nat.mul_div_cancel_left m (by decide)]
  · exact Nat.testBit_lt_two_pow ((bytesReversed_lt c.toNat m).trans_le (Nat.pow_le_pow_right (by decide) (Nat.not_lt.1 h)))

end

/-! ### The operations -/

section
variable {n : Nat}

/-- A number that a bit vector holds is not cut. -/
theorem toNat_cut {v : Nat} {z : BitVec n} (h : v = z.toNat) : (BitVec.ofNat n v).toNat = z.toNat := by
  rw [h, BitVec.ofNat_toNat, BitVec.setWidth_eq]

theorem toNat_cut_ite {P Q : Prop} [Decidable P] [Decidable Q] (a c : BitVec n) (h : P ↔ Q) :
    (BitVec.ofNat n (if P then a.toNat else c.toNat)).toNat = (if Q then a else c).toNat := by
  refine toNat_cut ?_
  simp only [h]
  exact (apply_ite BitVec.toNat Q a c).symm

variable (x y t : Nat)

theorem ixValue_add : ixValue .add n x y t = (BitVec.ofNat n x + BitVec.ofNat n t).toNat := by
  simp only [ixValue, ← BitVec.toNat_ofNat]
  rw [BitVec.toNat_ofNat, BitVec.toNat_add]

theorem ixValue_sub : ixValue .sub n x y t = (BitVec.ofNat n x - BitVec.ofNat n t).toNat := by
  simp only [ixValue, ← BitVec.toNat_ofNat]
  rw [BitVec.toNat_ofNat, BitVec.toNat_sub, Nat.add_comm]

theorem ixValue_and : ixValue .and n x y t = (BitVec.ofNat n x &&& BitVec.ofNat n t).toNat := by
  simp only [ixValue, ← BitVec.toNat_ofNat]
  exact toNat_cut (BitVec.toNat_and ..).symm

theorem ixValue_or : ixValue .or n x y t = (BitVec.ofNat n x ||| BitVec.ofNat n t).toNat := by
  simp only [ixValue, ← BitVec.toNat_ofNat]
  exact toNat_cut (BitVec.toNat_or ..).symm

theorem ixValue_xor : ixValue .xor n x y t = (BitVec.ofNat n x ^^^ BitVec.ofNat n t).toNat := by
  simp only [ixValue, ← BitVec.toNat_ofNat]
  exact toNat_cut (BitVec.toNat_xor ..).symm

theorem ixValue_andn : ixValue .andn n x y t = (BitVec.ofNat n x &&& ~~~BitVec.ofNat n t).toNat := by
  simp only [ixValue, ← BitVec.toNat_ofNat]
  exact toNat_cut (andNot_toNat ..)

theorem ixValue_shl : ixValue .shl n x y t = (BitVec.ofNat n x <<< ((BitVec.ofNat n t).toNat % n)).toNat := by
  simp only [ixValue, ← BitVec.toNat_ofNat]
  rw [BitVec.toNat_ofNat, BitVec.toNat_shiftLeft, Nat.shiftLeft_eq]

theorem ixValue_shr : ixValue .shr n x y t = (BitVec.ofNat n x >>> ((BitVec.ofNat n t).toNat % n)).toNat := by
  simp only [ixValue, ← BitVec.toNat_ofNat]
  exact toNat_cut (by rw [BitVec.toNat_ushiftRight, Nat.shiftRight_eq_div_pow])

theorem ixValue_sar (hn : 0 < n) : ixValue .sar n x y t = ((BitVec.ofNat n x).sshiftRight ((BitVec.ofNat n t).toNat % n)).toNat := by
  simp only [ixValue, ← BitVec.toNat_ofNat]
  refine toNat_cut ?_
  rw [signed_toNat _ hn, BitVec.sshiftRight, BitVec.toNat_ofInt, Int.shiftRight_eq_div_pow, unsigned]
  norm_cast

theorem ixValue_rol : ixValue .rol n x y t = ((BitVec.ofNat n x).rotateLeft ((BitVec.ofNat n t).toNat % n)).toNat := by
  simp only [ixValue, ← BitVec.toNat_ofNat]
  generalize BitVec.ofNat n x = a
  rw [BitVec.toNat_ofNat, BitVec.toNat_rotateLeft, Nat.mod_mod, Nat.or_mod_two_pow, Nat.shiftLeft_eq, Nat.shiftRight_eq_div_pow,
    Nat.mod_eq_of_lt ((Nat.div_le_self _ _).trans_lt a.isLt)]

theorem ixValue_min (hn : 0 < n) : ixValue .min n x y t =
    (if (BitVec.ofNat n x).slt (BitVec.ofNat n t) then BitVec.ofNat n x else BitVec.ofNat n t).toNat := by
  simp only [ixValue, ← BitVec.toNat_ofNat, signed_toNat _ hn]
  exact toNat_cut_ite _ _ BitVec.slt_iff_toInt_lt.symm

theorem ixValue_max (hn : 0 < n) : ixValue .max n x y t =
    (if (BitVec.ofNat n x).slt (BitVec.ofNat n t) then BitVec.ofNat n t else BitVec.ofNat n x).toNat := by
  simp only [ixValue, ← BitVec.toNat_ofNat, signed_toNat _ hn]
  exact toNat_cut_ite _ _ BitVec.slt_iff_toInt_lt.symm

theorem ixValue_minu : ixValue .minu n x y t =
    (if (BitVec.ofNat n x).ult (BitVec.ofNat n t) then BitVec.ofNat n x else BitVec.ofNat n t).toNat := by
  simp only [ixValue, ← BitVec.toNat_ofNat]
  generalize BitVec.ofNat n x = a
  generalize BitVec.ofNat n t = c
  rw [show min a.toNat c.toNat = if a.toNat < c.toNat then a.toNat else c.toNat by split_ifs <;> omega]
  exact toNat_cut_ite _ _ BitVec.ult_iff_lt.symm

theorem ixValue_maxu : ixValue .maxu n x y t =
    (if (BitVec.ofNat n x).ult (BitVec.ofNat n t) then BitVec.ofNat n t else BitVec.ofNat n x).toNat := by
  simp only [ixValue, ← BitVec.toNat_ofNat]
  generalize BitVec.ofNat n x = a
  generalize BitVec.ofNat n t = c
  rw [show max a.toNat c.toNat = if a.toNat < c.toNat then c.toNat else a.toNat by split_ifs <;> omega]
  exact toNat_cut_ite _ _ BitVec.ult_iff_lt.symm

theorem ixValue_clz (hn : 0 < n) : ixValue .clz n x y t = (BitVec.ofNat n t).clz.toNat := by
  simp only [ixValue, ← BitVec.toNat_ofNat]
  exact toNat_cut (clzNat_toNat _ hn)

theorem ixValue_ctz : ixValue .ctz n x y t = (BitVec.ofNat n t).ctz.toNat := by
  simp only [ixValue, ← BitVec.toNat_ofNat]
  exact toNat_cut (ctzNat_toNat _)

theorem ixValue_popc : ixValue .popc n x y t = (BitVec.ofNat n t).cpop.toNat := by
  simp only [ixValue, ← BitVec.toNat_ofNat]
  exact toNat_cut (popcNat_toNat _)

theorem ixValue_bswap (m : Nat) : ixValue .bswap (8 * m) x y t =
    (BitVec.ofFnLE fun i : Fin (8 * m) => (BitVec.ofNat (8 * m) t).getLsbD (8 * (8 * m / 8 - 1 - i.val / 8) + i.val % 8)).toNat := by
  simp only [ixValue, ← BitVec.toNat_ofNat]
  refine toNat_cut ?_
  rw [← bswapNat_toNat, Nat.mul_div_cancel_left m (by decide)]

theorem ixValue_bext : ixValue .bext n x y t =
    ((BitVec.ofNat n x >>> (t % 64)) &&& BitVec.ofNat n (2 ^ min (t / 256 % 128) 64 - 1)).toNat := by
  simp only [ixValue, ← BitVec.toNat_ofNat, fieldPos, fieldLen]
  generalize 2 ^ min (t / 256 % 128) 64 - 1 = m
  generalize BitVec.ofNat n x = a
  rw [BitVec.toNat_ofNat, BitVec.toNat_and, BitVec.toNat_ushiftRight, BitVec.toNat_ofNat, Nat.and_mod_two_pow, Nat.shiftRight_eq_div_pow,
    Nat.mod_eq_of_lt ((Nat.div_le_self _ _).trans_lt a.isLt)]

theorem ixValue_bins : ixValue .bins n x y t =
    ((BitVec.ofNat n x &&& ~~~(BitVec.ofNat n (2 ^ min (t / 256 % 128) 64 - 1) <<< (t % 64))) |||
      ((BitVec.ofNat n y &&& BitVec.ofNat n (2 ^ min (t / 256 % 128) 64 - 1)) <<< (t % 64))).toNat := by
  simp only [ixValue, ← BitVec.toNat_ofNat, fieldPos, fieldLen]
  generalize 2 ^ min (t / 256 % 128) 64 - 1 = m
  generalize BitVec.ofNat n x = a
  generalize BitVec.ofNat n y = b
  have hmask : m * 2 ^ (t % 64) % 2 ^ n = (BitVec.ofNat n m <<< (t % 64)).toNat := by
    rw [BitVec.toNat_shiftLeft, BitVec.toNat_ofNat, Nat.shiftLeft_eq, Nat.mod_mul_mod]
  have hkept : andNot n a.toNat (m * 2 ^ (t % 64)) = (a &&& ~~~(BitVec.ofNat n m <<< (t % 64))).toNat := by
    rw [← andNot_toNat, ← hmask, andNot, andNot, Nat.mod_mod]
  have hfield : (b.toNat &&& m) * 2 ^ (t % 64) % 2 ^ n = ((b &&& BitVec.ofNat n m) <<< (t % 64)).toNat := by
    have hb : b.toNat &&& m = (b &&& BitVec.ofNat n m).toNat := by
      rw [BitVec.toNat_and, BitVec.toNat_ofNat, ← Nat.mod_eq_of_lt (Nat.and_le_left.trans_lt b.isLt), Nat.and_mod_two_pow, BitVec.toNat_mod_cancel]
    rw [BitVec.toNat_shiftLeft, Nat.shiftLeft_eq, hb]
  rw [BitVec.toNat_ofNat, Nat.or_mod_two_pow, hkept, hfield, BitVec.toNat_mod_cancel, BitVec.toNat_or]

theorem ixValue_sel : ixValue .sel n x y t = (if t % 2 = 1 then BitVec.ofNat n x else BitVec.ofNat n y).toNat := by
  simp only [ixValue, ← BitVec.toNat_ofNat]
  exact toNat_cut_ite _ _ Iff.rfl

theorem ixValue_mov : ixValue .mov n x y t = (BitVec.ofNat n t).toNat := by
  simp only [ixValue, ← BitVec.toNat_ofNat]
  exact toNat_cut rfl

end

theorem wBits_pos (m : IntW) : 0 < wBits m := by cases m <;> decide

theorem wBits_bytes (m : IntW) : ∃ b, wBits m = 8 * b := by
  cases m with
  | d => exact ⟨8, rfl⟩
  | w => exact ⟨4, rfl⟩
  | h => exact ⟨2, rfl⟩
  | b => exact ⟨1, rfl⟩

theorem ixValue_bswap_of_bytes {n : Nat} (h : ∃ b, n = 8 * b) (x y t : Nat) : ixValue .bswap n x y t =
    (BitVec.ofFnLE fun i : Fin n => (BitVec.ofNat n t).getLsbD (8 * (n / 8 - 1 - i.val / 8) + i.val % 8)).toNat := by
  obtain ⟨b, rfl⟩ := h
  exact ixValue_bswap x y t b

/-- Settles O1: ix is plain, and the value of each of its operations is that of the bit vectors (the ixValue lemmas). -/
theorem integerUnitResults : Obligations.IntegerUnitResults := by
  unfold Obligations.IntegerUnitResults
  intro s k p g src u m n un nm t a b c sh pos mask go
  have hn : 0 < n := wBits_pos m
  have ix {i : Instr} {op : IxOp} {z : BitVec n} (hi : i.group = some (oneMove g src (.trig (un op))))
      (hz : ixValue op n (s.op1 k p nm) (s.op2 k p nm) t = z.toNat) : go i op z :=
    yields_plain hi rfl (congrArg (fun v => some (Yield.one 1 v)) hz)
  exact ⟨ix rfl (ixValue_add ..), ix rfl (ixValue_sub ..), ix rfl (ixValue_and ..), ix rfl (ixValue_or ..), ix rfl (ixValue_xor ..),
    ix rfl (ixValue_andn ..), ix rfl (ixValue_shl ..), ix rfl (ixValue_shr ..), ix rfl (ixValue_sar _ _ _ hn), ix rfl (ixValue_rol ..),
    ix rfl (ixValue_min _ _ _ hn), ix rfl (ixValue_max _ _ _ hn), ix rfl (ixValue_minu ..), ix rfl (ixValue_maxu ..),
    ix rfl (ixValue_clz _ _ _ hn), ix rfl (ixValue_ctz ..), ix rfl (ixValue_popc ..), ix rfl (ixValue_bswap_of_bytes (wBits_bytes m) ..),
    ix rfl (ixValue_bext ..), ix rfl (ixValue_bins ..), ix rfl (ixValue_sel ..), ix rfl (ixValue_mov ..)⟩

end Sys2Proof.Machine
end

section
/-! What a compute trigger of mx samples (R226, R227, R234, R235): the row tag, the masks, the elements of its row and the cells of
its plane, and the lanes of its outputs. -/

namespace Sys2Proof.Machine

/-! ### Lanes -/

/-- A lane of a value made of lanes is the low bits of what stands there, 0 past the end. -/
theorem lane_ofLanes (k : Nat) (xs : List Nat) (n : Nat) : lane k (ofLanes k xs) n = xs.getD n 0 % 2 ^ k := by
  have hk : 0 < 2 ^ k := Nat.two_pow_pos k
  induction xs generalizing n with
  | nil => simp [lane, ofLanes]
  | cons x xs ih =>
    have hx : ofLanes k (x :: xs) = x % 2 ^ k + 2 ^ k * ofLanes k xs := rfl
    cases n with
    | zero => simp [lane, hx]
    | succ n =>
      rw [List.getD_cons_succ, ← ih n, hx, lane, lane, Nat.mul_succ, Nat.add_comm (k * n) k, pow_add, ← Nat.div_div_eq_div_mul,
        Nat.add_mul_div_left _ _ hk, Nat.div_eq_of_lt (Nat.mod_lt _ hk), Nat.zero_add]

/-- The signed value of the low bits is that of the bit vector. -/
theorem signed_eq_toInt {k : Nat} (hk : 0 < k) (x : Nat) : signed k x = (BitVec.ofNat k x).toInt := by
  rw [← signed_toNat _ hk, BitVec.toNat_ofNat, signed, signed, Nat.mod_mod]

theorem laneBv_toInt {k : Nat} (hk : 0 < k) (x l : Nat) : (laneBv k x l).toInt = signed k (lane k x l) := (signed_eq_toInt hk _).symm

theorem mxBits_pos (f : Nat) : 0 < mxBits f := by
  unfold mxBits
  split <;> decide

/-! ### The row tag and the masks (R234, R235) -/

/-- A field of a field. -/
theorem div_mod_div_mod {a b c d n s : Nat} (x : Nat) (hs : a + b = s) (hn : b + c = n) (h : d ≤ c) :
    x / 2 ^ a % 2 ^ n / 2 ^ b % 2 ^ d = x / 2 ^ s % 2 ^ d := by
  rw [← hn, ← hs, pow_add 2 b c, Nat.mod_mul_right_div_self, Nat.mod_mod_of_dvd _ (pow_dvd_pow 2 h), Nat.div_div_eq_div_mul, ← pow_add]

theorem tagAdid_rowTag (t : Nat) : tagAdid (rowTag t) = t / 2 ^ 8148 % 4096 :=
  div_mod_div_mod (c := 44) (d := 12) t rfl rfl (by decide)

variable (i : MxIn)

/-- The token that a row stands for. -/
def MxIn.tidx : Nat := i.t / 2 ^ 8160 % 2 ^ 32

/-- MSK of the row. -/
def MxIn.msk : Bool := i.t / 2 ^ 8128 % 2 == 1

theorem tagTidx_rowTag : tagTidx (rowTag i.t) = i.tidx := div_mod_div_mod (c := 32) i.t rfl rfl le_rfl

theorem tagMsk_rowTag : tagMsk (rowTag i.t) = i.msk := by
  rw [tagMsk, rowTag, Nat.mod_mod_of_dvd _ (by decide)]
  rfl

/-- A token that MXPAD sets beyond the limit. -/
def MxIn.past (a : Nat) : Bool := i.mxpad.getLsbD 32 && decide (fld i.mxpad 0 32 ≤ a)

/-- The whole row is masked. -/
def MxIn.rowMask : Bool := fld i.cfg 8 2 == 1 && (i.msk || i.past i.tidx)

/-- Column n is masked. -/
def MxIn.colMask (n : Nat) : Bool := fld i.cfg 8 2 == 3 && i.past (i.tidx + n)

/-- Element e of the row is masked. -/
def MxIn.elemMask (e : Nat) : Bool := fld i.cfg 8 2 == 2 && (i.msk || i.past (i.tidx + e))

/-- Column n lies above the diagonal of mmt. -/
def MxIn.above (n : Nat) : Bool := i.op == .mmt && decide ((i.tidx : Int) + i.diag < (n : Int))

/-- The accumulator of column n. -/
def MxIn.acc (n : Nat) : Nat := if i.z then 0 else if n < 256 then lane 32 i.o1 n else lane 32 i.o2 (n - 256)

/-- The row of cells that element j of the row meets, in column n. -/
def MxIn.cell (j n : Nat) : Int :=
  (laneBv (mxBits i.plane.fmt.toNat) (Cells.nat i.plane.cells (256 * j) 256) n).toInt

theorem mxRowMasked_eq : mxRowMasked i = i.rowMask := by
  rw [mxRowMasked, tagMsk_rowTag, tagTidx_rowTag]
  rfl

/-- The A row block by block, in the terms of the masks. -/
theorem mxRowA_eq : mxRowA i = (List.range 8).map fun b => alignBlock (cfgAfmt i.cfg) (mxWa (cfgAfmt i.cfg)) (lane 8 i.o3 b)
    ((List.range 32).map fun e => lane (mxBits (cfgAfmt i.cfg)) i.t (32 * b + e)) ((List.range 32).map fun e => i.elemMask (32 * b + e)) := by
  rw [mxRowA, tagMsk_rowTag, tagTidx_rowTag]
  rfl

/-- The 32 cells of block b in a column. -/
theorem planeColumn_rows {b : Nat} (hb : b < 8) (n : Nat) :
    planeColumn (mxBits i.plane.fmt.toNat) i.plane.rows b n = (List.range 32).map fun e => i.cell (32 * b + e) n := by
  apply List.ext_getElem
  · simp only [planeColumn, Plane.rows, List.length_map, List.length_take, List.length_drop, List.length_range]
    omega
  · intro e _ _
    simp [planeColumn, Plane.rows, MxIn.cell, laneBv_toInt (mxBits_pos _)]

theorem above_iff (n : Nat) : i.above n = true ↔ i.op = .mmt ∧ (i.tidx : Int) + i.diag < (n : Int) := by
  simp [MxIn.above]

/-- The masks of a row and a column as the model joins them. -/
theorem colMask_eq (n : Nat) : (cfgTax i.cfg == 3 && padEn i.mxpad && decide (padLim i.mxpad ≤ i.tidx + n)) = i.colMask n :=
  Bool.and_assoc _ _ _

/-- Output n of a compute trigger. -/
def MxIn.col (n : Nat) : Nat × FFlags := mxColumn i (mxRowA i) i.plane.rows i.rowMask n

/-- Lanes of res and res1 are the outputs, 0 from C_B on (R235). -/
theorem mxCompute_lane {n : Nat} (hn : n < 512) : lane 32 (if n < 256 then (mxCompute i).res else (mxCompute i).res1) (n % 256) =
    if n < mxCb i.plane.fmt.toNat then (i.col n).1 % 2 ^ 32 else 0 := by
  have hl : ∀ m, (((List.range (mxCb i.plane.fmt.toNat)).map i.col).map Prod.fst).getD m 0 % 2 ^ 32 =
      if m < mxCb i.plane.fmt.toNat then (i.col m).1 % 2 ^ 32 else 0 := by
    intro m
    split_ifs with hm <;> simp [List.getD_eq_getElem?_getD, hm]
  rw [← hl]
  simp only [mxCompute, mxRowMasked_eq]
  by_cases h : n < 256
  · rw [if_pos h, lane_ofLanes, Nat.mod_eq_of_lt h, List.getD_eq_getElem?_getD, List.getElem?_take_of_lt h]
    rfl
  · rw [if_neg h, lane_ofLanes, List.getD_eq_getElem?_getD, List.getElem?_drop, show 256 + n % 256 = n by omega]
    rfl

/-- The flags of a compute trigger are those of its outputs (R94). -/
theorem mxCompute_fl : (mxCompute i).fl = (List.range (mxCb i.plane.fmt.toNat)).foldl (fun f n => f ||| (i.col n).2) 0 := by
  simp only [mxCompute, mxRowMasked_eq, List.foldl_map]
  rfl

/-- flag tells TIDX, OF, NV and a masked row (R235). -/
theorem mxCompute_flag : (mxCompute i).flag = i.tidx * 2 ^ 32 + (if (mxCompute i).fl &&& fOF = 0 then 0 else 4) +
    (if (mxCompute i).fl &&& fNV = 0 then 0 else 2) + i.rowMask.toNat := by
  rw [Bool.toNat, Bool.cond_eq_ite, ← mxRowMasked_eq, ← tagTidx_rowTag]
  rfl


theorem mxCompute_flag_of_clean (h : (mxCompute i).fl = 0) : (mxCompute i).flag = i.tidx * 2 ^ 32 + i.rowMask.toNat := by
  rw [mxCompute_flag, h]
  simp

end Sys2Proof.Machine
end

section
/-! The integer passes of mx (R98, R234, R235): a pair of integer formats gives sums of products modulo 2^32. -/

namespace Sys2Proof.Machine

/-! ### Elements and cells -/

theorem rneInt_natAbs (v : Int) : rneInt (.fin (decide (v < 0)) v.natAbs 0) = v := by
  simp only [rneInt, roundShift, neg_zero, le_refl, ↓reduceIte, Bool.false_and, Bool.false_eq_true, Int.toNat_zero, pow_zero,
    mul_one, decide_eq_true_eq]
  split_ifs <;> omega

theorem rneInt_zero (e : Int) : rneInt (.fin false 0 e) = 0 := by
  simp [rneInt, roundShift]

/-- An element of an integer format is the integer of its bits. -/
theorem rneInt_mxElem {f : Nat} (hf : mxInteger f = true) (x : Nat) : rneInt (mxElem f x) = signed (mxBits f) x := by
  simp only [mxInteger, Bool.or_eq_true, beq_iff_eq] at hf
  obtain rfl | rfl := hf <;> exact rneInt_natAbs _

/-- Alignment leaves integers as they are, a masked one 0 (R96). -/
theorem alignBlock_integer {f : Nat} (hf : mxInteger f = true) (w x : Nat) (codes : List Nat) (masked : List Bool) :
    (alignBlock f w x codes masked).q = (codes.zip masked).map fun y => if y.2 then 0 else signed (mxBits f) y.1 := by
  simp only [alignBlock, hf, ↓reduceIte, List.map_map]
  refine List.map_congr_left fun y _ => ?_
  simp only [Function.comp]
  split_ifs
  · exact rneInt_zero 0
  · exact rneInt_mxElem hf _

/-- The low bits of an accumulation are those of a sum of bit vectors (R98). -/
theorem unsigned_signed_add {k : Nat} (hk : 0 < k) (x : Nat) (v : Int) :
    unsigned k (signed k x + v) = (BitVec.ofNat k x + BitVec.ofInt k v).toNat := by
  have hu (y : Int) : unsigned k y = (BitVec.ofInt k y).toNat := by
    rw [BitVec.toNat_ofInt, Nat.cast_pow]
    rfl
  rw [hu, BitVec.ofInt_add, signed_eq_toInt hk, BitVec.ofInt_toInt]

/-- A sum over a rows of b terms is one over a x b terms. -/
theorem sum_range_blocks (f : Nat → Int) (a b : Nat) :
    ((List.range a).map fun j => ((List.range b).map fun e => f (b * j + e)).sum).sum = ((List.range (a * b)).map f).sum := by
  induction a with
  | zero => simp
  | succ a ih =>
    rw [List.range_succ, List.map_append, List.sum_append, ih, Nat.succ_mul, List.range_add, List.map_append, List.sum_append,
      Nat.mul_comm a b]
    simp [Function.comp_def]

section
variable (i : MxIn)

/-- Element j of a row of integers, 0 where it is masked. -/
def MxIn.intElem (j : Nat) : Int := if i.elemMask j then 0 else (laneBv (mxBits (cfgAfmt i.cfg)) i.t j).toInt

/-- The sum of products of a column. -/
def MxIn.intSum (n : Nat) : Int := ((List.range 256).map fun j => i.intElem j * i.cell j n).sum

variable {i} (hi : mxInteger (cfgAfmt i.cfg) = true)
include hi

/-- A block of the A row is its 32 elements. -/
theorem mxRowA_integer {b : Nat} (hb : b < 8) :
    ((mxRowA i).getD b ⟨[], none⟩).q = (List.range 32).map fun e => i.intElem (32 * b + e) := by
  rw [mxRowA_eq, List.getD_eq_getElem _ _ (by simpa using hb), List.getElem_map, List.getElem_range, alignBlock_integer hi, List.zip_map',
    List.map_map]
  refine List.map_congr_left fun e _ => ?_
  simp only [Function.comp, MxIn.intElem, laneBv_toInt (mxBits_pos _)]

/-- The blocks' sums of products are one sum. -/
theorem blocks_intSum (n : Nat) :
    ((List.range 8).map fun b => ((((mxRowA i).getD b ⟨[], none⟩).q.zip
      (planeColumn (mxBits i.plane.fmt.toNat) i.plane.rows b n)).map fun (x, y) => x * y).sum).sum = i.intSum n := by
  rw [MxIn.intSum, ← sum_range_blocks _ 8 32]
  refine congrArg List.sum (List.map_congr_left fun b hb => ?_)
  have hb : b < 8 := List.mem_range.1 hb
  rw [mxRowA_integer hi hb, planeColumn_rows i hb, List.zip_map', List.map_map]
  rfl

/-- Output n of an integer pass (R98, R235). -/
theorem col_integer (n : Nat) : i.col n =
    if i.rowMask || i.colMask n || i.above n then (2 ^ 31, 0) else (unsigned 32 (signed 32 (i.acc n) + i.intSum n), 0) := by
  simp only [MxIn.col, mxColumn, tagTidx_rowTag, colMask_eq, ← above_iff, hi, mxFill, blocks_intSum hi, ↓reduceIte]
  cases i.rowMask || i.colMask n <;> rfl

end

/-! ### The obligation -/

/-- Settles O12: an output is a lane of the columns, and a column of an integer pair a sum of products. -/
theorem integerMatrixSum : Obligations.IntegerMatrixSum := by
  unfold Obligations.IntegerMatrixSum
  intro i n hi _ hn tidx msk past rowm colm elm above a b acc out
  have hfl : out.fl = 0 := by
    have : ∀ n, (i.col n).2 = 0 := fun n => by rw [col_integer hi]; split_ifs <;> rfl
    exact (mxCompute_fl i).trans (by simp [this])
  refine ⟨(mxCompute_lane i hn).trans ?_, hfl, mxCompute_flag_of_clean i hfl⟩
  change _ = if mxCb i.plane.fmt.toNat ≤ n then 0 else if i.rowMask || i.colMask n || i.above n then 2 ^ 31 else
    (BitVec.ofNat 32 (i.acc n) + BitVec.ofInt 32 (i.intSum n)).toNat
  rw [col_integer hi, unsigned_signed_add (by decide), ← ite_not]
  simp only [Nat.not_lt]
  split_ifs
  · rfl
  · rfl
  · exact Nat.mod_eq_of_lt (BitVec.isLt _)

end Sys2Proof.Machine
end

section
/-! The float passes of mx (R96, R97, R234, R235): alignment of the blocks of the A row, the partials, their tree and the outputs. -/

namespace Sys2Proof.Machine

/-! ### The tree of R97 -/

/-- A sum of two codes that keeps OF and NV (R95, R97). -/
def mxAdd (a b : Nat × FFlags) : Nat × FFlags := ((addRne a.1 b.1).1, a.2 ||| b.2 ||| ofNv (addRne a.1 b.1).2)

theorem ofNv_or (a b : FFlags) : ofNv (a ||| b) = ofNv a ||| ofNv b := by
  rw [ofNv, ofNv, ofNv, BitVec.and_comm, BitVec.and_or_distrib_left, BitVec.and_comm a, BitVec.and_comm b]

/-- The tree over eight partials and the accumulator, with the flags of the partials. -/
theorem mxTree_eight (p : Nat → Nat × FFlags) (acc : Nat) :
    ((mxTree (((List.range 8).map p).map Prod.fst) acc).1,
      ((List.range 8).map p).foldl (fun f y => f ||| y.2) (mxTree (((List.range 8).map p).map Prod.fst) acc).2) =
    mxAdd (acc, 0) (mxAdd (mxAdd (mxAdd (p 0) (p 1)) (mxAdd (p 2) (p 3))) (mxAdd (mxAdd (p 4) (p 5)) (mxAdd (p 6) (p 7)))) := by
  have hr : List.range 8 = [0, 1, 2, 3, 4, 5, 6, 7] := rfl
  simp only [hr, List.map_cons, List.map_nil, mxTree, reduceTree, reduceLevel, List.foldl_cons, List.foldl_nil, mxAdd, Prod.mk.injEq,
    true_and, ofNv_or]
  ac_rfl

/-! ### Alignment (R96) -/

/-- A NaN or an infinity. -/
def FNum.notFin : FNum → Bool
  | .fin _ _ _ => false
  | _ => true

/-- The greatest of a list, 0 of an empty one. -/
def maxLog : List Int → Int
  | [] => 0
  | l :: r => r.foldl max l

theorem maxLog_eq (ls : List Int) : maxLog ls = ls.tail.foldl max (ls.headD 0) := by
  cases ls <;> rfl

/-- The elements that a block aligns: a masked one counts as 0. -/
def maskedElems (f : Nat) (codes : List Nat) (masked : List Bool) : List FNum :=
  (codes.zip masked).map fun y => if y.2 then .fin false 0 0 else mxElem f y.1

/-- The alignment of a block of floats. -/
theorem alignBlock_float {f : Nat} (hf : mxInteger f = false) (w x : Nat) (codes : List Nat) (masked : List Bool) :
    alignBlock f w x codes masked =
      if mxScaled f && x == 255 || codes.any fun c => (mxElem f c).notFin then ⟨(maskedElems f codes masked).map fun _ => 0, none⟩
      else
        let emax := maxLog ((maskedElems f codes masked).filterMap FNum.log2)
        ⟨(maskedElems f codes masked).map fun v => rneInt (v.scale ((w : Int) - 2 - emax)),
          some ((if mxScaled f then (x : Int) - 127 else 0) + emax - ((w : Int) - 2))⟩ := by
  rw [Bool.or_comm, alignBlock, hf]
  rfl

variable (i : MxIn)

/-- Element e of the A row. -/
def MxIn.elem (e : Nat) : FNum := mxElem (cfgAfmt i.cfg) (lane (mxBits (cfgAfmt i.cfg)) i.t e)

/-- floor(log2) of the elements of block b that are not masked and not zero. -/
def MxIn.logs (b : Nat) : List Int :=
  (List.range 32).filterMap fun e => if i.elemMask (32 * b + e) then none else (i.elem (32 * b + e)).log2

/-- emax of block b. -/
def MxIn.emax (b : Nat) : Int := (i.logs b).tail.foldl max ((i.logs b).headD 0)

/-- The exponent that the scale byte of block b adds. -/
def MxIn.scaleExp (b : Nat) : Int := if mxScaled (cfgAfmt i.cfg) then (lane 8 i.o3 b : Int) - 127 else 0

/-- Block b of the row is invalid. -/
def MxIn.invalid (b : Nat) : Bool :=
  mxScaled (cfgAfmt i.cfg) && lane 8 i.o3 b == 255 || (List.range 32).any fun e => (i.elem (32 * b + e)).notFin

/-- Integer e of block b. -/
def MxIn.qa (b e : Nat) : Int :=
  if i.elemMask (32 * b + e) then 0 else rneInt ((i.elem (32 * b + e)).scale ((mxWa (cfgAfmt i.cfg) : Int) - 2 - i.emax b))

/-- The elements of block b of the row, a masked one as 0. -/
theorem maskedElems_row (b : Nat) :
    maskedElems (cfgAfmt i.cfg) ((List.range 32).map fun e => lane (mxBits (cfgAfmt i.cfg)) i.t (32 * b + e))
      ((List.range 32).map fun e => i.elemMask (32 * b + e)) =
    (List.range 32).map fun e => if i.elemMask (32 * b + e) then .fin false 0 0 else i.elem (32 * b + e) := by
  rw [maskedElems, List.zip_map', List.map_map]
  rfl

theorem logs_eq (b : Nat) : ((List.range 32).map fun e => if i.elemMask (32 * b + e) then .fin false 0 0 else i.elem (32 * b + e)).filterMap
    FNum.log2 = i.logs b := by
  rw [List.filterMap_map]
  exact List.filterMap_congr fun e _ => apply_ite FNum.log2 _ _ _

theorem qa_eq (b e : Nat) : rneInt ((if i.elemMask (32 * b + e) then .fin false 0 0 else i.elem (32 * b + e)).scale
    ((mxWa (cfgAfmt i.cfg) : Int) - 2 - i.emax b)) = i.qa b e := by
  unfold MxIn.qa
  split_ifs
  · exact rneInt_zero _
  · rfl

/-- Block b of a row of floats. -/
theorem mxRowA_float (hi : mxInteger (cfgAfmt i.cfg) = false) {b : Nat} (hb : b < 8) : (mxRowA i).getD b ⟨[], none⟩ =
    if i.invalid b then ⟨(List.range 32).map fun _ => 0, none⟩
    else ⟨(List.range 32).map (i.qa b), some (i.scaleExp b + i.emax b - ((mxWa (cfgAfmt i.cfg) : Int) - 2))⟩ := by
  rw [mxRowA_eq, List.getD_eq_getElem _ _ (by simpa using hb), List.getElem_map, List.getElem_range, alignBlock_float hi, maskedElems_row,
    logs_eq, maxLog_eq, ← MxIn.emax]
  simp only [List.map_map, List.any_map, Function.comp_def, qa_eq]
  rfl

/-! ### The partials (R97) -/

/-- eq of block b and column n of the plane. -/
def MxIn.eqCell (b n : Nat) : BitVec 16 := BitVec.ofNat 16 (Cells.nat i.plane.eq (2 * (512 * b + n)) 2)

/-- The sum of products of block b and column n. -/
def MxIn.blockSum (n b : Nat) : Int := ((List.range 32).map fun e => i.qa b e * i.cell (32 * b + e) n).sum

/-- The partial of block b and column n. -/
def MxIn.part (n b : Nat) : Nat × FFlags :=
  if i.invalid b || i.eqCell b n == 0x8000 then (fp32.nan, fNV)
  else
    let y := fp32.pack 0 (.num (decide (i.blockSum n b < 0)) (i.blockSum n b).natAbs
      (i.scaleExp b + i.emax b - ((mxWa (cfgAfmt i.cfg) : Int) - 2) + (i.eqCell b n).toInt) false)
    (y.1, ofNv y.2)

theorem eqAt_eq (b n : Nat) : i.plane.eqAt b n = if i.eqCell b n == 0x8000 then none else some (i.eqCell b n).toInt := by
  have h : (i.eqCell b n == 0x8000) = decide (Cells.nat i.plane.eq (2 * (512 * b + n)) 2 % 65536 = 0x8000) := by
    rw [Bool.beq_eq_decide_eq, MxIn.eqCell]
    simp [← BitVec.toNat_inj]
  rw [h, Plane.eqAt, eqOf, MxIn.eqCell, ← signed_eq_toInt (by decide)]
  simp

theorem mxPartial_eq (hi : mxInteger (cfgAfmt i.cfg) = false) {b : Nat} (hb : b < 8) (n : Nat) :
    mxPartial ((mxRowA i).getD b ⟨[], none⟩).q (planeColumn (mxBits i.plane.fmt.toNat) i.plane.rows b n)
      ((mxRowA i).getD b ⟨[], none⟩).eq (i.plane.eqAt b n) = i.part n b := by
  rw [mxRowA_float i hi hb, planeColumn_rows i hb, eqAt_eq, MxIn.part]
  cases i.invalid b
  · cases i.eqCell b n == 0x8000
    · simp only [mxPartial, List.zip_map', List.map_map, Bool.false_eq_true, ↓reduceIte, Bool.or_self]
      rfl
    · rfl
  · rfl

/-! ### Outputs (R235, R237) -/

/-- The aligned pass of column n. -/
def MxIn.pass (n : Nat) : Nat × FFlags :=
  mxAdd (i.acc n, 0) (mxAdd (mxAdd (mxAdd (i.part n 0) (i.part n 1)) (mxAdd (i.part n 2) (i.part n 3)))
    (mxAdd (mxAdd (i.part n 4) (i.part n 5)) (mxAdd (i.part n 6) (i.part n 7))))

/-- The pass of column n and the term of an adapter. -/
def MxIn.total (n : Nat) : Nat × FFlags :=
  match i.ad with
  | none => i.pass n
  | some ad => mxAdd (i.pass n) ((ad n).1, ofNv (ad n).2)

/-- A fill of a float pair. -/
def floatFill (y : Nat) : Nat := if 0x7F80 < y % 2 ^ 15 then 0x7FC00000 else y % 65536 * 65536

/-- Output n of a float pass. -/
theorem col_float (hi : mxInteger (cfgAfmt i.cfg) = false) (n : Nat) : i.col n =
    if i.rowMask || i.colMask n then (floatFill (fld i.mxpad 48 16), 0)
    else if i.above n then (floatFill i.tfill, 0) else i.total n := by
  have hp : ((List.range 8).map fun b => mxPartial ((mxRowA i).getD b ⟨[], none⟩).q
      (planeColumn (mxBits i.plane.fmt.toNat) i.plane.rows b n)
      ((mxRowA i).getD b ⟨[], none⟩).eq (i.plane.eqAt b n)) = (List.range 8).map (i.part n) :=
    List.map_congr_left fun b hb => mxPartial_eq i hi (List.mem_range.1 hb) n
  simp only [MxIn.col, mxColumn, tagTidx_rowTag, colMask_eq, ← above_iff, hi, mxFill, hp, ↓reduceIte, Bool.false_eq_true]
  have ht : i.pass n = _ := (mxTree_eight (i.part n) (i.acc n)).symm
  rw [MxIn.total, ht]
  cases i.ad <;> rfl

end Sys2Proof.Machine
end

section
/-! The words of mx (R228, R232 to R237, R352): what a trigger of mx does on clean and on poisoned inputs, and what a compute
trigger puts in flight. -/

namespace Sys2Proof.Machine

/-! ### Triggers of mx -/

/-- The triggers of mx. -/
def ofMx : Trigger → Bool
  | .mxBld _ | .mxBsw _ | .mxComp _ _ _ | .mxMcfg _ => true
  | _ => false

theorem markMx_q (e : Env) (m : BitVec 3) : (e.markMx m).q = e.q := by
  unfold Env.markMx
  split_ifs <;> rfl

theorem bld_loop (e : Env) (m : BitVec 3) (x : Nat) (r : UnitRegs) (psn : Bool) : (e.bld m x r psn).q.loop = e.q.loop := launch_loop _ _ _ _

/-- No trigger of mx touches the loop engine. -/
theorem fireClean_loop {t : Trigger} (ht : ofMx t = true) (e : Env) (n x : Nat) (r : UnitRegs) :
    (e.fireClean n t x r).q.loop = e.q.loop := by
  cases t with
  | mxBld m => exact (congrArg Partition.loop (markMx_q _ m)).trans (bld_loop e m x r false)
  | mxBsw m => exact congrArg Partition.loop (markMx_q _ m)
  | mxMcfg m => exact congrArg Partition.loop (markMx_q _ m)
  | mxComp op m z => exact (launch_loop _ _ _ _).trans (congrArg Partition.loop (markMx_q _ m))
  | _ => cases ht

theorem firePoisoned_loop {t : Trigger} (ht : ofMx t = true) (hk : trigSink t = false) (e : Env) (x : Nat) (r : UnitRegs) (w : Word) :
    (e.firePoisoned t x r w).q.loop = e.q.loop := by
  cases t with
  | mxBld m => exact (congrArg Partition.loop (markMx_q _ m)).trans (bld_loop e m x r true)
  | mxBsw m => rfl
  | mxMcfg m => cases hk
  | mxComp op m z => exact (launch_loop _ _ _ _).trans (congrArg Partition.loop (markMx_q _ m))
  | _ => cases ht

section
variable {s : State} {k p : Nat} {g : Guard} {src : Src} {t : Trigger}

/-- A trigger of mx is judged by neither its values nor an access (R228, R368). -/
theorem checks_mx (ht : ofMx t = true) (e : Env) (gr : Group) (it : Item) (x : Nat) (r : UnitRegs) (n : Nat) :
    isGlobal t = false ∧ e.judgeValue gr it t x r = .go ∧ e.judgeRoom t = .go ∧ e.judgeAccess t x r n = .go := by
  cases t with
  | mxBld | mxBsw | mxMcfg | mxComp => exact ⟨rfl, rfl, rfl, rfl⟩
  | _ => cases ht

/-- A trigger of mx meets nothing but reserved uses and the refusal of its unit (R228, R368). -/
theorem passes_mx (ht : ofMx t = true) (hr : (s.env k p).reservedUse t = false) (hm : (s.env k p).mxRefuses t = false) :
    Passes s k p g src t := by
  obtain ⟨hg, hv, hroom, hacc⟩ := checks_mx ht (s.env k p) (oneMove g src (.trig t)) ⟨0, 0, g, .move src (.trig t)⟩
    (s.datum k p src t.unit) (s.ports k p t.unit) 0
  exact ⟨by rw [hg, Bool.and_false], hr, hm, hv, fun _ => ⟨hroom, hacc⟩⟩

/-- A trigger of mx on clean inputs does what it does. -/
theorem exec_macro {i : Instr} (hi : i.group = some (oneMove g src (.trig t))) (ht : ofMx t = true) (h : s.macroFires k p g src t = true) :
    exec i s = .next (s.afterMove k p src fun e => e.fireClean 1 t (s.datum k p src t.unit) (s.ports k p t.unit)) := by
  simp only [State.macroFires, State.fires, Bool.and_eq_true, Bool.not_eq_true'] at h
  obtain ⟨⟨⟨hready, hx⟩, hr⟩, hm⟩ := h
  refine exec_trigger hi hready hx (passes_mx ht hr hm) ?_
  rw [fireClean_loop ht, readSrc_q]
  exact Bool.and_not_self _

/-- The checks of a trigger of mx that is no sink ask for no clean inputs (R352). -/
theorem macro_go (ht : ofMx t = true) (hk : trigSink t = false) {e : Env} (hr : e.reservedUse t = false) (hm : e.mxRefuses t = false)
    (gr : Group) (it : Item) (d : Read) : Judge.dest ⟨e, [], .go⟩ gr it (.trig t) (some d) = .go := by
  obtain ⟨hg, hv, hroom, hacc⟩ := checks_mx ht e gr it (d.at (trigWidth (prtWidth e.p) t.unit)).toNat (e.q.unit t.unit) it.slot
  have hun : Judge.unknown ⟨e, [], .go⟩ t.unit (trigUses e.sh0 (e.q.unit t.unit) t) = false := by simp [Judge.unknown]
  simp only [Judge.dest, Judge.trigger, hr, Env.judgeMx, hm, hg, hv, hroom, hacc, hun, hk, encodeIf, Verdict.trapIf_false, Bool.and_false,
    Bool.false_eq_true, ↓reduceIte, Verdict.go_and, Option.isSome_some, Bool.true_or, Bool.not_false, Bool.and_self, ite_self]
  split <;> rfl

/-- A trigger of mx with a poisoned input that it uses, which is no sink, fires poisoned (R352). -/
theorem exec_macro_poisoned {i : Instr} (hi : i.group = some (oneMove g src (.trig t))) (ht : ofMx t = true) (hk : trigSink t = false)
    (h : s.placed k p g src (.trig t) = true) (hr : (s.env k p).reservedUse t = false) (hm : (s.env k p).mxRefuses t = false)
    {w : Word} (hw : s.poisonIn k p src t = some w) : ∃ y, w = y ||| bitAt 54 true ∧
      exec i s = .next (s.afterMove k p src fun e => e.firePoisoned t (s.datum k p src t.unit) (s.ports k p t.unit) y) := by
  obtain ⟨y, hy, rfl⟩ := poisonIn_some hw
  refine ⟨y.pw, rfl, ?_⟩
  have hf : (s.env k p).moved src (.trig t) =
      ((s.env k p).readSrc src).1.firePoisoned t (s.datum k p src t.unit) (s.ports k p t.unit) y.pw := by
    have he : (((s.env k p).readSrc src).1).ports t = s.ports k p t.unit ∧ ((s.env k p).readSrc src).1.sh0 = (s.core k).sh0 ∧
        ((s.env k p).readSrc src).1.p = p := by cases src <;> exact ⟨rfl, rfl, rfl⟩
    have hd : ({ (s.env k p).readPlain src with bits := ((s.env k p).readPlain src).at (trigWidth (prtWidth p) t.unit) } : Read) =
        s.datumRead k p src t.unit := rfl
    simp only [Env.moved, Env.writeItem, Env.fire, readSrc_snd, he, hd, hy]
    rfl
  have hph := (atTurn_iff.1 (placed_iff.1 h).1).1
  rw [exec_group hi, execGroup_turn hph, issue_one h (macro_go ht hk hr hm _ _ _)
    (by rw [hf, firePoisoned_loop ht hk, readSrc_q]; exact Bool.and_not_self _), hf]
  rfl

end

/-! ### Results of compute triggers (R236, R237, R352) -/

/-- A result whose three latches hold a poison word (R236, R352). -/
def macroDead (lat : Nat) (w : Word) : Yield :=
  { lat := lat, res := some w.toNat, res1 := some w.toNat, flag := some w.toNat, psn := true }

/-- The result of what a compute trigger computes. -/
def macroYield (lat : Nat) (o : MxOut) : Yield := { lat := lat, res := some o.res, res1 := some o.res1, flag := some o.flag, fl := o.fl }

/-- A poison word of a result that poison made, which names no ring entry (R351). -/
def derWord (cause : Nat) : Word := at' 56 cause ||| bitAt 54 true ||| at' 0 0xFFFFFFFF

theorem poisonWord_der (cause : Nat) : poisonWord cause false true noIndex = derWord cause := by
  simp [poisonWord, derWord, noIndex, bitAt]

section
variable (e : Env) (op : MxOp) (m : BitVec 3) (z : Bool) (x : Nat) (r : UnitRegs)

/-- W_A + 10, the latency of a compute trigger (R228). -/
def Env.mxLat : Nat := mxWa (cfgAfmt (e.sh0.cim m).cfg) + 10

/-- The poison bits of the active plane. -/
def Env.mxPblk : Nat := (e.sh0.cim m).pblk.toNat / (if (e.sh0.cim m).act then 256 else 1) % 256

/-- The adapter term of a trigger, and whether a piece that it reads is poisoned. -/
def Env.mxAdapter : Option (Nat → Nat × FFlags) × Bool := if op = .mad then adapterTerm e.sh0 x r.o2.bits.toNat else (none, false)

/-- What a compute trigger puts in flight: poison of the plane first, then that of the adapter. -/
theorem mxResult_eq : e.mxResult op m z x r =
    if e.mxPblk m ≠ 0 then macroDead (e.mxLat m) (derWord 0x41)
    else if (e.mxAdapter op x r).2 then macroDead (e.mxLat m) (derWord 0x0C)
    else macroYield (e.mxLat m) (mxCompute (e.mxIn op z (e.sh0.cim m) x r (e.mxAdapter op x r).1)) := by
  rw [← poisonWord_der, ← poisonWord_der]
  rfl

theorem mxResult_lat : (e.mxResult op m z x r).lat = e.mxLat m := by
  rw [mxResult_eq]
  split_ifs <;> rfl

theorem mxResult_poison (w : Word) : (e.mxResult op m z x r).poison w = macroDead (e.mxLat m) (w ||| bitAt 54 true) := by
  rw [mxResult_eq]
  split_ifs <;> rfl

theorem mxResult_block (h : e.mxPblk m ≠ 0) : e.mxResult op m z x r = macroDead (e.mxLat m) (derWord 0x41) := by
  rw [mxResult_eq, if_pos h]

variable {e op m x r}

theorem mxResult_lost (h : e.mxPblk m = 0) (ha : (e.mxAdapter op x r).2 = true) :
    e.mxResult op m z x r = macroDead (e.mxLat m) (derWord 0x0C) := by
  rw [mxResult_eq, if_neg (not_not.2 h), if_pos ha]

/-- What a compute trigger samples (R234, R235). -/
def Env.sampled (e : Env) (op : MxOp) (m : BitVec 3) (z : Bool) (x : Nat) (r : UnitRegs) (ad : Option (Nat → Nat × FFlags)) : MxIn :=
  ⟨op, z, (e.sh0.cim m).cfg, (e.sh0.cim m).plane (e.sh0.cim m).act, e.q0.mxpad, x, r.o1.bits.toNat, r.o2.bits.toNat, r.o3.bits.toNat,
    (BitVec.ofNat 32 (fld (e.sh0.cim m).cfg 32 32)).toInt, fld (e.sh0.cim m).cfg 16 16, ad⟩

theorem mxIn_eq (ad : Option (Nat → Nat × FFlags)) : e.mxIn op z (e.sh0.cim m) x r ad = e.sampled op m z x r ad := by
  rw [Env.sampled, ← signed_eq_toInt (by decide)]
  rfl

theorem mxResult_gives (h : e.mxPblk m = 0) {ad : Option (Nat → Nat × FFlags)} (ha : e.mxAdapter op x r = (ad, false)) :
    e.mxResult op m z x r = macroYield (e.mxLat m) (mxCompute (e.sampled op m z x r ad)) := by
  rw [mxResult_eq, if_neg (not_not.2 h), ha, mxIn_eq]
  rfl

end

/-! ### The adapter path of mad (R237) -/

section
variable (h : Shared) (t o2 : Nat)

/-- The address of the entry of a row's adapter. -/
def adapterAddr : Nat := o2 / 128 % 8192 * 128 + 4 * (t / 2 ^ 8148 % 4096)

/-- The entry. -/
def adapterEntry : Nat := csRead h (adapterAddr t o2) 4

/-- Its rank. -/
def adapterRank : Nat := min (adapterEntry h t o2 / 2 ^ 24 % 128) 64

/-- The address of its row j. -/
def adapterRow (j : Nat) : Nat := adapterEntry h t o2 % 2 ^ 20 / 128 * 128 + 512 * j

/-- The term of a column: the sum of the row's u times the column of the rows. -/
def adapterSum (n : Nat) : Nat × FFlags :=
  fp32.pack 0 (sumNum 0 ((List.range (adapterRank h t o2)).map fun j =>
    mulNum (fp32.unpack (lane 32 (t / 2 ^ 4096) j)) (bf16.unpack (lane 16 (csRead h (adapterRow h t o2 j) 512) n))))

theorem adapterTerm_eq : adapterTerm h t o2 =
    if adapterEntry h t o2 / 2 ^ 31 = 0 ∨ adapterRank h t o2 = 0 then (none, csPoisoned h (adapterAddr t o2) 4)
    else (some (adapterSum h t o2), csPoisoned h (adapterAddr t o2) 4 ||
      (List.range (adapterRank h t o2)).any fun j => csPoisoned h (adapterRow h t o2 j) 512) := by
  unfold adapterTerm adapterSum adapterRow adapterRank adapterEntry adapterAddr
  rw [tagAdid_rowTag]
  simp only [List.zip_map', List.map_map, Function.comp_def]

variable {h t o2}

theorem adapterTerm_poisoned (hp : csPoisoned h (adapterAddr t o2) 4 = true) : (adapterTerm h t o2).2 = true := by
  rw [adapterTerm_eq]
  split_ifs
  · exact hp
  · simp [hp]

theorem adapterTerm_none (hp : csPoisoned h (adapterAddr t o2) 4 = false)
    (hn : adapterEntry h t o2 / 2 ^ 31 = 0 ∨ adapterRank h t o2 = 0) :
    adapterTerm h t o2 = (none, false) := by
  rw [adapterTerm_eq, if_pos hn, hp]

theorem adapterTerm_some (hp : csPoisoned h (adapterAddr t o2) 4 = false) (hv : adapterEntry h t o2 / 2 ^ 31 ≠ 0)
    (hr : adapterRank h t o2 ≠ 0) : adapterTerm h t o2 = (some (adapterSum h t o2),
      (List.range (adapterRank h t o2)).any fun j => csPoisoned h (adapterRow h t o2 j) 512) := by
  rw [adapterTerm_eq, if_neg (not_or.2 ⟨hv, hr⟩), hp, Bool.false_or]

end

/-! ### The obligation -/

section
variable {s : State} {k p : Nat} {g : Guard} {src : Src} {m : BitVec 3} {z : Bool}

/-- A move of a source leaves the core as it was when the trigger is written. -/
theorem afterMove_congr {f f' : Env → Env} (h : ∀ e, e.core = s.core k → e.q0 = (s.core k).prt p → f e = f' e) :
    s.afterMove k p src f = s.afterMove k p src f' :=
  congrArg (s.endWord k p) (h _ (readSrc_core (s.env k p) src) (readSrc_q0 (s.env k p) src))

theorem mxResult_congr {e e' : Env} (hc : e.core = e'.core) (hq : e.q0 = e'.q0) (op : MxOp) (x : Nat) (r : UnitRegs) :
    e.mxResult op m z x r = e'.mxResult op m z x r := by
  rcases e with ⟨_, _, c, q, _⟩
  subst hc hq
  rfl

/-- A compute trigger on clean inputs (R228, R235). -/
theorem exec_compute {i : Instr} {op : MxOp} (hi : i.group = some (oneMove g src (.trig (.mxComp op m z))))
    (h : s.macroFires k p g src (.mxComp op m z) = true) :
    exec i s = .next (s.afterMove k p src fun e => ((e.interval m (mxWa (cfgAfmt ((s.core k).sh0.cim m).cfg))).used m).launch .mx m
      ((s.env k p).mxResult op m z (s.datum k p src .mx) (s.ports k p .mx))) := by
  refine (exec_macro hi rfl h).trans (congrArg Host.Outcome.next (afterMove_congr fun e hc hq => ?_))
  rw [← mxResult_congr (e := e) hc hq, ← hc]
  rfl

/-- The poisoned result of a compute trigger has the latency of what the trigger samples. -/
theorem firePoisoned_compute (e : Env) (op : MxOp) (x : Nat) (r : UnitRegs) (w : Word) : e.firePoisoned (.mxComp op m z) x r w =
    ((e.interval m (mxWa (cfgAfmt (e.sh0.cim m).cfg))).used m).launch .mx m (macroDead (e.mxLat m) (w ||| bitAt 54 true)) := by
  have hs : ((e.beginInterval m).markMx m).sh0 = e.sh0 := by
    unfold Env.markMx
    split_ifs <;> rfl
  have hl : ((e.beginInterval m).markMx m).mxLat m = e.mxLat m := by rw [Env.mxLat, hs, ← Env.mxLat]
  rw [Env.firePoisoned, mxResult_poison, hl]
  rfl

/-- A compute trigger with a poisoned input that it uses (R236, R352). -/
theorem exec_compute_poisoned {i : Instr} {op : MxOp} (hi : i.group = some (oneMove g src (.trig (.mxComp op m z)))) (w : Word)
    (h : s.placed k p g src (.trig (.mxComp op m z)) = true) (hr : (s.env k p).reservedUse (.mxComp op m z) = false)
    (hm : (s.env k p).mxRefuses (.mxComp op m z) = false) (hw : s.poisonIn k p src (.mxComp op m z) = some w) :
    exec i s = .next (s.afterMove k p src fun e => ((e.interval m (mxWa (cfgAfmt ((s.core k).sh0.cim m).cfg))).used m).launch .mx m
      (macroDead (mxWa (cfgAfmt ((s.core k).sh0.cim m).cfg) + 10) w)) := by
  obtain ⟨y, rfl, hx⟩ := exec_macro_poisoned hi rfl rfl h hr hm hw
  refine hx.trans (congrArg Host.Outcome.next (afterMove_congr fun e hc _ => ?_))
  rw [firePoisoned_compute, Env.mxLat, Env.sh0, hc]

/-- A swap of planes takes the plane that was active when the cycle began (R233). -/
theorem exec_bsw (h : s.macroFires k p g src (.mxBsw m) = true) :
    exec (.mxBsw m g src) s = .next (s.afterMove k p src fun e => ((e.interval m (mxWa (cfgAfmt ((s.core k).sh0.cim m).cfg))).modSh fun h =>
      h.modCim m fun y => { y with act := !((s.core k).sh0.cim m).act }).used m) := by
  refine (exec_macro rfl rfl h).trans (congrArg Host.Outcome.next (afterMove_congr fun e hc _ => ?_))
  rw [← hc]
  rfl

/-- What a bld does: its interval, and its block in flight with its poison (R232, R352). -/
theorem bld_eq (e : Env) (x : Nat) (r : UnitRegs) (psn : Bool) {h : Shared} (hh : e.sh0 = h) : (e.bld m x r psn).markMx m =
    ((e.modSh fun h => h.modCim m fun y => { y with bivl := ⟨true, 8, e.p⟩ }).launch .mx m
      { lat := mxWa (cfgAfmt (h.cim m).cfg) + 10,
        eff := .bld (!(h.cim m).act) (bldJ r.o1.bits.toNat) (BitVec.ofNat 4 (cfgBfmt (h.cim m).cfg))
          (bldBlock (cfgBfmt (h.cim m).cfg) x r.o1.bits.toNat r.o2.bits.toNat h).1
          (bldBlock (cfgBfmt (h.cim m).cfg) x r.o1.bits.toNat r.o2.bits.toNat h).2.1
          (psn || (bldBlock (cfgBfmt (h.cim m).cfg) x r.o1.bits.toNat r.o2.bits.toNat h).2.2) }).used m := by
  subst hh
  rfl

theorem exec_bld_poisoned (w : Word) (h : s.placed k p g src (.trig (.mxBld m)) = true) (hr : (s.env k p).reservedUse (.mxBld m) = false)
    (hm : (s.env k p).mxRefuses (.mxBld m) = false) (hw : s.poisonIn k p src (.mxBld m) = some w) :
    exec (.mxBld m g src) s = .next (s.afterMove k p src fun e => (e.bld m (s.datum k p src .mx) (s.ports k p .mx) true).markMx m) := by
  obtain ⟨y, -, hx⟩ := exec_macro_poisoned (i := .mxBld m g src) rfl rfl rfl h hr hm hw
  exact hx

end

/-- Settles O11: a word of mx fires its trigger on what the cycle began with, the result of a compute trigger is poison of the plane,
poison of the adapter (log 63) or what it computes, and a column of a float pair is one aligned pass or a fill. -/
theorem macroTriggerEffects : Obligations.MacroTriggerEffects := by
  unfold Obligations.MacroTriggerEffects
  intro s k p g src m z e0 h c wa x r go bad comp dead dies b load pblk gives lost ma ent rank up
  have loads (psn : Bool) : s.afterMove k p src (fun e => (e.bld m x r psn).markMx m) = s.afterMove k p src (load (psn || b.2.2)) :=
    afterMove_congr fun e hc _ => bld_eq e x r psn (congrArg Core.sh0 hc)
  have yields {op : MxOp} {ad : Option (Nat → Nat × FFlags)} (hb : pblk = 0) (ha : e0.mxAdapter op x r = (ad, false)) : gives op ad :=
    mxResult_gives (e := e0) (m := m) z hb ha
  have loses (hb : pblk = 0) (ha : (adapterTerm h x r.o2.bits.toNat).2 = true) : lost .mad 0x0C :=
    mxResult_lost (e := e0) (m := m) z hb ha
  refine ⟨mxResult_lat .., mxResult_lat .., mxResult_lat .., exec_compute rfl, exec_compute rfl, exec_compute rfl, exec_bsw,
    exec_macro rfl rfl, fun hf => (exec_macro rfl rfl hf).trans (congrArg _ (loads false)), exec_compute_poisoned rfl,
    exec_compute_poisoned rfl, exec_compute_poisoned rfl,
    fun w hp hr hm hw => (exec_bld_poisoned w hp hr hm hw).trans (congrArg _ (loads true)), fun hb op => mxResult_block _ _ _ _ _ _ hb,
    fun hb => ⟨yields hb rfl, yields hb rfl, fun hp => loses hb (adapterTerm_poisoned hp), fun hp =>
      ⟨fun hn => yields hb (adapterTerm_none hp hn), fun hv hr => ?_⟩⟩, ?_⟩
  · have hsome := adapterTerm_some hp hv hr
    constructor
    · rintro ⟨j, hj, hpj⟩
      exact loses hb ((congrArg Prod.snd hsome).trans (List.any_eq_true.2 ⟨j, List.mem_range.2 hj, hpj⟩))
    · intro ha
      have hclean : ((List.range rank).any fun j => csPoisoned h (up j) 512) = false := by
        simpa using ha
      exact yields hb (hsome.trans (congrArg _ hclean))
  · intro i hi _ f W wb cb tidx msk past rowm colm elm above v logs emax sx inval qa eqb qb on part add acc pass val fill out y fl
    have hcol : i.col = out := funext (col_float i hi)
    have hfl : (mxCompute i).fl = fl := (mxCompute_fl i).trans (by rw [hcol])
    have hflag := mxCompute_flag i
    rw [hfl] at hflag
    exact ⟨fun n hn => (mxCompute_lane i hn).trans (by rw [hcol]), hfl, hflag⟩

end Sys2Proof.Machine
end
